-- ==== Sys2Proof/Word.lean ====
section
/-! DEFINITION. The word types and the sparse map type. A map is a list of key and value pairs; its canonical form
(keys rising, no entry equal to the default) is `Map.Wf` of `Machine/Ops.lean`. -/

namespace Sys2Proof

/-- One byte. -/
abbrev Byte := BitVec 8

/-- A 64-bit word: a scalar register, an instruction word, a register of the management window. -/
abbrev Word := BitVec 64

/-- A sparse table by number. -/
abbrev Map (α : Type) := List (Nat × α)

end Sys2Proof
end

