-- ==== Sys2Proof/Syntax.lean ====
section
/-! DEFINITION. The commands of the NT3: one constructor per row of spec/opcode_table.json, with its operands. -/

namespace Sys2Proof

/-- Who executes an instruction: a cluster sequencer or a control core (R126). -/
inductive Agent where
  | seq  (c : Fin 768)
  | core (k : Fin 8)
  deriving DecidableEq, Repr

/-- A task: its partition and its handle, laid out as R80 gives it. -/
structure TaskId where
  part : Fin 64
  hnd  : BitVec 64
  deriving DecidableEq, Repr

/-- A submission entry: partition, ring and sequence number (R365). -/
structure EntryId where
  part : Fin 64
  ring : Fin 4
  seq  : BitVec 32
  deriving DecidableEq, Repr

/-- A fabric packet: the header of Table 13.8 field by field, and its granules, one 32-byte value each. -/
structure Packet where
  typ    : BitVec 8
  vc     : BitVec 4
  len    : BitVec 5
  tag    : BitVec 16
  poison : BitVec 16
  spart  : BitVec 6
  status : BitVec 16
  src    : BitVec 14
  dst    : BitVec 14
  stage  : BitVec 3
  op     : BitVec 8
  addr   : BitVec 64
  aux    : BitVec 64
  data   : List (BitVec 256)
  /-- Reserved bits of the header that are not zero (R286). -/
  resv   : Bool := false
  /-- The machine-wide indices that a segment of a MAX or MIN carries (R322); Table 14.5 gives them no place. (log 17, DEDUCED) -/
  idx    : List (BitVec 64) := []
  deriving DecidableEq, Repr

/-- A flit as it leaves forward error correction (Table 13.5, R289): bytes 0 to 7, the 15 slots from byte 8 on, the CRC bytes, and
how many symbols or bursts were corrected. Bytes 252 to 255 are reserved. -/
structure RawFlit where
  head  : BitVec 64
  slots : BitVec 1920
  crc   : BitVec 32
  fixed : Nat
  deriving DecidableEq, Repr

/-- The fields of a beacon, Table 13.15. -/
structure BeaconMsg where
  tx      : BitVec 64
  echo    : BitVec 64
  hold    : BitVec 32
  root    : BitVec 14
  depth   : BitVec 8
  locked  : Bool
  fmt     : BitVec 4
  fracTx  : BitVec 4
  fracHold : BitVec 4
  upRoot  : BitVec 14
  upValid : Bool
  upDepth : BitVec 8
  deriving DecidableEq, Repr

/-- The identity fields of a training flit, Table 13.13. -/
structure Ident where
  chip  : BitVec 14
  port  : BitVec 6
  slot  : BitVec 3
  lpl   : BitVec 8
  lanes : BitVec 7
  deriving DecidableEq, Repr

/-- A segment of a collective: the header of Table 14.5 and its payload bytes. -/
structure Segment where
  part   : Fin 64
  src    : BitVec 14
  handle : BitVec 16
  num    : BitVec 16
  seg    : BitVec 32
  rank   : BitVec 16
  wire   : BitVec 8
  count  : BitVec 16
  xlen   : BitVec 16
  book   : BitVec 8
  check  : BitVec 32
  index  : BitVec 16
  data   : List Byte
  /-- The channel it comes on (R319, R325). -/
  vc     : BitVec 4 := 0
  /-- The machine-wide index of each element of a MAX or MIN (R184, R322); Table 14.5 gives it no place in the packet. -/
  idx    : List (BitVec 64) := []
  deriving DecidableEq, Repr

/-- What a set-up segment carries (R315). -/
structure SetupMsg where
  part    : Fin 64
  src     : BitVec 14
  handle  : BitVec 16
  rank    : BitVec 16
  /-- Operation, class-specific fields, source extents and format. -/
  items   : List Nat
  listCrc : BitVec 32
  /-- TAG of the sender's task. -/
  tag     : BitVec 64
  lpl     : BitVec 8
  deriving DecidableEq, Repr

/-- Messages of the system channels that are not rows of their own (R294, R330, R331). -/
inductive SysMsg where
  /-- A target asks for the pages of the first positions of a sequence of ours (R330 step 2). -/
  | pageListAsk (part : Fin 64) (rec range : Nat) (seqId count : BitVec 32)
  /-- A source lends the pages of one range: it answers with the record and the range that asked, its sequence, the layout
  descriptor, the pages group by group, in a group by layer, and a protected flag. -/
  | pageListGive (part : Fin 64) (rec range : Nat) (seqId layout : BitVec 32) (pages : List Nat) (prot : Bool)
  /-- A source refuses with a status (R331). -/
  | pageListRefuse (part : Fin 64) (rec range : Nat) (status : BitVec 16)
  /-- A target returns what a source lent: the plan's record has ended (R331). -/
  | lendEnd (part : Fin 64) (seqId : BitVec 32)
  deriving DecidableEq, Repr

/-- What the boot of R432 finds: which units fail self-test (step 6, 7), whether the reference and supply hold, whether
the identity matches (R355), and what the row test finds when it has to run (R226). -/
structure BootEnv where
  badCores    : List (Fin 8)
  badClusters : List (Fin 768)
  badSegs     : List (Fin 768 × Fin 4)
  badGroups   : List (Fin 64)
  badPorts    : List (Fin 39)
  badOptical  : List (Fin 4)
  slotStraps  : BitVec 3
  identityOk  : Bool
  /-- The ENROL strap: low accepts an enrolment (R352). -/
  enrolN      : Bool
  /-- Failing rows of the built-in row test: vault, die, bank, row. -/
  badRows     : List (Fin 512 × Fin 8 × Fin 16 × BitVec 12)
  /-- The new nonce of R345. -/
  nonce       : BitVec 128
  bootMs      : BitVec 16
  deriving DecidableEq, Repr

/-- A configuration request that the model tells apart: a read of the capability structures, or a write of the control register of
a Resizable BAR, by size in GiB, of the physical function or of the virtual functions (Table 16.1). -/
inductive CfgReq where
  | read
  | resize (vf : Bool) (gib : Nat)
  deriving DecidableEq, Repr

/-- One command. The comment of a group names the chapter that gives the rows. -/
inductive Instr where
  -- scalar class (08)
  | add (a : Agent) (w : Word) | sub (a : Agent) (w : Word) | and (a : Agent) (w : Word) | or (a : Agent) (w : Word)
  | xor (a : Agent) (w : Word) | shl (a : Agent) (w : Word) | shr (a : Agent) (w : Word) | sar (a : Agent) (w : Word)
  | cmp (a : Agent) (w : Word) | sel (a : Agent) (w : Word) | muls (a : Agent) (w : Word) | movi (a : Agent) (w : Word)
  | movhi (a : Agent) (w : Word) | ld (a : Agent) (w : Word) | st (a : Agent) (w : Word) | mve (a : Agent) (w : Word)
  | rdst (a : Agent) (w : Word) | rdtick (a : Agent) (w : Word) | dld (a : Agent) (w : Word) | dldm (a : Agent) (w : Word)
  | dstr (a : Agent) (w : Word) | dset (a : Agent) (w : Word) | dadd (a : Agent) (w : Word) | dget (a : Agent) (w : Word)
  -- control and synchronisation classes (08)
  | br (a : Agent) (w : Word) | brp (a : Agent) (w : Word) | brn (a : Agent) (w : Word) | loop (a : Agent) (w : Word)
  | loopi (a : Agent) (w : Word) | waite (a : Agent) (w : Word) | waiteResume (a : Agent) | endSeq (a : Agent) (w : Word)
  | nop (a : Agent) (w : Word) | fence (a : Agent) (w : Word) | fenceResume (a : Agent) | bar (a : Agent) (w : Word)
  | barRelease (t : TaskId) | phase (a : Agent) (w : Word) | phaseBoundary (t : TaskId) | waitt (a : Agent) (w : Word)
  | waittResume (a : Agent) | evset (a : Agent) (w : Word) | waitTimeout (c : Fin 768) | unitQueueResume (c : Fin 768)
  -- matrix class and its events (02, 03, 04, 08)
  | tmm (a : Agent) (w : Word) | tmmp (a : Agent) (w : Word) | invocationRelease (c : Fin 768)
  | tileEnd (c : Fin 768) (k : Fin 16) | bankDrain (c : Fin 768) (k : Fin 16) (b : Fin 2)
  | bankDrainEnd (c : Fin 768) (k : Fin 16) (b : Fin 2) | tensorComplete (c : Fin 768) (u : Fin 7)
  -- vector class (05, 08)
  | vewAdd (a : Agent) (w : Word) | vewSub (a : Agent) (w : Word) | vewMax (a : Agent) (w : Word) | vewMin (a : Agent) (w : Word)
  | vewAbs (a : Agent) (w : Word) | vewNeg (a : Agent) (w : Word) | vewMul (a : Agent) (w : Word) | vewDiv (a : Agent) (w : Word)
  | vewMuladd (a : Agent) (w : Word) | vewSqrt (a : Agent) (w : Word) | vewRsqrt (a : Agent) (w : Word)
  | vewExp2 (a : Agent) (w : Word) | vewExp (a : Agent) (w : Word) | vewLog2 (a : Agent) (w : Word) | vewLog (a : Agent) (w : Word)
  | vewPow (a : Agent) (w : Word) | vewSigm (a : Agent) (w : Word) | vewSilu (a : Agent) (w : Word)
  | vredSum (a : Agent) (w : Word) | vredMax (a : Agent) (w : Word) | vredMin (a : Agent) (w : Word)
  | vargMax (a : Agent) (w : Word) | vargMin (a : Agent) (w : Word) | vcvt (a : Agent) (w : Word)
  -- scratchpad, data movement, attention, collective, stream, training and system classes (06, 08 to 12, 14)
  | sfill (a : Agent) (w : Word) | scopy (a : Agent) (w : Word) | dmov (a : Agent) (w : Word) | gath (a : Agent) (w : Word)
  | atom (a : Agent) (w : Word) | kvapp (a : Agent) (w : Word) | kvappResume (c : Fin 768) | attn (a : Agent) (w : Word)
  | kvstg (a : Agent) (w : Word) | cred (a : Agent) (w : Word) | cbrd (a : Agent) (w : Word) | cgat (a : Agent) (w : Word)
  | rngsClaim (a : Agent) (w : Word) | rngsRel (a : Agent) (w : Word) | rngsReleaseDone (c : Fin 768)
  | prune (a : Agent) (w : Word) | winw (a : Agent) (w : Word) | tstart (a : Agent) (w : Word) | tpark (a : Agent) (w : Word)
  | tresume (a : Agent) (w : Word) | mrd (a : Agent) (w : Word) | mwr (a : Agent) (w : Word)
  -- tasks, rings and entries (07, 16, 17)
  | taskFail (t : TaskId) | taskEnd (t : TaskId) | schedulingPass (host : List (Nat × Byte)) | entrySeq (p : Fin 64) (r : Fin 4)
  | nopEntry (e : EntryId) | task (e : EntryId) | taskStart (e : EntryId) | step (e : EntryId) | reshard (e : EntryId)
  | reshardRecordDone (p : Fin 64) | seqAdmit (e : EntryId) | seqEnd (e : EntryId)
  | swapWriteDone (p : Fin 64) (sid : BitVec 32) | ringEnable (p : Fin 64) (r : Fin 4) | ringDisable (p : Fin 64) (r : Fin 4)
  -- heartbeat, host loss and PCI Express (16); `none` is the device, `some p` partition p
  | heartbeat | partitionHeartbeat (p : Fin 64) | heartbeatExpiry | partitionHbExpiry (p : Fin 64)
  | detach (p : Option (Fin 64)) | detachParkTimeout (p : Option (Fin 64)) | attach (p : Option (Fin 64))
  | retainExpiry (p : Option (Fin 64)) | conventionalReset | hotReset | perstDeassert
  | pcieLinkUp (gtPerS10 : Nat) (width : Nat) | pcieLinkDown | vfFlr (k : Fin 64) | pfFlr
  | d3hotEntry (fn : Fin 65) | d0Return (fn : Fin 65) | configRequest (q : CfgReq)
  | apertureRead (fn : Fin 65) (off : BitVec 37) (len : Nat)
  | apertureWrite (fn : Fin 65) (off : BitVec 37) (data : List Byte) (ep : Bool)
  | registerWrite (fn : Fin 65) (off : BitVec 26) (size value : Nat)
  -- guard (15)
  | submit (length : BitVec 15) (enrolN : Bool) | guardStateWritten | guardQuiesced (enrolN : Bool) | guardQuiesceTimeout | guardCommit | attest (part : BitVec 8)
  -- firmware, flash, log and trace (17, 19)
  | fwWrite (slot : Bool) | activate (slot persist : Bool) | cancel | activationParkStart | deferTimeout | actParkTimeout
  | firmwareSwitch | activationDone | actFallback | configWrite | fieldRewrite
  | traceMark (point : BitVec 8) (data : BitVec 56) | traceEnable | epochRecord | clearLost
  | spadStatusClear (c : Fin 768) | vecStatusClear (c : Fin 768) | xcStatusClear (c : Fin 768) | sparseStatusClear (c : Fin 768)
  | release (p : Fin 64)
  -- power, clocks and temperature (18, 20)
  | pwrCapWrite (value : BitVec 32) | deviceQuiesce | deviceQuiesced | stateParkTimeout | deviceOn | deviceLow | deviceOff
  | orderlyRemovalEnd | clusterRun (first : BitVec 10) (count : BitVec 11) | clusterGate (first : BitVec 10) (count : BitVec 11)
  | clusterRetain (first : BitVec 10) (count : BitVec 11) | clusterOff (first : BitVec 10) (count : BitVec 11)
  | segmentOn (first : BitVec 10) (count : BitVec 11) (mask : BitVec 4)
  | segmentOff (first : BitVec 10) (count : BitVec 11) (mask : BitVec 4)
  | vaultGroupActive (first : BitVec 10) (count : BitVec 11) | vaultGroupSelfRefresh (first : BitVec 10) (count : BitVec 11)
  | vaultGroupOff (first : BitVec 10) (count : BitVec 11) | drainComplete (g : Fin 64) | drainTimeout (g : Fin 64)
  | groupFillDone (g : Fin 64) | gearChange (g : BitVec 4)
  | capControlPeriod (inputMw clusterMw : Nat) (partMj : List (Fin 64 × Nat)) (unattrMj : Nat)
  | droopDetect (c : Fin 768) | droopRecover (c : Fin 768) | droopEmergency
  | thermalSample (readings : List (Fin 256 × BitVec 16)) | thermalStageLeave | thermalTrip (sensor : Fin 256)
  -- stacked memory (06, 09)
  | refresh (v : Fin 512) (die : Fin 8) (bank : Fin 16) | patrolScrub (g : Fin 64) | scratchpadScrub (c : Fin 768)
  | errorEntryExpire (v : Fin 512) (idx : Nat) | burstRead (addr : BitVec 37) (n : Nat)
  | burstWrite (addr : BitVec 37) (data : List Byte) | narrowRead (addr : BitVec 37) (len : Nat)
  | narrowWrite (addr : BitVec 37) (data : List Byte)
  | memoryAtomic (addr : BitVec 37) (aop : BitVec 2) (atype : BitVec 2) (data : List Byte) (poisoned : Bool)
  | pooledBag (p : Fin 64) (table : BitVec 256) (slots : List (Option Nat)) (outFmt : BitVec 8)
  -- fabric (13)
  | dataFlit (n : Fin 39) (f : RawFlit) | idleFlit (n : Fin 39) (f : RawFlit)
  | beacon (n : Fin 39) (b : BeaconMsg) | beaconSend (n : Fin 39) | trainingFlit (n : Fin 39) (i : Ident)
  | trainingFlitSend (n : Fin 39) | laneTrained (n : Fin 39) (lanes : BitVec 4) | identityTimeout (n : Fin 39)
  | laneSignalLoss (n : Fin 39) | portSilenceTimeout (n : Fin 39) | requestTimeout (tag : BitVec 16)
  | read (n : Fin 39) (k : Packet) | write (n : Fin 39) (k : Packet) | atomic (n : Fin 39) (k : Packet)
  | gather (n : Fin 39) (k : Packet) | readResp (n : Fin 39) (k : Packet) | ack (n : Fin 39) (k : Packet)
  | gatherResp (n : Fin 39) (k : Packet) | sys (n : Fin 39) (src : BitVec 14) (m : SysMsg)
  | collSetup (n : Fin 39) (m : SetupMsg) | collContribution (n : Fin 39) (m : Segment) | collResult (n : Fin 39) (m : Segment)
  | collAbort (n : Fin 39) (m : Segment) (status : BitVec 16) | darkNotice (n : Fin 39) | withdrawalMessage (n : Fin 39)
  | failureNotice (chip : BitVec 14) | litLanesChange (value : BitVec 32) | laneChangeDone | chipAssign (chip : BitVec 14)
  | adopt (ports : BitVec 39) | retrain (n : Fin 39)
  -- power-up, removal and errors (19, 21)
  | bladeMate | powerUp (env : BootEnv) | bootComplete | enableLow | inputUndervoltage | inputOvervoltage | refclkLoss
  | pllLockLoss | surpriseRemoval | unitInternalError (c : Fin 768) | hostRequestError (p : Fin 64)
  | fatalError (status : BitVec 16) (unit index : BitVec 16) (akind : BitVec 8) (addr : Word) | watchdogExpiry (k : Fin 8)
  | correctedRecord (status unit index : BitVec 16) (part : BitVec 8) (akind : BitVec 8) (addr : Word) (count : BitVec 32)
  | laneLightDetect (n : Fin 39) | unitTransitionDone | slotWriteDone (ok : Bool) | imageWriteDone
  | registerRead (fn : Fin 65) (off : BitVec 26) (size : Nat) | swapReadDone (p : Fin 64) (sid : BitVec 32) (tagOk : Bool)
  deriving DecidableEq, Repr

end Sys2Proof
end

