-- ==== Sys2Proof/Decode.lean ====
section
/-! DEFINITION. The decoder over the table's bits: no row of spec/opcode_table.json gives bits (every row's list of fields is
empty), so no word spells a command. The encodings of the Ibdifel instruction words stand in `Machine/Operands.lean`. -/

namespace Sys2Proof

def decodeTableWord (_nbits _w : Nat) : Option Instr := none

end Sys2Proof
end

