-- ==== Sys2Proof/Config.lean ====
section
/-! DEFINITION. What an implementation fixes and what the spec leaves open: constants without a body, so that nothing can
be proved of their values. -/

namespace Sys2Proof.Config

/-- Bits of an output element that the spec calls undefined, or of a value it does not state; indexed by
`State.freeTick`. -/
opaque freeValue : Nat → BitVec 64

/-- The SHA-512 digest of bytes (R341, R344, R350, R355 to R357): the spec names the standard only. -/
opaque sha512 : List Byte → BitVec 512

/-- ECDSA verification on P-521 of a 132-byte signature over a digest (R344): key, digest, signature. -/
opaque sigVerify : List Byte → BitVec 512 → List Byte → Bool

/-- An ECDSA signature by a private key over a digest (R356, R357): 132 bytes. -/
opaque sign : BitVec 528 → BitVec 512 → List Byte

/-- Cerward's firmware key holds for an image: its signature verifies over bytes 0 to LENGTH - 133 (R392). -/
opaque fwSigOk : List Byte → Bool

/-- The public key of a private key, 133 bytes (R344, R356). -/
opaque pubKey : BitVec 528 → List Byte

/-- The 64-byte seed that the compute die's physical-unclonable function gives (R355). -/
opaque pufSeed : List Byte

/-- SHA-512 of the boot ROM (Table 15.6). -/
opaque mRom : BitVec 512

/-- Contents of configuration sections, whose inner layout the spec does not give (Table 19.4). -/
opaque secIdent : List Byte → BitVec 14
opaque secPower : List Byte → BitVec 11
opaque secNeighbours : List Byte → List (BitVec 14 × BitVec 6)
opaque secLink : List Byte → Bool × BitVec 16
opaque secHost : List Byte → BitVec 16 × BitVec 16 × Nat

/-- The bytes of an image with its FIELD_REPAIR section replaced: where it then lies is not in the spec (R439). -/
opaque imageField : List Byte → List Byte → List Byte
/-- The same with IDENT replaced, whose inner layout the spec does not give (R287, R440). -/
opaque imageIdent : List Byte → BitVec 14 → List Byte
/-- SHA-512 of the default image that the boot ROM builds (R438). -/
opaque cfgDefault : BitVec 512

/-- Bytes of a state copy, whose layout in flash is not given (R341), for M_GUARD: words of its contents. -/
opaque guardBytes : List (BitVec 64) → List Byte
/-- Bytes of a partition's table entry, extent table and admission entries for M_PART (Table 15.6): words, as laid out in flash. -/
opaque partBytes : List (BitVec 64) → List Byte
/-- DIGEST of an enrolment, which no party signs. -/
opaque enrolDigest : List Byte → BitVec 512

/-- Device addresses of Nightwatch's structures (R381). -/
opaque logBase : BitVec 37
opaque trcBase : BitVec 37
opaque treeBase : Nat → BitVec 37
/-- Partition address of a sequence's descriptor stream (partition, order of admission, GMAX), of a group's page list
(partition, group), the first GMAX of a stream, and the pages that Nightwatch puts on a partition's free list. -/
opaque streamBase : Nat → Nat → Nat → BitVec 40
opaque listBase : Nat → Nat → BitVec 40
opaque firstGmax : BitVec 8
opaque kvPages : Nat → List Nat

/-- AES-256-GCM under a partition's swap key (R274): key, slot, swap counter, plaintext to ciphertext, and ciphertext to the
128-bit tag. -/
opaque swapSeal : BitVec 256 → Nat → Nat → List Byte → List Byte
opaque swapTag : BitVec 256 → Nat → Nat → List Byte → BitVec 128
/-- AES-256-XTS of one die-sector (R208): data key, tweak key, device address, plaintext to ciphertext, 32 bytes. -/
opaque xtsSeal : BitVec 256 → BitVec 256 → Nat → List Byte → List Byte

/-- CLK_A cycles, less one, in which an instruction starts work in its unit (Table 20.6): cluster, instruction. -/
opaque workCycles : Nat → Nat → BitVec 32
/-- CLK_A cycles in which the consumer of an instruction's coded operands waited on an empty expander queue (R241): cluster,
instruction. -/
opaque expWaits : Nat → Nat → BitVec 32

/-- The nonce that follows at a SUBMIT (R345): bits of the on-die entropy source. -/
opaque entropy : Nat → BitVec 128

/-- The 32-bit CHECK of a collective's operation, fields and extents (R315). -/
opaque collCheck : List Nat → BitVec 32

/-- Event numbers and trace-point numbers inside the ranges of Table 17.4, by a name of the model. -/
opaque eventNo : Nat → BitVec 16

/-- The certificate bytes of the module (R355). -/
opaque certificate : List Byte

/-- What the payload of a GATHER packet says (Table 13.9 does not lay it out): elements of a row, its element format, the format
of the output row, and the index list with empty slots. -/
opaque gatherList : Bool → List Byte → (Nat × Nat × Nat) × List (Option Nat)

/-- Granule i of the payload of a GATHER that this device sends: the index list and the row length in an order that the spec
does not give (Table 13.9). Arguments: wide indices, elements of a row, format of the table, format of the output, the rows by
slot, and i. (log 73, DESIGN CHOICE) -/
opaque gatherGranule : Bool → Nat → Nat → Nat → List (Option Nat) → Nat → BitVec 256

/-- Where a firmware image's LOAD bytes go in control SRAM (R396). (log 75, DESIGN CHOICE) -/
opaque loadBase : BitVec 20
/-- Where the state table of R396 lies in control SRAM, and its bytes. (log 75, DESIGN CHOICE) -/
opaque tableBase : BitVec 20
opaque stateTable : Nat → List Byte
/-- Granule i of a system message on a channel (R294): the spec lays its words out nowhere. (log 18, DESIGN CHOICE) -/
opaque sysGranule : BitVec 4 → List (BitVec 64) → Nat → BitVec 256

end Sys2Proof.Config
end

