-- ==== Sys2Proof/Machine/Bits.lean ====
section
/-! DEFINITION. Sparse maps, little-endian byte lists, CRC-32C and integer helpers (R7). -/

namespace Sys2Proof.Machine

/-! ### Sparse maps -/

/-- The value at a key; an unlisted key holds the default. -/
def mget {α : Type} (d : α) : Map α → Nat → α
  | [], _ => d
  | (k', v) :: m, k => if k = k' then v else mget d m k

/-- Stores at a key, keeping keys in rising order. -/
def mput {α : Type} : Map α → Nat → α → Map α
  | [], k, v => [(k, v)]
  | (k', v') :: m, k, v =>
    if k < k' then (k, v) :: (k', v') :: m
    else if k = k' then (k, v) :: m
    else (k', v') :: mput m k v

/-- Removes a key. -/
def merase {α : Type} : Map α → Nat → Map α
  | [], _ => []
  | (k', v') :: m, k => if k = k' then merase m k else (k', v') :: merase m k

/-- Writes a key in canonical form: writing the default removes the entry. -/
def mset {α : Type} [DecidableEq α] (d : α) (m : Map α) (k : Nat) (v : α) : Map α :=
  if v = d then merase m k else mput m k v

/-- Every key is above the bound, keys rise, and no entry equals the default. -/
def mwfFrom {α : Type} [DecidableEq α] (d : α) : Option Nat → Map α → Bool
  | _, [] => true
  | lo, (k, v) :: m => (match lo with | none => true | some l => decide (l < k)) && decide (v ≠ d) && mwfFrom d (some k) m

/-- The canonical form of a map. -/
def mwf {α : Type} [DecidableEq α] (d : α) (m : Map α) : Bool := mwfFrom d none m

/-- Applies a function at a key. -/
def mmod {α : Type} [DecidableEq α] (d : α) (m : Map α) (k : Nat) (f : α → α) : Map α := mset d m k (f (mget d m k))

/-! ### Bytes -/

/-- Reads n bytes upward from an address. -/
def rdBytes (m : Map Byte) (a n : Nat) : List Byte := (List.range n).map fun i => mget 0 m (a + i)

/-- Writes bytes upward from an address. -/
def wrBytes (m : Map Byte) (a : Nat) : List Byte → Map Byte
  | [] => m
  | b :: bs => wrBytes (mset 0 m a b) (a + 1) bs

/-- The value of bytes, least significant first (R7). -/
def leNat : List Byte → Nat
  | [] => 0
  | b :: bs => b.toNat + 256 * leNat bs

/-- The n low bytes of a value, least significant first (R7). -/
def leBytes : Nat → Nat → List Byte
  | 0, _ => []
  | n + 1, v => BitVec.ofNat 8 v :: leBytes n (v / 256)

/-- Bytes lo to lo + n - 1 of a list, as a number. -/
def fieldAt (bs : List Byte) (lo n : Nat) : Nat := leNat ((bs.drop lo).take n)

/-! ### Numbers -/

/-- Bits hi to lo of a number. -/
def bitsOf (v hi lo : Nat) : Nat := (v >>> lo) % 2 ^ (hi + 1 - lo)

/-- One bit of a number. -/
def bitOf (v i : Nat) : Bool := v.testBit i

def ceilDiv (a b : Nat) : Nat := (a + b - 1) / b

/-- L(q) of R57: the fewest bits that hold q in two's complement. -/
def bitLen (q : Int) : Nat := (if q < 0 then (if q = -1 then 0 else Nat.log2 (-q - 1).toNat + 1) else
  (if q = 0 then 0 else Nat.log2 q.toNat + 1)) + 1

/-- Clamps to a range. -/
def clampInt (lo hi v : Int) : Int := if v < lo then lo else if hi < v then hi else v

def bool2 (b : Bool) : Nat := if b then 1 else 0

/-- Adds to a counter that stops at its largest value (R451). -/
def satAdd {w : Nat} (x : BitVec w) (n : Nat) : BitVec w :=
  if x.toNat + n < 2 ^ w then BitVec.ofNat w (x.toNat + n) else BitVec.allOnes w

/-- Serial-number order of R367: a precedes b. -/
def serialBefore (a b : BitVec 32) : Bool := 1 ≤ (b - a).toNat && (b - a).toNat < 2 ^ 31

/-- Replaces bits hi to lo of a word. -/
def putBits (w : Word) (hi lo : Nat) (v : Nat) : Word :=
  let mask : Word := BitVec.ofNat 64 ((2 ^ (hi + 1 - lo) - 1) <<< lo)
  (w &&& ~~~mask) ||| (BitVec.ofNat 64 (v <<< lo) &&& mask)

/-- One step of CRC-32C over a bit (reflected polynomial 0x82F63B78; PRESUMED from the standard that R288 names). (log 64, PRESUMED) -/
def crcBits : Nat → Nat → Nat
  | 0, c => c
  | n + 1, c => crcBits n (if c % 2 = 1 then (c / 2) ^^^ 0x82F63B78 else c / 2)

/-- See log 64, PRESUMED. -/
def crcFrom : Nat → List Byte → Nat
  | c, [] => c
  | c, b :: bs => crcFrom (crcBits 8 (c ^^^ b.toNat)) bs

/-- CRC-32C of bytes. (log 64, PRESUMED) -/
def crc32c (bs : List Byte) : BitVec 32 := BitVec.ofNat 32 (crcFrom 0xFFFFFFFF bs ^^^ 0xFFFFFFFF)

/-- Rotation of a 64-bit value to the left. -/
def rotl64 (v : Word) (r : Nat) : Word := v.rotateLeft r

/-- Replaces element n of a list. -/
def listSet {α : Type} : List α → Nat → α → List α
  | [], _, _ => []
  | _ :: xs, 0, v => v :: xs
  | x :: xs, n + 1, v => x :: listSet xs n v

/-- The elements of a list, default beyond its end. -/
def nth {α : Type} (d : α) : List α → Nat → α
  | [], _ => d
  | x :: _, 0 => x
  | _ :: xs, n + 1 => nth d xs n

/-- Folds a function over the numbers below n, in rising order. -/
def foldN {α : Type} (f : α → Nat → α) (a : α) (n : Nat) : α := (List.range n).foldl f a

end Sys2Proof.Machine
end

