-- ==== Sys2Proof/Machine/State.lean ====
section
/-! DEFINITION. The state of one NT3 module: every register, memory, queue, mode and pin that spec/ gives it (INVENTORY.md,
State, names the rule and the reset value of each), the queue of waiting commands, and the reasons a step can stop. -/

namespace Sys2Proof.Machine

/-- The reasons the machine stops with a fault. Each is raised only where the spec gives no effect (NOTES.md, Stops). -/
inductive Fault where
  /-- Raised by no command: the spec gives every command an effect, or a choice of effects. Safe: nothing stops. -/
  | noEffect
  deriving DecidableEq, Repr

/-- The reasons a command is refused. -/
inductive Refusal where
  /-- Raised by the dispatch table for a row without a meaning. Safe: the model stops. -/
  | notModelled (mnemonic : String)
  deriving DecidableEq, Repr

/-! ### Tensor instructions in flight -/

/-- Elementwise operations, Table 8.11. -/
inductive VewOp where
  | add | sub | max | min | abs | neg | mul | div | muladd | sqrt | rsqrt | exp2 | exp | log2 | log | pow | sigm | silu
  deriving DecidableEq, Repr

/-- Reductions, Table 8.11 and the TAP field of Table 8.10. -/
inductive RedOp where
  | sum | max | min
  deriving DecidableEq, Repr

/-- The tensor instructions (Table 7.4). -/
inductive TOp where
  | tmm | tmmp | vew (o : VewOp) | vred (o : RedOp) | varg (o : RedOp) | vcvt | sfill | scopy | dmov | gath | atom
  | kvapp | attn | kvstg | cred | cbrd | cgat | prune
  deriving DecidableEq, Repr

/-- What the range monitor has seen of one invocation (R78). -/
structure Mon where
  elements : Nat
  clips    : Nat
  maxExp   : Nat
  maxMant  : Nat
  hist     : Map Nat
  deriving DecidableEq, Repr

def Mon.zero : Mon := { elements := 0, clips := 0, maxExp := 0, maxMant := 0, hist := [] }

/-- An accumulator entry: integer and tag of Table 3.1. -/
structure AccEntry where
  q   : BitVec 32
  tag : BitVec 16
  deriving DecidableEq, Repr

def AccEntry.empty : AccEntry := { q := 0, tag := 0 }

/-- One issued tensor instruction: everything it copied at issue (R148) and its progress. -/
structure Job where
  id       : Nat
  op       : TOp
  word     : Word
  pc       : Nat
  /-- Descriptors in the order DST, SRCA, SRCB, then those of class-specific fields. -/
  descs    : List (BitVec 256)
  /-- Scalar registers named, in the order of the operation's layout. -/
  scal     : List Word
  /-- Task in reference mode (R86). -/
  ref      : Bool
  /-- Activation format chosen (0 A2 to 3 A16), R82. -/
  fmt      : Nat
  isAuto   : Bool
  layer    : Nat
  invoc    : BitVec 32
  /-- The invocation writes a history record (R79, R80). -/
  record   : Bool
  esc      : Bool
  limit    : Nat
  /-- PIN of the entry's CTRL, and T of R82, as they stood at issue (R81, R82). -/
  pin      : Nat
  thresh   : Nat
  /-- Waits for the record of invocation k - 2 (R82), or a KVAPP waits on READY (R260). -/
  waiting  : Bool
  /-- The key-value pages that it reads are coded (R258). -/
  pages    : Bool
  /-- Row splits: row and ways (R250). -/
  split    : List (Nat × Nat)
  /-- Bits come from a claim held under permit (R66). -/
  aliased  : Bool
  /-- Tiles finished, by core; format of the current run plus 1, by core (0: the chosen format); repeats of that tile. -/
  coreDone : Map Nat
  runFmt   : Map Nat
  runReps  : Map Nat
  /-- Tiles whose bank has drained. -/
  drained  : Nat
  /-- Formats at which the tiles of a batch block of one index of dimensions 2 and 3 ended, as a bit map, by block. -/
  fmts     : Map Nat
  /-- Tile status words (Table 3.2), by tile. -/
  tstat    : Map (BitVec 32)
  /-- Drained entries by linear index of the destination, and the indices whose value is undefined. -/
  ents     : Map AccEntry
  undef    : List Nat
  /-- The instructions whose contributions it went on from under CONT (R49). -/
  conts    : List Nat
  status   : Word
  /-- Requests sent to other chips or segments still awaited; data that came back, by offset; started flag. -/
  started  : Bool
  awaited  : Nat
  /-- What a DMOV with another chip has sent: 1 the read of a coded source's index, 2 that of the source, 3 the writes. -/
  phase    : Nat
  rx       : Map (BitVec 256)
  rxPoison : List Nat
  /-- Collectives: number (R315), progress by segment (1: contribution sent, 2: result in hand), winner indices by element. -/
  num      : Nat
  segs     : Map Nat
  idx      : Map Nat
  /-- Scratchpad byte ranges that another instruction wrote while this one ran (R40, R95). -/
  taint    : List (Nat × Nat)
  /-- Status of an execution fault, zero for none; a dead instruction writes no output. -/
  fault    : BitVec 16
  dead     : Bool
  deriving DecidableEq, Repr

/-! ### Matrix cores (R42 to R53) -/

inductive BankState where
  | free | active | draining
  deriving DecidableEq, Repr

/-- One bank: its entries by 256 x lane + entry, the tile it holds, and the entries whose value is undefined (R40). -/
structure Bank where
  st    : BankState
  held  : Bool
  due   : Bool
  job   : Nat
  tile  : Nat
  fmt   : Nat
  word  : Word
  dst   : BitVec 256
  ents  : Map AccEntry
  undef : List Nat
  /-- The instructions whose contributions it holds, the last first to last. -/
  src   : List Nat
  deriving DecidableEq, Repr

def Bank.reset : Bank :=
  { st := .free, held := false, due := false, job := 0, tile := 0, fmt := 0, word := 0, dst := 0, ents := [], undef := [], src := [] }

/-- What a core's output buffer holds: the entries of one drained bank of all 16 lanes, and the tile that they make (R52). -/
structure OutBuf where
  job  : Nat
  tile : Nat
  ents : Map AccEntry
  deriving DecidableEq, Repr

structure MCore where
  bank0 : Bank
  bank1 : Bank
  last  : Nat
  buf   : Option OutBuf
  deriving DecidableEq, Repr

def MCore.reset : MCore := { bank0 := Bank.reset, bank1 := Bank.reset, last := 1, buf := none }

/-! ### Sequencers (R126 to R158) -/

/-- Why a sequencer stalls. -/
inductive Stall where
  | waite (e : Nat) (v : BitVec 16)
  | fence (mask : BitVec 7) (before : Nat)
  | bar
  | phase (k : BitVec 8)
  | waitt (tick : Word)
  | unitFull (u : Nat)
  | hostLost
  | rngsRel (handle : Word)
  deriving DecidableEq, Repr

inductive SeqRun where
  | idle | running | stalled (w : Stall) | ended | faulted
  deriving DecidableEq, Repr

/-- A level of the loop stack: first and last instruction of the body, passes left after the current one. -/
structure LoopFrame where
  first : Nat
  last  : Nat
  left  : Nat
  deriving DecidableEq, Repr

/-- A sequencer: register files of Table 7.2, instruction buffer, loop stack and task status. -/
structure Seq where
  run    : SeqRun
  pc     : Nat
  prog   : List Word
  s      : Map Word
  d      : Map (BitVec 256)
  e      : Map (BitVec 16)
  p      : Map Bool
  loops  : List LoopFrame
  status : Word
  deriving DecidableEq, Repr

def Seq.reset : Seq :=
  { run := .idle, pc := 0, prog := [], s := [], d := [], e := [], p := [], loops := [], status := 0 }

/-- A control core (R130, R190). -/
structure CCore where
  s      : Map Word
  e      : Map (BitVec 16)
  p      : Map Bool
  pc     : Nat
  loops  : List LoopFrame
  status : Word
  halted : Bool
  wait   : Option Stall
  fault  : BitVec 16
  deriving DecidableEq, Repr

def CCore.reset : CCore :=
  { s := [], e := [], p := [], pc := 0, loops := [], status := 0, halted := false, wait := none, fault := 0 }

/-! ### Collective engines (R314 to R327) -/

/-- A collective message that waits at this device: a set-up, a contribution, a result, or an abort with its status. -/
inductive CollMsg where
  | setup (m : SetupMsg)
  | contrib (m : Segment)
  | result (m : Segment)
  | stop (m : Segment) (status : BitVec 16)
  deriving DecidableEq, Repr

/-- The collective engine of a cluster, by group handle: number of the next collective (R315), and set-up of the handle by
this rank of the task: 0 none, 1 begun, 2 complete. -/
structure CollEng where
  nums  : Map Nat
  setup : Map Nat
  deriving DecidableEq, Repr

def CollEng.reset : CollEng := { nums := [], setup := [] }

/-! ### Clusters -/

inductive ClState where
  | run | gated | retain | off
  deriving DecidableEq, Repr

/-- What a check code would find in a word or die-sector: the condition of the cells. -/
inductive Flaw where
  | none | single | double
  deriving DecidableEq, Repr

structure Cluster where
  owned       : Bool
  part        : BitVec 6
  segmask     : BitVec 4
  cstate      : ClState
  segOn       : BitVec 4
  spad        : Map Byte
  spadPoison  : Map Bool
  spadFlaw    : Map Flaw
  corrected   : BitVec 32
  uncorrected : BitVec 16
  winFaults   : BitVec 8
  win         : Map Word
  flushes     : BitVec 32
  overflows   : BitVec 16
  invalids    : BitVec 8
  expStalls   : BitVec 32
  rawTiles    : BitVec 16
  indexFaults : BitVec 8
  imbalance   : BitVec 32
  worst       : BitVec 16
  splitFaults : BitVec 8
  scrubLine   : Nat
  /-- CLS_CYCLES (Table 20.5) counts from CLK_A less this while the cluster is in RUN; stands while it is OFF; and counts on at the gear
  that the cluster left RUN with: the count, the root periods and the gear then (R447). -/
  cycOff      : Int
  cycFrozen   : Option Nat
  cycLeft     : Option (Nat × Nat × BitVec 2)
  /-- CLK_A cycles in which a unit started work (Table 20.6). -/
  active      : BitVec 48
  limit       : Nat
  droop       : Bool
  task        : Option TaskId
  faultReg    : Word
  faultInstr  : Word
  seq         : Seq
  units       : Map (List Job)
  nextJob     : Nat
  cores       : Map MCore
  coll        : CollEng
  deriving DecidableEq, Repr

def Cluster.reset : Cluster :=
  { owned := false, part := 0, segmask := 0, cstate := .run, segOn := 0, spad := [], spadPoison := [], spadFlaw := [],
    corrected := 0, uncorrected := 0, winFaults := 0, win := [], flushes := 0, overflows := 0, invalids := 0,
    expStalls := 0, rawTiles := 0, indexFaults := 0, imbalance := 0, worst := 0, splitFaults := 0, scrubLine := 0,
    cycOff := 0, cycFrozen := none, cycLeft := none, active := 0, limit := 256, droop := false, task := none, faultReg := 0,
    faultInstr := 0, seq := Seq.reset, units := [], nextJob := 0, cores := [], coll := CollEng.reset }

/-! ### Tasks -/

inductive TaskSt where
  | created | running | parked
  deriving DecidableEq, Repr

/-- The earliest fault of a task (R146). -/
structure TaskFault where
  status  : BitVec 16
  tick    : Word
  cluster : Nat
  deriving DecidableEq, Repr

structure Task where
  id       : TaskId
  ring     : Nat
  seq      : BitVec 32
  clusters : List Nat
  prog     : Word
  len      : Nat
  start    : Nat
  args     : Word
  seed     : Word
  tag      : Word
  phases   : BitVec 256
  /-- Partition address of the phase table, zero for none (R128). -/
  phasesAt : Word
  stepped  : Bool
  irq      : Bool
  ref      : Bool
  /-- PART_PREC_CTRL.KEEP at the task's start (R81). -/
  keep     : Bool
  st       : TaskSt
  /-- Reasons that ask for a park at the next boundary: TPARK, QUIESCE, DETACH, activation, guard (R141). -/
  parkReq  : Bool
  fault    : Option TaskFault
  /-- PHASE number of the phase in progress (R418). -/
  phase    : Option (BitVec 8)
  /-- The STEP in progress and those queued: entry, argument. -/
  step     : Option (EntryId × Bool)
  steps    : List (EntryId × Bool × List Byte)
  esc      : Nat
  escStep  : Nat
  /-- Energy attributed to the entry's work, and to the work since the last boundary, mJ (R427). -/
  energy   : Nat
  energyStep : Nat
  /-- ESC and ENERGY of the STEP in progress, once the boundary after the one that took it has come (R371). -/
  stepDone : Option (Nat × Nat)
  /-- Batches that the task's instructions have named. -/
  batches  : List Word
  deriving DecidableEq, Repr

/-! ### Key-value cache (R256 to R277) -/

/-- A page group: one page per layer (partition address bits [39:16]), tag, reference count. -/
structure KvGroup where
  pages : List Nat
  tag   : BitVec 16
  refs  : Nat
  /-- Layers whose page is sealed (R258). -/
  sealed : List Nat
  deriving DecidableEq, Repr

def KvGroup.none : KvGroup := { pages := [], tag := 0, refs := 0, sealed := [] }

structure KvNode where
  hash   : Word
  parent : BitVec 32
  group  : Nat
  tag    : BitVec 16
  count  : Nat
  valid  : Bool
  used   : Word
  deriving DecidableEq, Repr

/-- Admitted and waiting for its batch's boundary; in its batch; swapped out; being read back. -/
inductive KvSeqSt where
  | admitted | resident | swapped | resuming
  deriving DecidableEq, Repr

structure KvSeq where
  sid     : BitVec 32
  prio    : Nat
  layout  : BitVec 32
  batch   : Word
  prompt  : List (BitVec 32)
  cursor  : Nat
  /-- Groups that hold positions below the cursor, in order (2^32 stands for one in the swap area); then the prefetched
  groups of A that hold none. -/
  groups  : List Nat
  ahead   : List Nat
  gmax    : Nat
  stream  : Word
  st      : KvSeqSt
  order   : Nat
  /-- Swap slots in order of the swapped groups and layers; pages whose write has not completed, while it resumes its fresh
  groups; the plaintext that the ciphertext of a protected partition stands for, by page the byte offset of each part; the swap
  counter of the first page and the tags that stay on the device (R274); offsets of poisoned die-sectors by page; layers sealed by
  swapped group. -/
  slots   : List Nat
  out     : List Nat
  plain   : List (List (Nat × List Byte))
  ctr     : Nat
  tags    : List (BitVec 128)
  pois    : List (List Nat)
  seals   : List (List Nat)
  /-- Re-shard plans that read the sequence's pages (R331). -/
  lent    : Nat
  /-- SEQ_END entry that waits for the boundary (R369). -/
  endReq  : Option EntryId
  deriving DecidableEq, Repr

/-- One KVAPP of the phase in progress: batch, sequence, layer, tokens, and the task that issued it. -/
structure KvAppend where
  batch : Word
  sid   : BitVec 32
  layer : Nat
  t     : Nat
  task  : TaskId
  deriving DecidableEq, Repr

/-! ### Partitions -/

/-- A stream claim (R64): `none` owner handle is a task's basic-level claim. -/
structure Claim where
  seed   : Word
  lo     : BitVec 32
  hi     : BitVec 32
  task   : TaskId
  handle : Word
  permit : Bool
  deriving DecidableEq, Repr

/-- Invocations of one layer by the task that owns its entry (R78, R79): number of its first one, invocations issued by
cluster, and those whose record is not written: how many came before it, clusters that have contributed, format, merged observations. -/
structure LayerInv where
  first  : BitVec 32
  issued : Map Nat
  pend   : List (Nat × Nat × Nat × Mon)
  deriving DecidableEq, Repr

def LayerInv.none : LayerInv := { first := 0, issued := [], pend := [] }

/-- What becomes of a fetched submission entry. -/
inductive EntrySt where
  | fetched | waiting | active | done
  deriving DecidableEq, Repr

structure Entry where
  seq   : BitVec 32
  bytes : List Byte
  st    : EntrySt
  deriving DecidableEq, Repr

structure Ring where
  base    : Word
  cpl     : Word
  en      : Bool
  loc     : Bool
  irq     : Bool
  overrun : Bool
  size    : BitVec 5
  fetch   : BitVec 32
  fresh   : Bool
  stopped : Bool
  /-- The sequence number that the ring waits for because the slot's SEQ differed (R368). -/
  badSeq  : Option (BitVec 32)
  entries : List Entry
  deriving DecidableEq, Repr

def Ring.reset : Ring :=
  { base := 0, cpl := 0, en := false, loc := false, irq := false, overrun := false, size := 4, fetch := 0, fresh := true,
    stopped := false, badSeq := none, entries := [] }

/-- Something the NT3 has to tell the host: a completion record (ring, SEQ, bytes) or an event (status, ring, SEQID). -/
inductive Held where
  | record (ring : Nat) (seq : BitVec 32) (irq : Bool) (bytes : List Byte)
  | event (status : BitVec 16) (ring : BitVec 8) (sid : BitVec 32) (tick : Word)
  deriving DecidableEq, Repr

/-- A sequence record of a re-shard plan (Table 14.8): ranges are chip, source sequence, first position, positions. -/
structure ReshRec where
  tseq   : BitVec 32
  prio   : Nat
  hfirst : Nat
  n      : Nat
  ranges : List (BitVec 14 × BitVec 32 × Nat × Nat)
  deriving DecidableEq, Repr

/-- A re-shard plan in progress (R330): its header; the current record with its address; the groups allocated for it and the
batch that it joins; what the sources have lent (range, layout, pages); source pages still to move (range, layer, page); granule
runs of the first of them still to request, and the granules that are in. -/
structure ReshPlan where
  entry  : EntryId
  count  : Nat
  layout : BitVec 32
  layers : Nat
  next   : Nat
  addr   : Nat
  cur    : ReshRec
  groups : List Nat
  batch  : Word
  /-- The record has been begun: its sources are asked. -/
  asked  : Bool
  got    : List (Nat × BitVec 32 × List Nat)
  ready  : Bool
  jobs   : List (Nat × Nat × Nat)
  /-- What has been asked of the first source page: 0 nothing, 1 the indices of its coded regions, 2 its rows. -/
  phase  : Nat
  todo   : List (Nat × Nat)
  wait   : Bool
  rx     : Map (BitVec 256)
  pois   : List Nat
  status : BitVec 16
  deriving DecidableEq, Repr

/-- The keys of a partition with protected extents (R354): XTS data and tweak key, swap key. -/
structure PartKeys where
  data  : BitVec 256
  tweak : BitVec 256
  swap  : BitVec 256
  deriving DecidableEq, Repr

structure Part where
  defined     : Bool
  vf          : BitVec 7
  share       : BitVec 8
  kvQuota     : BitVec 32
  extents     : Map Word
  keys        : Option PartKeys
  waitLimit   : BitVec 16
  precCtrl    : BitVec 32
  rangeBase   : Word
  repeats     : BitVec 16
  rangeOwner  : Map Word
  rangeInv    : Map LayerInv
  claims      : List Claim
  rngFaults   : BitVec 16
  nextHandle  : Word
  kvShare     : Bool
  kvSwapOn    : Bool
  kvHigh      : BitVec 32
  kvLow       : BitVec 32
  kvSwap      : Word
  kvSlots     : BitVec 32
  kvPreempts  : BitVec 16
  kvEvicted   : BitVec 16
  kvCopies    : BitVec 32
  kvTreeBase  : BitVec 37
  kvFree      : List Nat
  kvGroups    : Map KvGroup
  kvNextGroup : Nat
  kvNodes     : List KvNode
  kvSeqs      : List KvSeq
  kvOrder     : Nat
  kvAppends   : List KvAppend
  kvVictims   : List (BitVec 32)
  /-- Pages that the KVAPPs of the phase have filled: sequence, layer, group, and the cluster whose encoder seals it (R258). -/
  kvSeals     : List (Word × Nat × Nat × Nat)
  kvLastGroup : Nat
  /-- Swap counter of the next page (R274). -/
  kvSwapCtr   : Nat
  collBase    : Word
  /-- The collective stores of the partition's engines (R325) and the messages for tasks that have not begun. -/
  collIn      : List CollMsg
  collDone    : BitVec 32
  collFailed  : BitVec 16
  collFull    : BitVec 16
  reshMoved   : BitVec 32
  reshFailed  : BitVec 16
  reshPlan    : Option ReshPlan
  /-- Number of the last record begun, which answers of its sources name. -/
  reshNo      : Nat
  energy      : Word
  contained   : Bool
  more        : BitVec 16
  errRecord   : BitVec 256
  heldEnds    : List TaskId
  rings       : Map Ring
  hostWin     : Map Word
  evBase      : Word
  evIrq       : Bool
  evEn        : Bool
  evSize      : BitVec 4
  evSeq       : BitVec 32
  evHeld      : List Held
  hostLost    : Bool
  detached    : Bool
  detachReq   : Bool
  evLost      : BitVec 16
  held        : List Held
  phbMs       : BitVec 16
  phbArmed    : Bool
  shareW      : BitVec 8
  floorW      : BitVec 11
  deriving DecidableEq, Repr

def Part.reset : Part :=
  { defined := false, vf := 0, share := 0, kvQuota := 0, extents := [], keys := none, waitLimit := 0x03E8,
    precCtrl := 0x00100000, rangeBase := 0, repeats := 0, rangeOwner := [], rangeInv := [], claims := [], rngFaults := 0, nextHandle := 1,
    kvShare := true, kvSwapOn := false, kvHigh := 0x8000, kvLow := 0x4000, kvSwap := 0, kvSlots := 0, kvPreempts := 0,
    kvEvicted := 0, kvCopies := 0, kvTreeBase := 0, kvFree := [], kvGroups := [], kvNextGroup := 0, kvNodes := [],
    kvSeqs := [], kvOrder := 0, kvAppends := [], kvVictims := [], kvSeals := [], kvLastGroup := 63, kvSwapCtr := 0, collBase := 0, collIn := [],
    collDone := 0, collFailed := 0, collFull := 0, reshMoved := 0, reshFailed := 0, reshPlan := none, reshNo := 0, energy := 0,
    contained := false, more := 0, errRecord := 0, heldEnds := [], rings := [], hostWin := [], evBase := 0, evIrq := false,
    evEn := false, evSize := 4, evSeq := 0, evHeld := [], hostLost := false, detached := false, detachReq := false,
    evLost := 0, held := [], phbMs := 0, phbArmed := false, shareW := 1, floorW := 0 }

/-! ### Fabric (R278 to R313) -/

inductive PortSt where
  | dark | training | quarantine | active | down
  deriving DecidableEq, Repr

/-- The header of a flit, bytes 0 to 7 (Table 13.5). -/
structure FlitHdr where
  kind : BitVec 4
  seq  : BitVec 12
  ack  : BitVec 12
  nak  : Bool
  cvc  : BitVec 4
  ccls : Bool
  cded : BitVec 9
  cshr : BitVec 10
  deriving DecidableEq, Repr

/-- A data flit in the replay buffer (R292): the packets that end in it, and its 15 slots. -/
structure Flit where
  seq   : BitVec 12
  pkts  : List Packet
  slots : BitVec 1920
  deriving DecidableEq, Repr

/-- A flit that has left: the fields of its header, and the flit itself. -/
structure Sent where
  hdr : FlitHdr
  raw : RawFlit
  deriving DecidableEq, Repr

structure Port where
  st          : PortSt
  lanes       : BitVec 4
  lpl         : BitVec 8
  foundChip   : BitVec 14
  foundPort   : BitVec 6
  foundSlot   : BitVec 3
  mismatch    : Bool
  expectChip  : BitVec 14
  expectPort  : BitVec 6
  fec         : BitVec 48
  replays     : BitVec 32
  crcFail     : BitVec 16
  discards    : BitVec 16
  txSeq       : BitVec 12
  rxSeq       : BitVec 12
  replay      : List Flit
  resend      : Bool
  /-- The flits that left last. -/
  sent        : List Sent
  /-- Slots of a packet that has begun to come in. -/
  rxPart      : List (BitVec 128)
  /-- Freed slots whose credits are still to return: by channel and class, and 32 + channel for shared ones (R295). -/
  owed        : Map Nat
  /-- Slots that the peer may send, as this end counts them: dedicated ones by channel and class, and shared ones (R295). -/
  peerDed     : Map Nat
  peerShared  : Nat
  /-- Partition, rank and channel of the collective stores for which credits are held back (R325). -/
  stops       : List (Nat × Nat × Nat)
  /-- Deficit round robin (R296): the partition served, the deficits, and each partition's last channel. -/
  drrAt       : Nat
  drrLeft     : Map Nat
  drrVc       : Map Nat
  /-- Lanes lit anew still train; the last flit sent on lanes that go off (R283). -/
  rising      : Bool
  fading      : Option (BitVec 12)
  failReplays : Nat
  failTrains  : Nat
  credShared  : Nat
  credDed     : Map Nat
  txq         : List Packet
  darkNote    : Bool
  withdrawn   : Bool
  identCount  : Nat
  identLast   : Option Ident
  /-- The identity and the beacon that left last. -/
  identOut    : Option Ident
  lit         : BitVec 4
  bTx         : BitVec 64
  bArrive     : BitVec 64
  bRoot       : BitVec 14
  bDepth      : BitVec 8
  bUpRoot     : BitVec 14
  bUpValid    : Bool
  bUpDepth    : BitVec 8
  bSeen       : Bool
  beaconOut   : Option BeaconMsg
  deriving DecidableEq, Repr

def Port.reset : Port :=
  { st := .dark, lanes := 0, lpl := 0, foundChip := 0x3FFF, foundPort := 0x3F, foundSlot := 0, mismatch := false,
    expectChip := 0x3FFF, expectPort := 0x3F, fec := 0, replays := 0, crcFail := 0, discards := 0, txSeq := 0, rxSeq := 0,
    replay := [], resend := false, sent := [], rxPart := [], owed := [], peerDed := [], peerShared := 0, stops := [], drrAt := 0, drrLeft := [], drrVc := [],
    rising := false, fading := none, failReplays := 0, failTrains := 0, credShared := 0, credDed := [],
    txq := [], darkNote := false, withdrawn := false, identCount := 0, identLast := none, identOut := none,
    lit := 0, bTx := 0, bArrive := 0, bRoot := 0x3FFF, bDepth := 0, bUpRoot := 0x3FFF, bUpValid := false, bUpDepth := 0,
    bSeen := false, beaconOut := none }

/-- Whose request went to another chip (R293). -/
inductive ReqOwner where
  | job (c : Nat) (u : Nat) (id : Nat) (off : Nat)
  | reshard (p : Nat) (off : Nat)
  | none
  deriving DecidableEq, Repr

structure Req where
  tag   : BitVec 16
  chip  : BitVec 14
  owner : ReqOwner
  /-- Granules of a GATHER's rows that are still to come (0: one response completes the request). -/
  more  : Nat
  deriving DecidableEq, Repr

/-! ### Stacked memory (R191 to R226) -/

inductive GroupSt where
  | active | selfRefresh | off
  deriving DecidableEq, Repr

inductive RefreshIv where
  | slow | fast | fastest
  deriving DecidableEq, Repr

structure VGroup where
  st       : GroupSt
  filling  : Bool
  /-- A drain in progress and the state it leads to (R409). -/
  drain    : Option GroupSt
  interval : RefreshIv
  /-- The group was over 94 °C and ACTIVE at the last sample (R217). -/
  hot      : Bool
  deriving DecidableEq, Repr

def VGroup.reset : VGroup :=
  { st := .active, filling := false, drain := none, interval := .slow, hot := false }

/-- Error-table entry: die slice, bank, physical row (4,096 and above: a spare), count, first error's tick (R219). -/
structure ErrEnt where
  die   : Nat
  bank  : Nat
  row   : Nat
  count : Nat
  tick  : Word
  deriving DecidableEq, Repr

/-- A remap: vault, die, bank, original row, spare, one spare failed already (Table 9.6). -/
structure Remap where
  vault : Nat
  die   : Nat
  bank  : Nat
  row   : Nat
  spare : Nat
  fails : Nat
  deriving DecidableEq, Repr

/-- A physical row of a die slice: rows from 4,096 on are spares. -/
structure RowId where
  vault : Nat
  die   : Nat
  bank  : Nat
  prow  : Nat
  deriving DecidableEq, Repr

/-- State of repair that the field section records. -/
structure Repair where
  remaps    : List Remap
  badSpares : List (Nat × Nat × Nat × Nat)
  retired   : List (Nat × Nat)
  failed    : List (Nat × Nat)
  deriving DecidableEq, Repr

def Repair.none : Repair := { remaps := [], badSpares := [], retired := [], failed := [] }

/-- What the vault controllers gave their last request: status, bytes or the row of a bag, and poisoned die-sectors. -/
structure VaultAns where
  status : BitVec 16
  data   : List Byte
  poison : List Nat
  deriving DecidableEq, Repr

/-- A request to host memory: requester function, direction, where, and its ordering attributes (R364). -/
structure HostReq where
  fn      : Nat
  write   : Bool
  addr    : Nat
  len     : Nat
  relaxed : Bool
  idBased : Bool
  deriving DecidableEq, Repr

structure Mem where
  dram        : Map Byte
  poison      : Map Bool
  flaw        : Map Flaw
  groups      : Map VGroup
  factory     : Repair
  field       : Repair
  errTab      : Map (List ErrEnt)
  sliceRows   : List (Nat × Nat × Nat × Nat × Word)
  retiredSel  : BitVec 12
  rebuilt     : Bool
  factoryB    : Bool
  fieldSkip   : Bool
  fieldFull   : Bool
  retireFull  : Bool
  /-- Device addresses of blocks that the row test retired, whose repair events wait for step 16 (R223, R226). -/
  bootRetired : List Nat
  /-- Rows for whose repair the decode before a narrow write of Nightwatch asks (R14, R197, R220). -/
  due         : List RowId
  corrected   : BitVec 32
  recon       : BitVec 16
  poisoned    : BitVec 16
  remapCount  : BitVec 16
  badCount    : BitVec 16
  scrubPasses : BitVec 16
  scrubPos    : Map Nat
  /-- Refreshes received, by bank: 128 x vault + 16 x die slice + bank. -/
  refreshes   : Map Nat
  ctrlSram    : Map Byte
  hostMem     : Map Byte
  /-- The request to host memory that the device issued last (R364). -/
  hostReq     : Option HostReq
  /-- Device extents that no partition maps any longer and that hold what a partition's keys encrypted, and their die-sectors that
  have been written since (R208). -/
  cipher      : List (Nat × PartKeys)
  opened      : List Nat
  ans         : VaultAns
  deriving DecidableEq, Repr

def Mem.reset : Mem :=
  { dram := [], poison := [], flaw := [], groups := [], factory := Repair.none, field := Repair.none, errTab := [],
    sliceRows := [], retiredSel := 0, rebuilt := false, factoryB := false, fieldSkip := false, fieldFull := false,
    retireFull := false, bootRetired := [], due := [], corrected := 0, recon := 0, poisoned := 0, remapCount := 0, badCount := 0, scrubPasses := 0,
    scrubPos := [], refreshes := [], ctrlSram := [], hostMem := [], hostReq := none, cipher := [], opened := [],
    ans := { status := 0, data := [], poison := [] } }

/-! ### Flash, guard and firmware (R341 to R357, R392 to R400, R435 to R440) -/

/-- A firmware slot: its image, the header fields of Table 17.5, and whether it passed the checks of R392 when it was written. -/
structure FwSlot where
  valid    : Bool
  version  : BitVec 32
  length   : BitVec 32
  load     : BitVec 32
  lpl      : BitVec 8
  stateOut : BitVec 8
  stateLo  : BitVec 8
  stateHi  : BitVec 8
  image    : List Byte
  deriving DecidableEq, Repr

/-- A configuration image by section (Table 19.4): `none` is absent or damaged. -/
structure CfgImage where
  headerOk   : Bool
  version    : BitVec 32
  ident      : Option (BitVec 14)
  power      : Option (BitVec 11)
  neighbours : Option (List (BitVec 14 × BitVec 6))
  routes     : Option (Map (BitVec 32))
  link       : Option (Bool × BitVec 16)
  host       : Option (BitVec 16 × BitVec 16 × Nat)
  fieldRep   : Option Repair
  /-- The image as it lies in flash (R436); bytes beyond the list are zero. -/
  bytes      : List Byte
  deriving DecidableEq, Repr

def CfgImage.blank : CfgImage :=
  { headerOk := false, version := 0, ident := none, power := none, neighbours := none, routes := none, link := none,
    host := none, fieldRep := none, bytes := [] }

/-- One partition as the guard state holds it (R339). -/
structure GPart where
  defined : Bool
  vf      : BitVec 7
  share   : BitVec 8
  kvQuota : BitVec 32
  extents : Map Word
  deriving DecidableEq, Repr

def GPart.none : GPart := { defined := false, vf := 0, share := 0, kvQuota := 0, extents := [] }

/-- The protection set-up (R339): partitions, owner, segments by cluster (partition + 64 x segment mask, 0 unowned),
admission table, party keys and RWG register values that a REG_WRITE set. -/
structure GuardState where
  parts    : Map GPart
  clusters : Map Nat
  admTab    : Map Word
  keyOp    : List Byte
  keyCu    : List Byte
  /-- The LNK_CHIP that the record of this copy sets. -/
  chip     : Option (BitVec 14)
  logseq   : BitVec 32
  commit   : Bool
  digestOk : Bool
  deriving DecidableEq, Repr

def GuardState.blank : GuardState :=
  { parts := [], clusters := [], admTab := [], keyOp := [], keyCu := [], chip := none, logseq := 0, commit := false,
    digestOk := false }

/-- A guard log entry, Table 15.5. -/
structure GLog where
  seq     : BitVec 32
  kind    : BitVec 8
  aborted : Bool
  tick    : Word
  nonce   : BitVec 128
  digest  : BitVec 512
  chain   : BitVec 512
  sigOp   : List Byte
  sigCu   : List Byte
  deriving DecidableEq, Repr

/-- Steps of a guard record (R346): checks done and the write in progress, quiescing, applied and filling. -/
inductive GuardStep where
  | writing | quiescing | applied
  deriving DecidableEq, Repr

structure GuardJob where
  step     : GuardStep
  kind     : Nat
  next     : GuardState
  affected : List Nat
  /-- The log entry of the record. -/
  entry    : GLog
  deriving DecidableEq, Repr

/-- A copy of the factory repair section (R224): its header and its entries, eight bytes each. -/
structure FactCopy where
  version : BitVec 32
  count   : BitVec 32
  crc     : BitVec 32
  entries : List Word
  deriving DecidableEq, Repr

/-- The copy of a module that left the factory without a repair; `crc` is the check word of its header and entries. -/
def FactCopy.delivered : FactCopy := { version := 1, count := 0, crc := 0xC514CFAD, entries := [] }

structure Flash where
  slotA    : FwSlot
  slotB    : FwSlot
  bootSlot : Bool
  img0     : CfgImage
  img1     : CfgImage
  /-- Pointer records: SEQ and image; `none` is not valid (R437). -/
  ptr0     : Option (BitVec 32 × Bool)
  ptr1     : Option (BitVec 32 × Bool)
  factA    : FactCopy
  factB    : FactCopy
  guard0   : GuardState
  guard1   : GuardState
  /-- The state copy in force. -/
  guardCur : Bool
  log      : List GLog
  certOk   : Bool
  deriving DecidableEq, Repr

def FwSlot.delivered : FwSlot :=
  { valid := true, version := 1, length := 644, load := 0, lpl := 3, stateOut := 1, stateLo := 1, stateHi := 1,
    image := [1, 0, 0, 0, 1, 0, 0, 0, 0x84, 2, 0, 0, 0, 0, 0, 0, 3, 1, 1, 1] ++ List.replicate 624 0 }

/-- The image of a module that nobody has configured: a header and one section of no known ID. -/
def CfgImage.delivered : CfgImage :=
  { CfgImage.blank with headerOk := true, version := 1, bytes := [70, 67, 84, 78, 1, 0, 1, 0, 1, 0, 0, 0, 80, 0, 0, 0, 12, 188, 189, 138] ++ List.replicate 48 0 ++ [80, 0, 0, 0, 0, 0, 0, 0, 0, 0, 0, 0] }
def Flash.delivered : Flash :=
  { slotA := FwSlot.delivered, slotB := FwSlot.delivered, bootSlot := false,
    img0 := CfgImage.delivered, img1 := CfgImage.blank,
    ptr0 := none, ptr1 := none, factA := FactCopy.delivered, factB := FactCopy.delivered,
    guard0 := { GuardState.blank with commit := true, digestOk := true }, guard1 := GuardState.blank, guardCur := false, log := [], certOk := true }

inductive ActSt where
  | deferred | parking | switching
  deriving DecidableEq, Repr

/-- A pending activation (R394 to R398). -/
structure Activation where
  slot    : Bool
  persist : Bool
  st      : ActSt
  /-- The copy of the slot in Nightwatch's staging area (R396). -/
  copy    : FwSlot
  deriving DecidableEq, Repr

/-! ### Power and time -/

/-- Commanded transitions that take time (R404): which unit changes and to what. -/
inductive Trans where
  | cluster (c : Nat) (st : ClState)
  | segment (c s : Nat) (on : Bool)
  | group (g : Nat) (st : GroupSt)
  | device (st : Fin 3)
  | gear (g : Fin 3)
  deriving DecidableEq, Repr

/-- An Almanac entry (R418): partition, PHASE, estimate in mW. -/
structure Alm where
  part  : Nat
  phase : BitVec 8
  est   : Nat
  deriving DecidableEq, Repr

structure Pins where
  present : Bool
  enable  : Bool
  vin     : Nat
  refclk  : Bool
  perstN  : Bool
  enrolN  : Bool
  slot    : BitVec 3
  deriving DecidableEq, Repr

/-- Rails down; steps 1 to 15 done; step 16 done; recovery; a unit needed for service failed (R435, R441). -/
inductive Boot where
  | off | booting | ready | recovery | noCore
  deriving DecidableEq, Repr

structure Pwr where
  pins       : Pins
  charged    : Bool
  rails      : Bool
  trip       : Bool
  slotId     : BitVec 3
  boot       : Boot
  busy       : Bool
  ignored    : Bool
  failed     : BitVec 10
  result     : BitVec 16
  cap        : BitVec 11
  dev        : BitVec 2
  before     : List (Nat × ClState)
  beforeG    : List (Nat × GroupSt)
  quiescing  : Bool
  removing   : Bool
  stage      : BitVec 2
  capUnmet   : Bool
  fixedHeld  : Bool
  clamp      : Bool
  clampLong  : Bool
  input      : BitVec 11
  inputMw    : Nat
  /-- Measured input power of the last period less the estimate of the clusters' power, mW (R415). -/
  otherMw    : Int
  fixed      : Bool
  freeze     : Bool
  rate       : BitVec 3
  model      : BitVec 16
  /-- The value that Nightwatch takes for DEFAULT, scaled at gear changes (R450). -/
  modelEff   : Nat
  droopEv    : BitVec 32
  droopTh    : BitVec 8
  parkMs     : BitVec 16
  energy     : Word
  unattr     : Word
  almanac    : List Alm
  phaseEnds  : List (Nat × BitVec 8 × Nat × Nat)
  trans      : List Trans
  /-- Refusals of the command in progress, by unit number, and a command written during a firmware switch. -/
  refused    : List (Nat × BitVec 16)
  waitCmd    : Option Word
  sensors    : Map (BitVec 16)
  deriving DecidableEq, Repr

def Pwr.reset : Pwr :=
  { pins := { present := false, enable := false, vin := 0, refclk := false, perstN := false, enrolN := true, slot := 7 },
    charged := false, rails := false, trip := false, slotId := 7, boot := .off, busy := false,
    ignored := false, failed := 0, result := 0, cap := 0x4B0, dev := 0, before := [], beforeG := [], quiescing := false,
    removing := false, stage := 0, capUnmet := false, fixedHeld := false, clamp := false, clampLong := false, input := 0,
    inputMw := 0, otherMw := 0, fixed := false, freeze := false, rate := 3, model := 0x04E2, modelEff := 0x04E2, droopEv := 0, droopTh := 0x23,
    parkMs := 0x03E8, energy := 0, unattr := 0, almanac := [], phaseEnds := [], trans := [], refused := [], waitCmd := none,
    sensors := [] }

structure Clk where
  merTick  : Word
  clkA     : Nat
  frac     : Nat
  /-- Root-clock periods since power-up. -/
  roots    : Nat
  gear     : BitVec 2
  changing : Bool
  /-- A gear change in progress (R447): the gears before and after it, the ticks since its command was accepted, and those at which
  its hold begins and ends, when the dividers switch. -/
  was      : BitVec 2
  goal     : BitVec 2
  since    : Nat
  holdAt   : Nat
  holdEnd  : Nat
  /-- Droop events and PHASE boundaries that fell within the hold (R449). -/
  lateDroops : List Nat
  latePhases : List TaskId
  changes  : BitVec 32
  lastHold : BitVec 16
  pllLock  : Bool
  deriving DecidableEq, Repr

def Clk.reset : Clk :=
  { merTick := 0, clkA := 0, frac := 0, roots := 0, gear := 0, changing := false, was := 0, goal := 0,
    since := 0, holdAt := 0, holdEnd := 0, lateDroops := [], latePhases := [], changes := 0, lastHold := 0, pllLock := false }

/-- GLB block and the units disabled by R441 and R466. -/
structure Glb where
  cfgDefaulted : Bool
  slotFallback : Bool
  noFw         : Bool
  degraded     : Bool
  bootMs       : BitVec 16
  badClusters  : List Nat
  badSegs      : List (Nat × Nat)
  badGroups    : List Nat
  badCores     : List Nat
  badPorts     : List Nat
  badOptical   : List Nat
  fatal        : BitVec 256
  fatalSet     : Bool
  errCorrected : BitVec 32
  errDeferred  : BitVec 16
  errContained : BitVec 16
  deriving DecidableEq, Repr

def Glb.reset : Glb :=
  { cfgDefaulted := false, slotFallback := false, noFw := false, degraded := false, bootMs := 0, 
    badClusters := [], badSegs := [], badGroups := [], badCores := [], badPorts := [], badOptical := [], fatal := 0,
    fatalSet := false, errCorrected := 0, errDeferred := 0, errContained := 0 }

/-- An image write that waits (R440): the host's, a field rewrite, a rewrite of IDENT. -/
inductive ImgWrite where
  | host | field | ident (chip : BitVec 14)
  deriving DecidableEq, Repr

/-- CFG block; `write` is the image that the write in progress stores in the inactive copy. -/
structure Cfg where
  result    : BitVec 16
  busy      : Bool
  version   : BitVec 32
  defaulted : BitVec 7
  stage     : BitVec 37
  queue     : List ImgWrite
  write     : Option CfgImage
  dirty     : Bool
  /-- SHA-512 of the image in use (Table 15.6). -/
  measure   : BitVec 512
  deriving DecidableEq, Repr

def Cfg.reset : Cfg :=
  { result := 0, busy := false, version := 0, defaulted := 0, stage := 0, queue := [], write := none, dirty := false, measure := 0 }

structure Grd where
  nonce     : BitVec 128
  busy      : Bool
  result    : BitVec 16
  op        : BitVec 16
  enrolled  : Bool
  locked    : Bool
  idFault   : Bool
  logSel    : BitVec 12
  quiesceMs : BitVec 16
  buf       : Map Byte
  report    : Map Byte
  /-- The certificate window is loaded. -/
  certIn    : Bool
  cur       : GuardState
  job       : Option GuardJob
  attKey    : BitVec 528
  endorse   : List Byte
  /-- The seed and the identity key, which the boot ROM clears before it starts Nightwatch (R355, R356). -/
  seed      : List Byte
  dId       : BitVec 528
  deriving DecidableEq, Repr

def Grd.reset : Grd :=
  { nonce := 0, busy := false, result := 0, op := 0, enrolled := false, locked := false, idFault := false, logSel := 0,
    quiesceMs := 0x03E8, buf := [], report := [], certIn := false, cur := GuardState.blank, job := none, attKey := 0,
    endorse := [], seed := [], dId := 0 }

/-- A host command that Nightwatch takes after a firmware switch. -/
inductive NwCmd where
  | detach (x : Option (Fin 64)) | attach (x : Option (Fin 64)) | ring (p : Fin 64) (n : Fin 4) (en : Bool)
  | vfFlr (k : Fin 64) | pfFlr | release (p : Fin 64)
  | lnkMode (v : BitVec 32) | chip (c : BitVec 14) | adopt (m : BitVec 39) | retrain (n : Fin 39)
  | submit (len : BitVec 15) | attest (p : BitVec 8) | cfgWrite
  deriving DecidableEq, Repr

structure Fw where
  active   : Bool
  booted   : Bool
  degraded : Bool
  state    : BitVec 3
  result   : BitVec 16
  stage    : Word
  parkMs   : BitVec 16
  overruns : BitVec 32
  act      : Option Activation
  write    : Option (Bool × FwSlot)
  lpl      : BitVec 8
  /-- Commands that came during a firmware switch, oldest first. -/
  waiting  : List NwCmd
  deriving DecidableEq, Repr

def Fw.reset : Fw :=
  { active := false, booted := false, degraded := false, state := 0, result := 0, stage := 0, parkMs := 0x03E8,
    overruns := 0, act := none, write := none, lpl := 3, waiting := [] }

/-- A log event that waits for the end of a firmware switch (R397). -/
structure LogEv where
  sev    : Nat
  duty   : Nat
  part   : BitVec 8
  tick   : Word
  status : BitVec 16
  event  : BitVec 16
  args   : List Word
  deriving DecidableEq, Repr

/-- An error record that waits for the next scheduling pass (R460, R461). -/
structure ErrRec where
  status : BitVec 16
  cls    : Nat
  part   : BitVec 8
  unit   : Nat
  index  : Nat
  tick   : Word
  addr   : Word
  count  : BitVec 32
  akind  : BitVec 8
  src    : BitVec 14
  /-- It arose during a firmware switch (R397). -/
  held   : Bool
  deriving DecidableEq, Repr

/-- How far a unit's corrected count has risen since its last CLASS 0 record, and its last corrected address (R462). -/
structure Rise where
  count : BitVec 32
  addr  : Word
  deriving DecidableEq, Repr
def Rise.zero : Rise := { count := 0, addr := 0 }

structure Log where
  base     : BitVec 37
  seq      : BitVec 32
  read     : BitVec 32
  lost     : BitVec 32
  minSev   : BitVec 3
  trcBase  : BitVec 37
  wptr     : Word
  rptr     : Word
  full     : Bool
  stopFull : Bool
  en       : Bool
  mask     : BitVec 256
  drops    : BitVec 32
  held     : List LogEv
  errq     : List ErrRec
  /-- Rises by 65,536 x UNIT + INDEX of Table 21.3. -/
  rise     : Map Rise
  deriving DecidableEq, Repr

def Log.reset : Log :=
  { base := 0, seq := 0, read := 0, lost := 0, minSev := 2, trcBase := 0, wptr := 0, rptr := 0, full := false,
    stopFull := false, en := false, mask := 0, drops := 0, held := [], errq := [], rise := [] }

/-- What configuration space says of a function (Tables 16.1, 16.2): sizes in GiB, and the features that it reports absent. -/
structure CfgSpace where
  maxPayload  : Nat
  maxRead     : Nat
  msixVectors : Nat
  totalVfs    : Nat
  firstVf     : Nat
  vfStride    : Nat
  pfGib       : Nat
  vfGib       : Nat
  serial      : Word
  noSoftReset : Bool
  ats         : Bool
  pageRequest : Bool
  pasid       : Bool
  atomics     : Bool
  intx        : Bool
  msi         : Bool
  aspm        : Bool
  /-- Table 16.1: data rates in GT/s and widths, tag bits at 64 GT/s and at the others, outstanding requests, ARI, error reporting,
  Data Link Feature, Downstream Port Containment, function-level reset, D3hot, the resizable BARs, and no L1 PM substates. -/
  rates       : List Nat
  widths      : List Nat
  tagBits     : Nat × Nat
  requests    : Nat
  ari         : Bool
  aerCap      : Bool
  linkFeature : Bool
  dpc         : Bool
  flr         : Bool
  d3hot       : Bool
  resizable   : Bool
  l1Sub       : Bool
  deriving DecidableEq, Repr

/-- What a host request came back with (R362, R433, R485). Data carry EP on what comes from poisoned die-sectors (R464): the byte
of the reply at which each of these begins. -/
inductive HostCpl where
  | none
  | data (bytes : List Byte) (poisoned : List Nat)
  | unsupported
  | retry
  | config (x : CfgSpace)
  deriving DecidableEq, Repr

structure Hif where
  hostLost   : Bool
  detached   : Bool
  detachReq  : Bool
  degraded   : Bool
  protDenied : BitVec 16
  hbArmed    : Bool
  retainS    : BitVec 16
  hbMs       : BitVec 16
  aperture   : BitVec 3
  apGib      : Nat
  /-- Size of the aperture that the image gives, in GiB. -/
  apBoot     : Nat
  vfGib      : Nat
  /-- Device Serial Number. -/
  serial     : Word
  linkUp     : Bool
  training   : Bool
  d3         : List Nat
  /-- High halves latched by 4-byte reads, by 2^26 x function + offset of the register (R485). -/
  latch      : Map (Option (BitVec 32))
  cpl        : HostCpl
  msix       : List (Nat × Nat)
  /-- Interrupts of the physical function that wait for ATTACH (R468): tick and vector. -/
  msixHeld   : List (Word × Nat)
  aer        : List (BitVec 16)
  deriving DecidableEq, Repr

def Hif.reset : Hif :=
  { hostLost := false, detached := false, detachReq := false, degraded := false, protDenied := 0, hbArmed := false,
    retainS := 0x003C, hbMs := 0x03E8, aperture := 0, apGib := 16, apBoot := 16, vfGib := 16, serial := 0, linkUp := false, training := false, d3 := [],
    latch := [], cpl := .none, msix := [], msixHeld := [], aer := [] }

structure Lnk where
  chip        : BitVec 14
  boardRobust : Bool
  machineLit  : BitVec 2
  groupLit    : BitVec 2
  mode        : Bool
  busy        : Bool
  /-- Writes of LNK_MODE that wait while BUSY is 1, oldest first (R283). -/
  pendMode    : List (BitVec 32)
  timeout     : BitVec 16
  routes      : Map (BitVec 32)
  ports       : Map Port
  reqs        : List Req
  nextTag     : BitVec 16
  deriving DecidableEq, Repr

def Lnk.reset : Lnk :=
  { chip := 0x3FFF, boardRobust := false, machineLit := 0, groupLit := 0, mode := true, busy := false, pendMode := [],
    timeout := 0x0064, routes := [], ports := [], reqs := [], nextTag := 0 }

structure Mer where
  locked    : Bool
  degraded  : Bool
  root      : Bool
  depthOver : Bool
  depth     : Nat
  parent    : BitVec 6
  rootChip  : BitVec 14
  lockRun   : Nat
  slew      : Int
  slewWait  : Nat
  deriving DecidableEq, Repr

def Mer.reset : Mer :=
  { locked := false, degraded := false, root := false, depthOver := false, depth := 0, parent := 0x3F,
    rootChip := 0x3FFF, lockRun := 0, slew := 0, slewWait := 0 }

/-! ### The whole machine -/

structure State where
  /-- The commands that are waiting, first in, first out. -/
  pending  : List Instr
  pwr      : Pwr
  clk      : Clk
  glb      : Glb
  cfg      : Cfg
  flash    : Flash
  grd      : Grd
  fw       : Fw
  log      : Log
  hif      : Hif
  mem      : Mem
  lnk      : Lnk
  mer      : Mer
  parts    : Map Part
  clusters : Map Cluster
  ccores   : Map CCore
  tasks    : List Task
  /-- Index of the next free value of Config: the model's own counter. -/
  freeTick : Nat
  deriving DecidableEq, Repr

/-! ### One component replaced -/

/-- The same machine with another queue of waiting commands. -/
def State.withQueue (s : State) (q : List Instr) : State := { s with pending := q }
def State.setPwr (s : State) (x : Pwr) : State := { s with pwr := x }
def State.setClk (s : State) (x : Clk) : State := { s with clk := x }
def State.setGlb (s : State) (x : Glb) : State := { s with glb := x }
def State.setCfg (s : State) (x : Cfg) : State := { s with cfg := x }
def State.setFlash (s : State) (x : Flash) : State := { s with flash := x }
def State.setGrd (s : State) (x : Grd) : State := { s with grd := x }
def State.setFw (s : State) (x : Fw) : State := { s with fw := x }
def State.setLog (s : State) (x : Log) : State := { s with log := x }
def State.setHif (s : State) (x : Hif) : State := { s with hif := x }
def State.setMem (s : State) (x : Mem) : State := { s with mem := x }
def State.setLnk (s : State) (x : Lnk) : State := { s with lnk := x }
def State.setMer (s : State) (x : Mer) : State := { s with mer := x }
def State.setParts (s : State) (x : Map Part) : State := { s with parts := x }
def State.setClusters (s : State) (x : Map Cluster) : State := { s with clusters := x }
def State.setCcores (s : State) (x : Map CCore) : State := { s with ccores := x }
def State.setTasks (s : State) (x : List Task) : State := { s with tasks := x }
def State.setFreeTick (s : State) (x : Nat) : State := { s with freeTick := x }

/-- The module at rest outside its slot: no supply, no rails, the flash as delivered, every register at the reset value of its
table (R9, R488); the values that the spec does not give are named in notes/assumptions. -/
def State.reset : State :=
  { pending := [], pwr := Pwr.reset, clk := Clk.reset, glb := Glb.reset, cfg := Cfg.reset, flash := Flash.delivered,
    grd := Grd.reset, fw := Fw.reset, log := Log.reset, hif := Hif.reset, mem := Mem.reset, lnk := Lnk.reset,
    mer := Mer.reset, parts := [], clusters := [], ccores := [], tasks := [], freeTick := 0 }

end Sys2Proof.Machine
end

