-- ==== Sys2Proof/Machine/Cells.lean ====
section
/-! DEFINITION. The cells of a burst: geometry (R193), remapped rows and spares (R222), error tables (R219) and the decode of R211.
A flaw is what the check codes would find in a die-sector. -/

namespace Sys2Proof.Machine

/-! ### Geometry (R193) -/

def vaultOf (a : Nat) : Nat := 8 * bitsOf a 36 31 + bitsOf a 14 12
def rowOf (a : Nat) : Nat := bitsOf a 30 19
def bankOf (a : Nat) : Nat := bitsOf a 18 15 ^^^ bitsOf a 22 19
def columnOf (a : Nat) : Nat := bitsOf a 11 8
def dieOf (a : Nat) : Nat := bitsOf a 7 5
/-- Address of the 4 KiB block that holds a row set: BANKX = bank xor row[3:0]. -/
def blockOf (vault bank row : Nat) : Nat :=
  (vault / 8) * 2 ^ 31 + row * 2 ^ 19 + ((bank ^^^ row % 16) % 16) * 2 ^ 15 + (vault % 8) * 2 ^ 12

/-- Ticks of 24 hours. -/
def dayTicks : Nat := 24 * 3600 * 1250000000

/-! ### Repair state -/

/-- Field entries override factory ones for the same row. (log 60, DEDUCED) -/
def Mem.remapOf (m : Mem) (v d b row : Nat) : Option Remap :=
  let hit : Remap → Bool := fun r => decide (r.vault = v) && decide (r.die = d) && decide (r.bank = b) && decide (r.row = row)
  match m.field.remaps.find? hit with
  | some r => some r
  | none => m.factory.remaps.find? hit
def Mem.physRow (m : Mem) (v d b row : Nat) : Nat :=
  match m.remapOf v d b row with | some r => 4096 + r.spare | none => row
def Mem.failedSlice (m : Mem) (v d : Nat) : Bool := m.field.failed.contains (v, d)
def Mem.spareBad (m : Mem) (v d b sp : Nat) : Bool :=
  m.field.badSpares.contains (v, d, b, sp) || m.factory.badSpares.contains (v, d, b, sp)
/-- The remap that a spare stands in. -/
def Mem.standIn (m : Mem) (v d b sp : Nat) : Option Remap :=
  let hit : Remap → Bool := fun r => decide (r.vault = v) && decide (r.die = d) && decide (r.bank = b) && decide (r.spare = sp)
  match m.field.remaps.find? hit with
  | some r => some r
  | none => (m.factory.remaps.filter fun r => !(m.field.remaps.any fun f =>
      decide (f.vault = r.vault) && decide (f.die = r.die) && decide (f.bank = r.bank) && decide (f.row = r.row))).find? hit
/-- Lowest good free spare of a bank (R222). -/
def Mem.freeSpare (m : Mem) (v d b : Nat) : Option Nat :=
  (List.range 32).find? fun sp => !m.spareBad v d b sp && (m.standIn v d b sp).isNone
/-- A unit has corrected n errors, the last at an address (R462). -/
def State.fixNote (s : State) (unit index n addr : Nat) : State :=
  if n = 0 then s else
  let k := 65536 * unit + index
  let rise : Rise := { count := satAdd (mget Rise.zero s.log.rise k).count n, addr := BitVec.ofNat 64 addr }
  s.setLog { s.log with rise := mset Rise.zero s.log.rise k rise }

/-! ### Decode of a burst (R211) -/

/-- One more corrected error on a row: the new table and whether the row triggers (R219, R220). -/
def errHit (tab : List ErrEnt) (r : RowId) (t : Word) : List ErrEnt × Bool :=
  let fresh := tab.filter fun e => decide ((t - e.tick).toNat < dayTicks)
  match fresh.find? fun e => decide (e.die = r.die) && decide (e.bank = r.bank) && decide (e.row = r.prow) with
  | some e =>
    let n := e.count + 1
    (fresh.map fun x => if x.die = r.die && x.bank = r.bank && x.row = r.prow then { x with count := n } else x, decide (3 ≤ n))
  | none =>
    let room := if fresh.length < 64 then fresh else
      match fresh.foldl (fun (o : Option ErrEnt) e => match o with
        | none => some e
        | some x => if e.tick.toNat < x.tick.toNat then some e else some x) none with
      | some old => fresh.erase old
      | none => fresh
    (room ++ [{ die := r.die, bank := r.bank, row := r.prow, count := 1, tick := t }], false)

/-- Reads the covered die-sectors of burst b: the state after correction, reconstruction and write-back, and the rows that
trigger repair. -/
def State.decodeBurst (s : State) (b : Nat) (cov : Nat → Bool) : State × List RowId :=
  let m := s.mem
  let a := b * 256
  let v := vaultOf a
  let bank := bankOf a
  let row := rowOf a
  let id : Nat → RowId := fun d => { vault := v, die := d, bank := bank, prow := m.physRow v d bank row }
  let flaw : Nat → Flaw := fun d => mget .none m.flaw (8 * b + d)
  let pois : Nat → Bool := fun d => mget false m.poison (8 * b + d)
  let failed : Nat → Bool := fun d => m.failedSlice v d
  let bad : Nat → Bool := fun d => failed d || (!pois d && decide (flaw d = .double))
  let dies := List.range 8
  let rd := if dies.any fun d => cov d && bad d then dies else dies.filter cov
  let un := rd.filter bad
  let single := rd.filter fun d => !pois d && !failed d && decide (flaw d = .single)
  let recon := if un.length = 1 then un else []
  let pz := if un.length = 1 then [] else un.filter fun d => !pois d
  let reconN := recon.filter fun d => !failed d
  let clear := (single ++ recon ++ pz).foldl (fun fm d => merase fm (8 * b + d)) m.flaw
  let tabs := single.foldl (fun (acc : List ErrEnt × List RowId) d =>
      let h := errHit acc.1 (id d) s.clk.merTick
      (h.1, if h.2 then acc.2 ++ [id d] else acc.2)) (mget [] m.errTab v, [])
  let s1 : State := s.setMem { m with
      flaw := clear
      poison := pz.foldl (fun pm d => mset false pm (8 * b + d) true) m.poison
      corrected := satAdd m.corrected single.length
      recon := satAdd m.recon reconN.length
      poisoned := satAdd m.poisoned pz.length
      errTab := mset [] m.errTab v tabs.1
      sliceRows := m.sliceRows ++ reconN.map fun d => (v, d, bank, (id d).prow, s.clk.merTick) }
  let at_ : Nat → Nat := fun d => 256 * b + 32 * d
  ((single ++ reconN).foldl (fun (s : State) d => s.fixNote 4 (8 * v + d) 1 (at_ d)) s1,
   tabs.2 ++ (reconN ++ pz.filter fun d => !failed d).map id)

end Sys2Proof.Machine
end

