-- ==== Sys2Proof/Machine/Codes.lean ====
section
/-! DEFINITION. The device-wide status codes of Table 23.9 (R490). -/

namespace Sys2Proof.Machine

/-- SUCCESS. -/
abbrev stSuccess : BitVec 16 := 0x0000
/-- ILLEGAL_INSTR, raised under R132. -/
abbrev stIllegalInstr : BitVec 16 := 0x0101
/-- PRIVILEGE, raised under R117. -/
abbrev stPrivilege : BitVec 16 := 0x0102
/-- EXPERT_FIELD, raised under R132. -/
abbrev stExpertField : BitVec 16 := 0x0103
/-- DESC_RESERVED, raised under R134. -/
abbrev stDescReserved : BitVec 16 := 0x0104
/-- FORMAT_CODE, raised under R136. -/
abbrev stFormatCode : BitVec 16 := 0x0105
/-- FORMAT_LAYOUT, raised under R72. -/
abbrev stFormatLayout : BitVec 16 := 0x0106
/-- SHAPE_MISMATCH, raised under R162. -/
abbrev stShapeMismatch : BitVec 16 := 0x0107
/-- TILE_SHAPE, raised under R32. -/
abbrev stTileShape : BitVec 16 := 0x0108
/-- OPERAND_SPACE, raised under R91. -/
abbrev stOperandSpace : BitVec 16 := 0x0109
/-- OPERAND_FORMAT, raised under R92. -/
abbrev stOperandFormat : BitVec 16 := 0x010A
/-- OUT_FORMAT, raised under R55. -/
abbrev stOutFormat : BitVec 16 := 0x010B
/-- DEST_STRIDE, raised under R94. -/
abbrev stDestStride : BitVec 16 := 0x010C
/-- EXTENT_RANGE, raised under R105. -/
abbrev stExtentRange : BitVec 16 := 0x010D
/-- WINDOW_BOUND, raised under R116. -/
abbrev stWindowBound : BitVec 16 := 0x010E
/-- ALIGN, raised under R153. -/
abbrev stAlign : BitVec 16 := 0x010F
/-- ADDR_RANGE, raised under R153. -/
abbrev stAddrRange : BitVec 16 := 0x0110
/-- PROT_SPAN, raised under R135. -/
abbrev stProtSpan : BitVec 16 := 0x0111
/-- PC_RANGE, raised under R127. -/
abbrev stPcRange : BitVec 16 := 0x0112
/-- LOOP_DEPTH, raised under R157. -/
abbrev stLoopDepth : BitVec 16 := 0x0113
/-- PROGRAM_SIZE, raised under R127. -/
abbrev stProgramSize : BitVec 16 := 0x0114
/-- PHASE_UNDECLARED, raised under R141. -/
abbrev stPhaseUndeclared : BitVec 16 := 0x0115
/-- PHASE_MISMATCH, raised under R141. -/
abbrev stPhaseMismatch : BitVec 16 := 0x0116
/-- WAIT_TIMEOUT, raised under R143. -/
abbrev stWaitTimeout : BitVec 16 := 0x0117
/-- TASK_ABORTED, raised under R146. -/
abbrev stTaskAborted : BitVec 16 := 0x0118
/-- WEIGHT_CODE, raised under R21. -/
abbrev stWeightCode : BitVec 16 := 0x0119
/-- BANK_STATE, raised under R49. -/
abbrev stBankState : BitVec 16 := 0x011A
/-- LAYER_BUSY, raised under R80. -/
abbrev stLayerBusy : BitVec 16 := 0x011B
/-- REF_FORMAT, raised under R58. -/
abbrev stRefFormat : BitVec 16 := 0x011C
/-- REF_ORDER, raised under R87. -/
abbrev stRefOrder : BitVec 16 := 0x011D
/-- SPLIT_LIST, raised under R250. -/
abbrev stSplitList : BitVec 16 := 0x011E
/-- XC_FORMAT, raised under R227. -/
abbrev stXcFormat : BitVec 16 := 0x011F
/-- XC_MISMATCH, raised under R169. -/
abbrev stXcMismatch : BitVec 16 := 0x0120
/-- XC_INDEX, raised under R242. -/
abbrev stXcIndex : BitVec 16 := 0x0121
/-- ROW_ALIGN, raised under R172. -/
abbrev stRowAlign : BitVec 16 := 0x0122
/-- INDEX_RANGE, raised under R173. -/
abbrev stIndexRange : BitVec 16 := 0x0123
/-- STREAM_ALIAS, raised under R66. -/
abbrev stStreamAlias : BitVec 16 := 0x0130
/-- STREAM_LIMIT, raised under R64. -/
abbrev stStreamLimit : BitVec 16 := 0x0131
/-- STREAM_RANGE, raised under R63. -/
abbrev stStreamRange : BitVec 16 := 0x0132
/-- STREAM_CLASS, raised under R186. -/
abbrev stStreamClass : BitVec 16 := 0x0133
/-- STREAM_UNCLAIMED, raised under R187. -/
abbrev stStreamUnclaimed : BitVec 16 := 0x0134
/-- STREAM_HANDLE, raised under R188. -/
abbrev stStreamHandle : BitVec 16 := 0x0135
/-- KV_HANDLE, raised under R177. -/
abbrev stKvHandle : BitVec 16 := 0x0201
/-- KV_LAYOUT, raised under R256. -/
abbrev stKvLayout : BitVec 16 := 0x0202
/-- KV_CURSOR, raised under R260. -/
abbrev stKvCursor : BitVec 16 := 0x0203
/-- KV_STREAM, raised under R262. -/
abbrev stKvStream : BitVec 16 := 0x0204
/-- KV_EVICTED, raised under R275. -/
abbrev stKvEvicted : BitVec 16 := 0x0205
/-- KV_SWAP_CHECK, raised under R276. -/
abbrev stKvSwapCheck : BitVec 16 := 0x0206
/-- KV_BUSY, raised under R331. -/
abbrev stKvBusy : BitVec 16 := 0x0207
/-- RESHARD_LAYOUT, raised under R329. -/
abbrev stReshardLayout : BitVec 16 := 0x0208
/-- RESHARD_PROT, raised under R329. -/
abbrev stReshardProt : BitVec 16 := 0x0209
/-- RESHARD_SPACE, raised under R329. -/
abbrev stReshardSpace : BitVec 16 := 0x020A
/-- CHIP_LOST, raised under R292. -/
abbrev stChipLost : BitVec 16 := 0x0301
/-- ADMIT_DENIED, raised under R286. -/
abbrev stAdmitDenied : BitVec 16 := 0x0302
/-- ROUTE_ORDER, raised under R298. -/
abbrev stRouteOrder : BitVec 16 := 0x0303
/-- COLL_GROUP, raised under R314. -/
abbrev stCollGroup : BitVec 16 := 0x0304
/-- LPL_MISMATCH, raised under R305. -/
abbrev stLplMismatch : BitVec 16 := 0x0305
/-- GROUP_OFF, raised under R409. -/
abbrev stGroupOff : BitVec 16 := 0x0401
/-- DRAIN_TIMEOUT, raised under R409. -/
abbrev stDrainTimeout : BitVec 16 := 0x0402
/-- GROUP_MAPPED, raised under R412. -/
abbrev stGroupMapped : BitVec 16 := 0x0403
/-- SEG_IN_USE, raised under R122. -/
abbrev stSegInUse : BitVec 16 := 0x0404
/-- STATE_ORDER, raised under R404. -/
abbrev stStateOrder : BitVec 16 := 0x0405
/-- STATE_PARK_TIMEOUT, raised under R405. -/
abbrev stStateParkTimeout : BitVec 16 := 0x0406
/-- CLUSTER_BUSY, raised under R408. -/
abbrev stClusterBusy : BitVec 16 := 0x0407
/-- CLUSTER_STATE, raised under R408. -/
abbrev stClusterState : BitVec 16 := 0x0408
/-- CAP_UNMET, raised under R417. -/
abbrev stCapUnmet : BitVec 16 := 0x0409
/-- CMD_RANGE, raised under R403. -/
abbrev stCmdRange : BitVec 16 := 0x040A
/-- HOST_LOST, raised under R379. -/
abbrev stHostLost : BitVec 16 := 0x0501
/-- FUNC_RESET, raised under R380. -/
abbrev stFuncReset : BitVec 16 := 0x0502
/-- ENTRY_SEQ, raised under R368. -/
abbrev stEntrySeq : BitVec 16 := 0x0503
/-- ENTRY_INVALID, raised under R368. -/
abbrev stEntryInvalid : BitVec 16 := 0x0504
/-- TASK_UNKNOWN, raised under R369. -/
abbrev stTaskUnknown : BitVec 16 := 0x0505
/-- RING_OVERRUN, raised under R367. -/
abbrev stRingOverrun : BitVec 16 := 0x0506
/-- GUARD_INVALID, raised under R346. -/
abbrev stGuardInvalid : BitVec 16 := 0x0601
/-- GUARD_NONCE, raised under R346. -/
abbrev stGuardNonce : BitVec 16 := 0x0602
/-- GUARD_NOT_ENROLLED, raised under R343. -/
abbrev stGuardNotEnrolled : BitVec 16 := 0x0603
/-- GUARD_LOCKED, raised under R342. -/
abbrev stGuardLocked : BitVec 16 := 0x0604
/-- GUARD_SIG, raised under R346. -/
abbrev stGuardSig : BitVec 16 := 0x0605
/-- GUARD_LOG_FULL, raised under R350. -/
abbrev stGuardLogFull : BitVec 16 := 0x0606
/-- GUARD_BUSY, raised under R347. -/
abbrev stGuardBusy : BitVec 16 := 0x0607
/-- GUARD_RESET, raised under R353. -/
abbrev stGuardReset : BitVec 16 := 0x0608
/-- ENROL_STRAP, raised under R352. -/
abbrev stEnrolStrap : BitVec 16 := 0x0609
/-- ID_FAULT, raised under R355. -/
abbrev stIdFault : BitVec 16 := 0x060A
/-- FW_SIG, raised under R393. -/
abbrev stFwSig : BitVec 16 := 0x0701
/-- FW_SLOT_ACTIVE, raised under R393. -/
abbrev stFwSlotActive : BitVec 16 := 0x0702
/-- FW_SLOT_BUSY, raised under R393. -/
abbrev stFwSlotBusy : BitVec 16 := 0x0703
/-- ACT_SAME_SLOT, raised under R394. -/
abbrev stActSameSlot : BitVec 16 := 0x0704
/-- ACT_STATE_VERSION, raised under R394. -/
abbrev stActStateVersion : BitVec 16 := 0x0705
/-- DEFER_TIMEOUT, raised under R395. -/
abbrev stDeferTimeout : BitVec 16 := 0x0706
/-- ACT_PARK_TIMEOUT, raised under R396. -/
abbrev stActParkTimeout : BitVec 16 := 0x0707
/-- ACT_FALLBACK, raised under R398. -/
abbrev stActFallback : BitVec 16 := 0x0708
/-- CFG_CHECK, raised under R439. -/
abbrev stCfgCheck : BitVec 16 := 0x0709
/-- CFG_GUARDED, raised under R439. -/
abbrev stCfgGuarded : BitVec 16 := 0x070A
/-- FLASH_BUSY, raised under R442. -/
abbrev stFlashBusy : BitVec 16 := 0x070B
/-- POISON_CONSUMED, raised under R464. -/
abbrev stPoisonConsumed : BitVec 16 := 0x0801
/-- PART_CONTAINED, raised under R465. -/
abbrev stPartContained : BitVec 16 := 0x0802
/-- ERR_CORRECTED_MEM, raised under R459. -/
abbrev stErrCorrectedMem : BitVec 16 := 0x0810
/-- ERR_CORRECTED_LINK, raised under R459. -/
abbrev stErrCorrectedLink : BitVec 16 := 0x0811
/-- ERR_CORRECTED_PCIE, raised under R459. -/
abbrev stErrCorrectedPcie : BitVec 16 := 0x0812
/-- ERR_DEFERRED_MEM, raised under R459. -/
abbrev stErrDeferredMem : BitVec 16 := 0x0820
/-- ERR_DEFERRED_HOST, raised under R459. -/
abbrev stErrDeferredHost : BitVec 16 := 0x0821
/-- ERR_UNIT_INTERNAL, raised under R459. -/
abbrev stErrUnitInternal : BitVec 16 := 0x0830
/-- ERR_PART_STRUCT, raised under R459. -/
abbrev stErrPartStruct : BitVec 16 := 0x0831
/-- ERR_HOST_REQUEST, raised under R459. -/
abbrev stErrHostRequest : BitVec 16 := 0x0832
/-- ERR_CTRL_SRAM, raised under R459. -/
abbrev stErrCtrlSram : BitVec 16 := 0x0840
/-- ERR_WATCHDOG, raised under R459. -/
abbrev stErrWatchdog : BitVec 16 := 0x0841
/-- ERR_MESH, raised under R459. -/
abbrev stErrMesh : BitVec 16 := 0x0842
/-- ERR_VAULT_INTERNAL, raised under R459. -/
abbrev stErrVaultInternal : BitVec 16 := 0x0843
/-- ERR_POWER_STAGE, raised under R459. -/
abbrev stErrPowerStage : BitVec 16 := 0x0844
/-- THERMAL_TRIP, raised under R423. -/
abbrev stThermalTrip : BitVec 16 := 0x0845

/-- Every code of Table 23.9 but SUCCESS: no other value is ever written to a STATUS field (R490). -/
def statusCodes : List (BitVec 16) :=
  [stIllegalInstr, stPrivilege, stExpertField, stDescReserved, stFormatCode, stFormatLayout, stShapeMismatch, stTileShape,
   stOperandSpace, stOperandFormat, stOutFormat, stDestStride, stExtentRange, stWindowBound, stAlign, stAddrRange,
   stProtSpan, stPcRange, stLoopDepth, stProgramSize, stPhaseUndeclared, stPhaseMismatch, stWaitTimeout, stTaskAborted,
   stWeightCode, stBankState, stLayerBusy, stRefFormat, stRefOrder, stSplitList, stXcFormat, stXcMismatch]
  ++ [stXcIndex, stRowAlign, stIndexRange, stStreamAlias, stStreamLimit, stStreamRange, stStreamClass, stStreamUnclaimed,
   stStreamHandle, stKvHandle, stKvLayout, stKvCursor, stKvStream, stKvEvicted, stKvSwapCheck, stKvBusy,
   stReshardLayout, stReshardProt, stReshardSpace, stChipLost, stAdmitDenied, stRouteOrder, stCollGroup, stLplMismatch,
   stGroupOff, stDrainTimeout, stGroupMapped, stSegInUse, stStateOrder, stStateParkTimeout, stClusterBusy, stClusterState]
  ++ [stCapUnmet, stCmdRange, stHostLost, stFuncReset, stEntrySeq, stEntryInvalid, stTaskUnknown, stRingOverrun,
   stGuardInvalid, stGuardNonce, stGuardNotEnrolled, stGuardLocked, stGuardSig, stGuardLogFull, stGuardBusy, stGuardReset,
   stEnrolStrap, stIdFault, stFwSig, stFwSlotActive, stFwSlotBusy, stActSameSlot, stActStateVersion, stDeferTimeout,
   stActParkTimeout, stActFallback, stCfgCheck, stCfgGuarded, stFlashBusy, stPoisonConsumed, stPartContained, stErrCorrectedMem]
  ++ [stErrCorrectedLink, stErrCorrectedPcie, stErrDeferredMem, stErrDeferredHost, stErrUnitInternal, stErrPartStruct, stErrHostRequest, stErrCtrlSram,
   stErrWatchdog, stErrMesh, stErrVaultInternal, stErrPowerStage, stThermalTrip]
/-- The status that stands for one that came from another chip: Table 23.9 lists every code that is reported (R490). (log 76, DESIGN
CHOICE) -/
def faultStatus (st : BitVec 16) : BitVec 16 := if statusCodes.contains st then st else stChipLost
/-- The same for a status that may be SUCCESS. -/
def listedStatus (st : BitVec 16) : BitVec 16 := if st = 0 then 0 else faultStatus st

end Sys2Proof.Machine
end

