-- ==== Sys2Proof/Machine/Ops.lean ====
section
/-! DEFINITION. Named operations over the state that every family shares: access to units, address translation (R115, R335),
free values, the log ring and trace buffer (R385 to R391), error records (R460, R461), interrupts, completion records and
events (R371 to R377), and instruction faults (R145, R146). -/

namespace Sys2Proof.Machine

/-! ### Access to units -/

/-- A partition number as an index. -/
def finPart (p : Nat) : Fin 64 := ⟨p % 64, Nat.mod_lt _ (by decide)⟩
def State.cl (s : State) (c : Nat) : Cluster := mget Cluster.reset s.clusters c
def State.setCl (s : State) (c : Nat) (x : Cluster) : State := s.setClusters (mset Cluster.reset s.clusters c x)
def State.modCl (s : State) (c : Nat) (f : Cluster → Cluster) : State := s.setCl c (f (s.cl c))
def State.pt (s : State) (p : Nat) : Part := mget Part.reset s.parts p
def State.setPt (s : State) (p : Nat) (x : Part) : State := s.setParts (mset Part.reset s.parts p x)
def State.modPt (s : State) (p : Nat) (f : Part → Part) : State := s.setPt p (f (s.pt p))
def State.cc (s : State) (k : Nat) : CCore := mget CCore.reset s.ccores k
def State.setCc (s : State) (k : Nat) (x : CCore) : State := s.setCcores (mset CCore.reset s.ccores k x)
def State.modCc (s : State) (k : Nat) (f : CCore → CCore) : State := s.setCc k (f (s.cc k))
def State.po (s : State) (n : Nat) : Port := mget Port.reset s.lnk.ports n
def State.setPo (s : State) (n : Nat) (x : Port) : State := s.setLnk { s.lnk with ports := mset Port.reset s.lnk.ports n x }
def State.modPo (s : State) (n : Nat) (f : Port → Port) : State := s.setPo n (f (s.po n))
def State.grp (s : State) (g : Nat) : VGroup := mget VGroup.reset s.mem.groups g
def State.modGrp (s : State) (g : Nat) (f : VGroup → VGroup) : State :=
  s.setMem { s.mem with groups := mset VGroup.reset s.mem.groups g (f (s.grp g)) }
def Part.ring (P : Part) (n : Nat) : Ring := mget Ring.reset P.rings n
def Part.setRing (P : Part) (n : Nat) (r : Ring) : Part := { P with rings := mset Ring.reset P.rings n r }
def Cluster.mcore (x : Cluster) (k : Nat) : MCore := mget MCore.reset x.cores k
def Cluster.setCore (x : Cluster) (k : Nat) (m : MCore) : Cluster := { x with cores := mset MCore.reset x.cores k m }
def Cluster.unit (x : Cluster) (u : Nat) : List Job := mget [] x.units u
def Cluster.setUnit (x : Cluster) (u : Nat) (q : List Job) : Cluster := { x with units := mset [] x.units u q }

/-- The task with an identity, if it has not ended. -/
def State.findTask (s : State) (t : TaskId) : Option Task := s.tasks.find? fun x => decide (x.id = t)
/-- The task that holds a cluster. -/
def State.taskOn (s : State) (c : Nat) : Option Task := (s.cl c).task.bind s.findTask
def State.modTask (s : State) (t : TaskId) (f : Task → Task) : State :=
  s.setTasks (s.tasks.map fun x => if x.id = t then f x else x)
/-- Clusters that a partition owns, in ascending number (R334). -/
def State.owned (s : State) (p : Nat) : List Nat :=
  (s.clusters.filter fun kv => kv.2.owned && decide (kv.2.part.toNat = p)).map (·.1)
/-- Partition of a cluster, 0xFF for none. -/
def State.partOf (s : State) (c : Nat) : BitVec 8 := if (s.cl c).owned then (s.cl c).part.setWidth 8 else 0xFF

def State.tick (s : State) : Word := s.clk.merTick
/-- A power cap in watts: values outside 300 to 1,500 act as the nearer bound (R413). (log 50, DEDUCED) -/
def capClamp (w : Nat) : BitVec 11 := BitVec.ofInt 11 (clampInt 300 1500 (w : Int))
/-- The device works: rails up and no fatal error (R469, R470). (log 14, DESIGN CHOICE) -/
def State.live (s : State) : Bool := s.pwr.rails && !s.glb.fatalSet
/-- Nightwatch gives service: boot is complete to step 16 (R434). (log 14, DESIGN CHOICE) -/
def State.served (s : State) : Bool := s.live && decide (s.pwr.boot = .ready)

/-! ### Free values -/

/-- The n-th value from here that the spec leaves open. (log 1, DESIGN CHOICE) -/
def State.freeAt (s : State) (n : Nat) : Word := Config.freeValue (s.freeTick + n)
/-- Moves past n free values. (log 1, DESIGN CHOICE) -/
def State.bump (s : State) (n : Nat) : State := s.setFreeTick (s.freeTick + n)

/-! ### Addresses -/

/-- The extent-table entry that maps a partition address (R335). -/
def Part.entry (P : Part) (pa : Nat) : Option Word :=
  ((P.extents.map (·.2)).find? fun e => bitOf e.toNat 63 && decide (bitsOf e.toNat 9 0 = pa / 2 ^ 30)).filter fun _ => pa < 2 ^ 40
/-- Device address of a partition address (R335). -/
def Part.dev (P : Part) (pa : Nat) : Option Nat :=
  (P.entry pa).map fun e => bitsOf e.toNat 16 10 * 2 ^ 30 + pa % 2 ^ 30
/-- Whether a partition address lies in a protected extent. -/
def Part.prot (P : Part) (pa : Nat) : Bool := match P.entry pa with | some e => bitOf e.toNat 62 | none => false
/-- Every one of n bytes from a partition address is mapped (extents are whole GiB, so only their heads need a look). -/
def Part.mappedRange (P : Part) (pa n : Nat) : Bool :=
  n = 0 || (List.range ((pa + n - 1) / 2 ^ 30 + 1 - pa / 2 ^ 30)).all fun i => (P.entry ((pa / 2 ^ 30 + i) * 2 ^ 30)).isSome
/-- The protected flags met by n bytes from a partition address. -/
def Part.protFlags (P : Part) (pa n : Nat) : List Bool :=
  if n = 0 then [] else (List.range ((pa + n - 1) / 2 ^ 30 + 1 - pa / 2 ^ 30)).map fun i => P.prot ((pa / 2 ^ 30 + i) * 2 ^ 30)
/-- The partition that maps a device address, if any. -/
def State.ownerOfDev (s : State) (a : Nat) : BitVec 8 :=
  match s.parts.find? fun kv => kv.2.defined && (kv.2.extents.any fun e =>
      bitOf e.2.toNat 63 && decide (bitsOf e.2.toNat 16 10 = a / 2 ^ 30)) with
  | some kv => BitVec.ofNat 8 kv.1
  | none => 0xFF
/-- A device address lies in a protected extent of some partition. -/
def State.devProt (s : State) (a : Nat) : Bool :=
  s.parts.any fun kv => kv.2.defined && (kv.2.extents.any fun e =>
    bitOf e.2.toNat 63 && bitOf e.2.toNat 62 && decide (bitsOf e.2.toNat 16 10 = a / 2 ^ 30))

/-- Vault group of a device address (R194). -/
def groupOf (a : Nat) : Nat := a / 2 ^ 31
/-- A group that accepts requests: ACTIVE, filled, not draining (R409, R410). -/
def State.groupOn (s : State) (g : Nat) : Bool :=
  decide ((s.grp g).st = .active) && !(s.grp g).filling && (s.grp g).drain.isNone
/-- Every group that n bytes from a device address reach accepts requests. -/
def State.devOn (s : State) (a n : Nat) : Bool :=
  (List.range ((if n = 0 then 0 else groupOf (a + n - 1) - groupOf a) + 1)).all fun i => s.groupOn (groupOf a + i)

/-- Window register fields (Table 6.2). -/
def winValid (w : Word) : Bool := bitOf w.toNat 63
def winBound (w : Word) : Nat := bitsOf w.toNat 30 16
def winBase (w : Word) : Nat := bitsOf w.toNat 14 0
/-- A window-relative byte range is valid (R115). -/
def winOk (w : Word) (a n : Nat) : Bool := n = 0 || (winValid w && decide (a + n ≤ 128 * winBound w))
/-- Physical byte address of a window-relative one (R115). -/
def winPhys (w : Word) (a : Nat) : Nat := 128 * winBase w + a

/-! ### DRAM and scratchpad as bytes -/

/-- The canonical form of a memory: addresses rise, and no byte is listed that reads as an unlisted one does. (log 23, DEDUCED) -/
abbrev Memory.wf (m : Map Byte) : Bool := mwf 0 m

/-- The keys under which a die-sector that no partition maps is still encrypted (R208). -/
def Mem.keysAt (m : Mem) (k : Nat) : Option PartKeys :=
  if m.opened.contains k then none else (m.cipher.find? fun x => decide (x.1 = k / 2 ^ 25)).map (·.2)
/-- Byte of a die-sector as its cells hold it: what is under keys reads as their ciphertext. -/
def Mem.cell (m : Mem) (a : Nat) : Byte :=
  match m.keysAt (a / 32) with
  | none => mget 0 m.dram a
  | some k => nth 0 (Config.xtsSeal k.data k.tweak (a / 32 * 32) (rdBytes m.dram (a / 32 * 32) 32)) (a % 32)
/-- See log 23, DEDUCED. -/
def State.devRd (s : State) (a n : Nat) : List Byte :=
  if s.mem.cipher.isEmpty then rdBytes s.mem.dram a n else (List.range n).map fun i => s.mem.cell (a + i)
/-- Die-sectors (R192) that n bytes from an address touch. -/
def sectorsOf (a n : Nat) : List Nat := if n = 0 then [] else (List.range ((a + n - 1) / 32 + 1 - a / 32)).map (a / 32 + ·)
/-- Poisoned die-sectors in a range. -/
def State.devPoison (s : State) (a n : Nat) : List Nat :=
  (s.mem.poison.map (·.1)).filter fun k => decide (a / 32 ≤ k) && decide (0 < n) && decide (k ≤ (a + n - 1) / 32)
/-- Die-sectors under keys that no partition holds any longer become plain: they keep the bytes that they read as. -/
def Mem.openUp (m : Mem) (ks : List Nat) : Mem :=
  if m.cipher.isEmpty then m else
  ks.foldl (fun m k => if (m.keysAt k).isNone then m else
    { m with dram := wrBytes m.dram (32 * k) ((List.range 32).map fun i => m.cell (32 * k + i)), opened := m.opened ++ [k] }) m
/-- Writes bytes; a whole die-sector written clears its poison (R212), a part leaves it. -/
def State.devWr (s : State) (a : Nat) (bs : List Byte) : State :=
  let n := bs.length
  let whole : Nat → Bool := fun k => decide (a ≤ 32 * k) && decide (32 * k + 32 ≤ a + n)
  let m := s.mem.openUp (sectorsOf a n)
  (s.setMem { m with
      dram := wrBytes m.dram a bs
      poison := m.poison.filter fun kv => !whole kv.1
      flaw := m.flaw.filter fun kv => !whole kv.1 })
/-- Nightwatch's write of part of a burst (log, trace, prefix tree): the burst is read and decoded before the merge (R197). The
repairs that the decode asks for come at the next pass. (log 67, DEDUCED) -/
def State.narrowWr (s : State) (a : Nat) (bs : List Byte) : State :=
  let b := a / 256
  let y := if s.mem.flaw.any fun kv => decide (kv.1 / 8 = b) then s.decodeBurst b fun _ => true else (s, [])
  State.devWr (if y.2 = [] then y.1 else y.1.setMem { y.1.mem with due := y.1.mem.due ++ y.2 }) a bs
/-- Poisons die-sectors. -/
def State.devPoisonSet (s : State) (ks : List Nat) : State :=
  s.setMem { s.mem with poison := ks.foldl (fun m k => mset false m k true) s.mem.poison }

/-- See log 23, DEDUCED. -/
def Cluster.spadRd (x : Cluster) (a n : Nat) : List Byte := rdBytes x.spad a n
/-- Poisoned 64-bit words in a range of scratchpad bytes. -/
def Cluster.spadPois (x : Cluster) (a n : Nat) : List Nat :=
  (x.spadPoison.map (·.1)).filter fun k => decide (a / 8 ≤ k) && decide (0 < n) && decide (k ≤ (a + n - 1) / 8)
/-- Stores bytes; a whole word written clears its poison (R124). -/
def Cluster.spadWr (x : Cluster) (a : Nat) (bs : List Byte) : Cluster :=
  let n := bs.length
  let whole : Nat → Bool := fun k => decide (a ≤ 8 * k) && decide (8 * k + 8 ≤ a + n)
  { x with
    spad := wrBytes x.spad a bs
    spadPoison := x.spadPoison.filter fun kv => !whole kv.1
    spadFlaw := x.spadFlaw.filter fun kv => !whole kv.1 }
def Cluster.spadPoisonSet (x : Cluster) (ks : List Nat) : Cluster :=
  { x with spadPoison := ks.foldl (fun m k => mset false m k true) x.spadPoison }

/-- See log 6, DESIGN CHOICE. -/
def State.hostRd (s : State) (a n : Nat) : List Byte := rdBytes s.mem.hostMem a n
/-- A request to host memory for a partition: it carries the requester ID of its virtual function, and neither Relaxed Ordering nor
ID-based Ordering (R364; of a read the spec does not say the attributes: log 6, DESIGN CHOICE). -/
def State.hostAsk (s : State) (p : Nat) (write : Bool) (a n : Nat) : State :=
  let q : HostReq := { fn := (s.pt p).vf.toNat, write := write, addr := a, len := n, relaxed := false, idBased := false }
  s.setMem { s.mem with hostReq := some q }
/-- The bytes of a host address space as the device sees it, written for a partition: no write follows a fatal error (R469). (log 6,
DESIGN CHOICE) -/
def State.hostWr (s : State) (p : Nat) (a : Nat) (bs : List Byte) : State :=
  if s.glb.fatalSet then s else
  let s1 := s.hostAsk p true a bs.length
  s1.setMem { s1.mem with hostMem := wrBytes s1.mem.hostMem a bs }

/-! ### Trace (R389 to R391) -/

/-- What Nightwatch records, by the ranges of Table 17.4; the number inside a range is not in the spec. -/
inductive Tp where
  | epoch | passStart | passEnd | taskStart | taskPark | taskResume | taskEnd | boundary | stepTaken
  | prefetch | streamBuild | prefixMatch | copyOnWrite | preempt | swapOut | swapIn | evict
  | portState | retrain | adopt | routeWrite | parentChange | merLock | collSetup | reshRecord
  | budget | almanac | throttle | clamp | gear | stateCmd | drain
  | error | repair | guard | attest | ringFetch | record | event | hbExpiry | detach | attach
  | slotWrite | actRequest | deferral | actPark | actSwitch | fallback | groupOff | thermal
  deriving DecidableEq, Repr

/-- First point and count of a range of Table 17.4, and an index of the model for the choice inside it. -/
def Tp.range : Tp → Nat × Nat × Nat
  | .epoch => (0, 1, 0) | .passStart => (1, 31, 1) | .passEnd => (1, 31, 2) | .taskStart => (1, 31, 3)
  | .taskPark => (1, 31, 4) | .taskResume => (1, 31, 5) | .taskEnd => (1, 31, 6) | .boundary => (1, 31, 7)
  | .stepTaken => (1, 31, 8) | .prefetch => (0x20, 32, 9) | .streamBuild => (0x20, 32, 10)
  | .prefixMatch => (0x20, 32, 11) | .copyOnWrite => (0x20, 32, 12) | .preempt => (0x20, 32, 13)
  | .swapOut => (0x20, 32, 14) | .swapIn => (0x20, 32, 15) | .evict => (0x20, 32, 16) | .portState => (0x40, 32, 17)
  | .retrain => (0x40, 32, 18) | .adopt => (0x40, 32, 19) | .routeWrite => (0x40, 32, 20)
  | .parentChange => (0x40, 32, 21) | .merLock => (0x40, 32, 22) | .collSetup => (0x40, 32, 23)
  | .reshRecord => (0x40, 32, 24) | .budget => (0x60, 32, 25) | .almanac => (0x60, 32, 26) | .throttle => (0x60, 32, 27)
  | .clamp => (0x60, 32, 28) | .gear => (0x60, 32, 29) | .stateCmd => (0x60, 32, 30) | .drain => (0x60, 32, 31)
  | .error => (0x80, 32, 32) | .repair => (0x80, 32, 33) | .guard => (0xA0, 16, 34) | .attest => (0xA0, 16, 35)
  | .ringFetch => (0xB0, 16, 36) | .record => (0xB0, 16, 37) | .event => (0xB0, 16, 38) | .hbExpiry => (0xB0, 16, 39)
  | .detach => (0xB0, 16, 40) | .attach => (0xB0, 16, 41) | .slotWrite => (0xC0, 16, 42) | .actRequest => (0xC0, 16, 43)
  | .deferral => (0xC0, 16, 44) | .actPark => (0xC0, 16, 45) | .actSwitch => (0xC0, 16, 46) | .fallback => (0xC0, 16, 47)
  | .groupOff => (0x60, 32, 48) | .thermal => (0x60, 32, 49)

/-- The number of a trace point: an open choice inside its range. (log 28, DESIGN CHOICE) -/
def Tp.num (t : Tp) : Nat := t.range.1 + (Config.eventNo t.range.2.2).toNat % t.range.2.1

/-- Duty of Table 17.1 whose work a point belongs to. -/
def Tp.duty (t : Tp) : Nat :=
  match t with
  | .budget | .almanac | .throttle | .clamp | .gear | .stateCmd | .drain | .groupOff | .thermal => 1
  | .passStart | .passEnd | .taskStart | .taskPark | .taskResume | .taskEnd | .boundary | .stepTaken => 2
  | .error | .repair => 3
  | .prefetch | .streamBuild | .prefixMatch | .copyOnWrite | .preempt | .swapOut | .swapIn | .evict => 4
  | .portState | .retrain | .adopt | .routeWrite | .parentChange | .merLock | .collSetup | .reshRecord => 5
  | .ringFetch | .record | .event | .hbExpiry | .detach | .attach => 6
  | .guard | .attest => 7
  | .epoch | .slotWrite | .actRequest | .deferral | .actPark | .actSwitch | .fallback => 8

/-- Working control cores in ascending number (R382). -/
def State.workingCores (s : State) : List Nat := (List.range 8).filter fun k => !s.glb.badCores.contains k
/-- SRC byte: duty and the working core n mod c that does it (R382). -/
def State.srcByte (s : State) (duty : Nat) : Byte :=
  let w := s.workingCores
  BitVec.ofNat 8 (duty * 16 + nth 0 w (duty % (if w.length = 0 then 1 else w.length)))

/-- A firmware switch is in progress (R397). -/
def State.switching (s : State) : Bool := match s.fw.act with | some a => decide (a.st = .switching) | none => false

/-- Writes a trace record at TRC_WPTR; the record that fills the buffer stops recording and sets FULL (R390). -/
def State.traceRaw (s : State) (pt : Nat) (duty : Nat) (part : BitVec 8) (d0 d1 d2 : Word) : State :=
  if s.switching then s.setLog { s.log with drops := satAdd s.log.drops 1 }
  else if s.log.stopFull && decide (524288 ≤ (s.log.wptr - s.log.rptr).toNat) then
    s.setLog { s.log with full := true, drops := satAdd s.log.drops 1 }
  else
    let a := s.log.trcBase.toNat + 32 * (s.log.wptr.toNat % 524288)
    let bs := leBytes 4 (s.tick.toNat % 2 ^ 32) ++ [BitVec.ofNat 8 pt, s.srcByte duty, part, 0]
      ++ leBytes 8 d0.toNat ++ leBytes 8 d1.toNat ++ leBytes 8 d2.toNat
    let s1 := if s.devOn a 32 then s.narrowWr a bs else s
    (s1.setLog { s1.log with
      wptr := s1.log.wptr + 1
      full := s1.log.full || (s1.log.stopFull && decide (524288 ≤ (s1.log.wptr + 1 - s1.log.rptr).toNat)) })

/-- Records a point while tracing is on and its mask bit is 1; what DATA holds is not in the spec (R389). (log 28, DESIGN CHOICE) -/
def State.trace (s : State) (t : Tp) (part : BitVec 8 := 0xFF) : State :=
  if s.log.en && s.log.mask.getLsbD t.num then
    (s.traceRaw t.num t.duty part (s.freeAt 0) (s.freeAt 1) (s.freeAt 2)).bump 3
  else s

/-- The epoch record carries the full tick (R389). -/
def State.traceEpoch (s : State) : State := if s.log.en then s.traceRaw 0 8 0xFF s.tick (s.freeAt 0) (s.freeAt 1) |>.bump 2 else s

/-! ### Log ring (R385 to R388) -/

/-- The 60 bytes after SEQ of a log entry, Table 17.2, without SEQ_END. -/
def logBody (e : LogEv) (src : Byte) (heldFlag : Bool) : List Byte :=
  [BitVec.ofNat 8 e.sev, src, e.part, BitVec.ofNat 8 (bool2 heldFlag)] ++ leBytes 8 e.tick.toNat ++ leBytes 2 e.status.toNat
    ++ leBytes 2 e.event.toNat ++ (List.range 5).flatMap fun i => leBytes 8 (nth 0 e.args i).toNat

/-- Writes one entry: overwriting an entry that the host has not consumed counts in LOG_LOST (R387). -/
def State.logPut (s : State) (e : LogEv) (heldFlag : Bool) : State :=
  let seq := s.log.seq
  let a := s.log.base.toNat + 64 * (seq.toNat % 16384)
  let old := seq - 16384
  let lost := decide (leNat (s.devRd (a + 60) 4) = old.toNat) && serialBefore s.log.read old
  let bs := leBytes 4 seq.toNat ++ logBody e (s.srcByte e.duty) heldFlag ++ leBytes 4 seq.toNat
  let s1 := if s.devOn a 64 then s.narrowWr a bs else s
  (s1.setLog { s1.log with seq := seq + 1, lost := if lost then satAdd s1.log.lost 1 else s1.log.lost })

/-- Logs an event of a severity (R388); one that arises during a firmware switch is held, and an entry of it says so (R397). -/
def State.logEv (s : State) (e : LogEv) (held : Bool := false) : State :=
  if s.switching then s.setLog { s.log with held := s.log.held ++ [e] }
  else if e.sev < 4 && decide (e.sev < s.log.minSev.toNat) then s
  else if s.served then s.logPut e held else s

/-- Severity of an event that R388 puts at 3 or more without a number: an open value. (log 28, DESIGN CHOICE) -/
def Tp.sev (t : Tp) : Nat := 3 + (Config.eventNo (64 + t.range.2.2)).toNat % 2

/-- Logs and traces an event of R388. (log 28, DESIGN CHOICE) -/
def State.note (s : State) (t : Tp) (part : BitVec 8) (status : BitVec 16) (args : List Word) : State :=
  (s.logEv { sev := t.sev, duty := t.duty, part := part, tick := s.tick, status := status,
             event := BitVec.ofNat 16 t.num, args := args }).trace t part

/-- The same with a severity that the spec gives, of an event that arose at a tick (Table 17.2). -/
def State.noteAt (s : State) (t : Tp) (sev : Nat) (tick : Word) (part : BitVec 8) (status : BitVec 16) (args : List Word)
    (held : Bool := false) : State :=
  (s.logEv { sev := sev, duty := t.duty, part := part, tick := tick, status := status,
             event := BitVec.ofNat 16 t.num, args := args } held).trace t part
/-- The same at this tick. -/
def State.noteSev (s : State) (t : Tp) (sev : Nat) (part : BitVec 8) (status : BitVec 16) (args : List Word) : State :=
  s.noteAt t sev s.tick part status args

/-! ### Interrupts and error records -/

/-- MSI-X vector v of function fn (0 physical, k for virtual function k), R358; those of the physical function are held while the
device is in HOST_LOST or DETACHED (R468). (log 65, DESIGN CHOICE) (log 58, DEDUCED; log 65, DESIGN CHOICE) -/
def State.msix (s : State) (fn v : Nat) : State :=
  if s.glb.fatalSet then s
  else if fn = 0 ∧ (s.hif.hostLost || s.hif.detached) then s.setHif { s.hif with msixHeld := s.hif.msixHeld ++ [(s.tick, v)] }
  else s.setHif { s.hif with msix := s.hif.msix ++ [(fn, v)] }

/-- The 32 bytes of an error record, Table 21.3. -/
def ErrRec.bytes (r : ErrRec) (more : Bool) : List Byte :=
  leBytes 2 r.status.toNat ++ [BitVec.ofNat 8 r.cls, r.part] ++ leBytes 2 r.unit ++ leBytes 2 r.index ++ leBytes 8 r.tick.toNat
    ++ leBytes 8 r.addr.toNat ++ leBytes 4 r.count.toNat ++ [r.akind, BitVec.ofNat 8 (bool2 more)] ++ leBytes 2 r.src.toNat

/-- Takes an error record: it waits for the next pass (R461). -/
def State.errNote (s : State) (r : ErrRec) : State := s.setLog { s.log with errq := s.log.errq ++ [r] }

/-- A record of a fresh error at this tick. -/
def State.mkErr (s : State) (status : BitVec 16) (cls : Nat) (part : BitVec 8) (unit index : Nat) (addr : Nat) (count : Nat)
    (akind : BitVec 8) (src : BitVec 14 := 0x3FFF) : ErrRec :=
  { status := status, cls := cls, part := part, unit := unit, index := index, tick := s.tick, addr := BitVec.ofNat 64 addr,
    count := BitVec.ofNat 32 count, akind := akind, src := src, held := s.switching }

/-- Log severity of a class, Table 21.1. -/
def errSev (cls : Nat) : Nat := if cls = 0 then 3 else if cls = 3 then 5 else 4

/-- Writes one record: log entry, counters of Table 21.5, interrupt for classes 2 and 3 (R461). -/
def State.errWrite (s : State) (r : ErrRec) (more : Bool) : State :=
  let bs := r.bytes more
  let s1 := s.noteAt .error (errSev r.cls) r.tick r.part r.status ((List.range 4).map fun i => BitVec.ofNat 64 (fieldAt bs (8 * i) 8)) r.held
  let s2 := s1.setGlb { s1.glb with
      errCorrected := if r.cls = 0 then satAdd s1.glb.errCorrected 1 else s1.glb.errCorrected
      errDeferred := if r.cls = 1 then satAdd s1.glb.errDeferred 1 else s1.glb.errDeferred
      errContained := if r.cls = 2 then satAdd s1.glb.errContained 1 else s1.glb.errContained }
  if r.cls = 2 || r.cls = 3 then s2.msix 0 7 else s2

/-- Order of R461: TICK, then UNIT, then INDEX. -/
def ErrRec.before (a b : ErrRec) : Bool :=
  decide (a.tick.toNat < b.tick.toNat) || (decide (a.tick = b.tick) &&
    (decide (a.unit < b.unit) || (decide (a.unit = b.unit) && decide (a.index < b.index))))

/-- Stable insertion, after the records that do not come later. -/
def errInsert (r : ErrRec) : List ErrRec → List ErrRec
  | [] => [r]
  | x :: xs => if r.before x then r :: x :: xs else x :: errInsert r xs

/-- Writes every record that waits, in order; MORE says that the same unit follows in this pass. -/
def State.errFlush (s : State) : State :=
  let go : List ErrRec → State → State := fun rs s0 =>
    (rs.foldl (fun (acc : State × List ErrRec) r =>
      let rest := acc.2.drop 1
      (acc.1.errWrite r (rest.any fun y => decide (y.unit = r.unit) && decide (y.index = r.index)), rest)) (s0, rs)).1
  go (s.log.errq.foldl (fun acc r => errInsert r acc) []) (s.setLog { s.log with errq := [] })

/-! ### Records and events for the host (R371 to R378) -/

/-- log2 of a ring's entries: values outside 4 to 16 act as 4 (Table 16.13). (log 59, DEDUCED) -/
def Ring.log2 (r : Ring) : Nat := if 4 ≤ r.size.toNat ∧ r.size.toNat ≤ 16 then r.size.toNat else 4
/-- GEN of sequence number s (R372), as byte 31 of a record. -/
def genByte (seq : BitVec 32) (size : Nat) : Byte := if (seq.toNat >>> size) % 2 = 0 then 0x80 else 0
/-- Bytes of a completion record, Table 16.5; ENERGY stops at its largest value (R451). -/
def recordBytes (seq : BitVec 32) (status esc : BitVec 16) (energy : Nat) (tick : Word) (result : BitVec 32) (gen : Byte) : List Byte :=
  leBytes 4 seq.toNat ++ leBytes 2 status.toNat ++ leBytes 2 esc.toNat ++ leBytes 6 (if 2 ^ 48 ≤ energy then 2 ^ 48 - 1 else energy) ++ [0, 0] ++ leBytes 8 tick.toNat
    ++ leBytes 4 result.toNat ++ [0, 0, 0, gen]

/-- A partition whose writes to the host are held (R376, R377). -/
def State.hostHeld (s : State) (p : Nat) : Bool :=
  s.hif.hostLost || s.hif.detached || (s.pt p).hostLost || (s.pt p).detached
/-- Virtual function of a partition as an interrupt's function number. -/
def State.vfOf (s : State) (p : Nat) : Nat := (s.pt p).vf.toNat

/-- Puts a record into host memory, bytes 0 to 23 first: the interrupt follows it (R371, Table 16.13). (log 58, DEDUCED; log 59, DEDUCED) -/
def State.putRecord (s : State) (p ring : Nat) (seq : BitVec 32) (irq : Bool) (bs : List Byte) : State :=
  let r := (s.pt p).ring ring
  let a := r.cpl.toNat + 32 * (seq.toNat % 2 ^ r.log2)
  let s1 := (s.hostWr p a (bs.take 24)).hostWr p (a + 24) (bs.drop 24)
  let s2 := s1.modPt p fun P => P.setRing ring
    { P.ring ring with entries := (P.ring ring).entries.filter fun e => decide (e.seq ≠ seq) }
  (if irq && r.irq then s2.msix (s2.vfOf p) ring else s2).trace .record (BitVec.ofNat 8 p)

/-- Completes an entry (R369, R371): its record is written, or held in HOST_LOST and DETACHED. (log 59, DEDUCED) -/
def State.complete (s : State) (e : EntryId) (irq : Bool) (status esc : BitVec 16) (energy : Nat) (result : BitVec 32) : State :=
  let p := e.part.val
  let r := (s.pt p).ring e.ring.val
  let bs := recordBytes e.seq status esc energy s.tick result (genByte e.seq r.log2)
  if s.hostHeld p then
    s.modPt p fun P =>
      { P.setRing e.ring.val { r with entries := r.entries.map fun x => if x.seq = e.seq then { x with st := .done } else x } with
        held := P.held ++ [.record e.ring.val e.seq irq bs] }
  else s.putRecord p e.ring.val e.seq irq bs

/-- Bytes of a submission entry that was fetched. -/
def State.entryBytes (s : State) (e : EntryId) : Option Entry :=
  ((s.pt e.part.val).ring e.ring.val).entries.find? fun x => decide (x.seq = e.seq)
def State.setEntry (s : State) (e : EntryId) (st : EntrySt) : State :=
  s.modPt e.part.val fun P => P.setRing e.ring.val
    { P.ring e.ring.val with entries := (P.ring e.ring.val).entries.map fun x => if x.seq = e.seq then { x with st := st } else x }
/-- FLAGS[0] of an entry asks for its interrupt. -/
def State.entryIrq (s : State) (e : EntryId) : Bool :=
  match s.entryBytes e with | some x => bitOf (fieldAt x.bytes 5 1) 0 | none => false
/-- Completes an entry with a status alone. -/
def State.completeSt (s : State) (e : EntryId) (status : BitVec 16) : State := s.complete e (s.entryIrq e) status 0 0 0

/-- Completes an entry whose work is not a task's: the energy that falls to it is a measurement (R427). (log 52, DEDUCED) -/
def State.completeWork (s : State) (e : EntryId) (status : BitVec 16) (result : BitVec 32) : State :=
  (s.complete e (s.entryIrq e) status 0 ((s.freeAt 0).toNat % 2 ^ 48) result).bump 1
/-- log2 of an event queue's records; values outside 4 to 12 have no meaning in Table 16.15: an open value. (log 59, DEDUCED) -/
def Part.evLog2 (P : Part) : Nat :=
  if 4 ≤ P.evSize.toNat ∧ P.evSize.toNat ≤ 12 then P.evSize.toNat else 4 + (Config.eventNo (200 + P.evSize.toNat)).toNat % 9
/-- The event queue has room: HEAD lies in the host's header (R374). -/
def State.evRoom (s : State) (p : Nat) : Bool :=
  let P := s.pt p
  decide ((P.evSeq - BitVec.ofNat 32 (leNat (s.hostRd P.evBase.toNat 4))).toNat < 2 ^ P.evLog2)
/-- Bytes of an event record (R374). -/
def eventBytes (seq : BitVec 32) (status : BitVec 16) (ring : BitVec 8) (sid : BitVec 32) (tick : Word) (gen : Byte) : List Byte :=
  leBytes 4 seq.toNat ++ leBytes 2 status.toNat ++ [ring, 0] ++ leBytes 4 sid.toNat ++ leBytes 4 0 ++ leBytes 8 tick.toNat
    ++ leBytes 7 0 ++ [gen]
/-- Writes one event into the queue. -/
def State.writeEvent (s : State) (p : Nat) (status : BitVec 16) (ring : BitVec 8) (sid : BitVec 32) (tick : Word) : State :=
  let P := s.pt p
  let s1 := s.hostWr p (P.evBase.toNat + 64 + 32 * (P.evSeq.toNat % 2 ^ P.evLog2))
    (eventBytes P.evSeq status ring sid tick (genByte P.evSeq P.evLog2))
  let s2 := s1.modPt p fun P => { P with evSeq := P.evSeq + 1 }
  (if P.evIrq then s2.msix (s2.vfOf p) 4 else s2).trace .event (BitVec.ofNat 8 p)
/-- Writes an event, or keeps it among the 256 that wait for room, or counts it lost (R374). -/
def State.putEvent (s0 : State) (p : Nat) (status : BitVec 16) (ring : BitVec 8) (sid : BitVec 32) (tick : Word) : State :=
  let P := s0.pt p
  let s := if P.evEn && P.evHeld.isEmpty then s0.hostAsk p false P.evBase.toNat 4 else s0
  if P.evEn && P.evHeld.isEmpty && s.evRoom p then s.writeEvent p status ring sid tick
  else if P.evHeld.length < 256 then s.modPt p fun P => { P with evHeld := P.evHeld ++ [.event status ring sid tick] }
  else s.modPt p fun P => { P with evLost := satAdd P.evLost 1 }
/-- Writes events that waited for room, in order; the header is read for each (R364, R374). -/
def flushFuel (p : Nat) : Nat → State → State
  | 0, s => s
  | n + 1, s =>
    if !(s.pt p).evEn then s else
    let s := s.hostAsk p false (s.pt p).evBase.toNat 4
    if !s.evRoom p then s else
    match (s.pt p).evHeld with
    | .event st ring sid tick :: rest => flushFuel p n ((s.modPt p fun P => { P with evHeld := rest }).writeEvent p st ring sid tick)
    | _ => s
def State.flushEvents (s : State) (p : Nat) : State := flushFuel p (s.pt p).evHeld.length s
/-- Posts an event (R374); in HOST_LOST it is held (R377). (log 58, DEDUCED) -/
def State.event (s : State) (p : Nat) (status : BitVec 16) (ring : BitVec 8) (sid : BitVec 32) : State :=
  if s.hostHeld p then
    if (s.pt p).held.length < 4096 then s.modPt p fun P => { P with held := P.held ++ [.event status ring sid s.tick] }
    else s.modPt p fun P => { P with evLost := satAdd P.evLost 1 }
  else s.putEvent p status ring sid s.tick
/-- Writes what was held, in the order in which it arose (R378). -/
def State.release (s : State) (p : Nat) (hs : List Held) : State :=
  hs.foldl (fun s h => match h with
    | .record ring seq irq bs => s.putRecord p ring seq irq bs
    | .event st ring sid tick => s.putEvent p st ring sid tick) s

/-! ### Instruction faults (R145, R146) -/

/-- CLS_TASK_FAULT of a status at a tick and instruction index (Table 7.10). (log 31, DEDUCED) -/
def faultWord (status : BitVec 16) (tick : Word) (pc : Nat) : Word :=
  BitVec.ofNat 64 (status.toNat * 2 ^ 48 + (tick.toNat % 2 ^ 32) * 2 ^ 16 + (pc % 8192) * 8)

/-- A fault of the sequencer of cluster c: it stops, the others of its task stop with TASK_ABORTED, and the task remembers
the earliest fault. PC of an aborted cluster has no stated value. -/
def State.seqFault (s : State) (c : Nat) (status : BitVec 16) (pc : Nat) (w : Word) : State :=
  match s.taskOn c with
  | none => s
  | some t =>
    let earliest := match t.fault with
      | none => true
      | some f => decide (s.tick.toNat < f.tick.toNat) || (decide (s.tick = f.tick) && decide (c < f.cluster))
    if earliest then
      let s1 := t.clusters.foldl (fun (s : State) d => s.modCl d fun x =>
        { x with
          winFaults := if d = c ∧ status = stWindowBound then satAdd x.winFaults 1 else x.winFaults
          seq := { x.seq with run := .faulted }
          faultReg := if d = c then faultWord status s.tick pc else faultWord stTaskAborted s.tick (s.freeAt 0).toNat
          faultInstr := if d = c then w else 0 }) s
      (s1.modTask t.id fun t => { t with fault := some { status := status, tick := s.tick, cluster := c } }).bump 1
    else s.modCl c fun x => { x with seq := { x.seq with run := .faulted } }

/-- A fault of a task that no instruction raised (R143, R465): the sequencer of cluster `who`, or every one, records the status,
the others TASK_ABORTED (R146). (log 31, DEDUCED) -/
def State.taskStop (s : State) (t : TaskId) (status : BitVec 16) (who : Option Nat := none) : State :=
  match s.findTask t with
  | none => s
  | some T =>
    if T.fault.isSome then s else
    let mine : Nat → Bool := fun d => match who with | some c => decide (d = c) | none => true
    let first := match who with | some c => c | none => nth 0 T.clusters 0
    let s1 := T.clusters.foldl (fun (s : State) d => s.modCl d fun x =>
      { x with seq := { x.seq with run := .faulted },
               faultReg := if mine d then faultWord status s.tick x.seq.pc else faultWord stTaskAborted s.tick (s.freeAt 0).toNat,
               faultInstr := if mine d then nth 0 x.seq.prog x.seq.pc else 0 }) s
    let f : TaskFault := { status := status, tick := s.tick, cluster := first }
    (s1.modTask t fun T => { T with fault := some f }).bump 1

/-- A control core that faults stops (R126). -/
def State.coreFault (s : State) (k : Nat) (status : BitVec 16) : State :=
  s.modCc k fun x => { x with halted := true, fault := status }

end Sys2Proof.Machine
end

