-- ==== Sys2Proof/Machine/Budget.lean ====
section
/-! DEFINITION. The Almanac (R418, R419) and the issue limits (R413 to R415, R422, R425). Powers are in milliwatts. -/

namespace Sys2Proof.Machine

/-- IDLE of R415. -/
def idleMw : Int := 150
/-- RATE; 0 acts as 3 (Table 18.7). -/
def State.almRate (s : State) : Nat := if s.pwr.rate = 0 then 3 else s.pwr.rate.toNat
def State.almFind (s : State) (p : Nat) (k : BitVec 8) : Option Alm :=
  s.pwr.almanac.find? fun a => decide (a.part = p) && decide (a.phase = k)
/-- EST of a partition and PHASE. -/
def State.est (s : State) (p : Nat) (k : Option (BitVec 8)) : Int :=
  match k with
  | none => (s.pwr.modelEff : Int)
  | some k => match s.almFind p k with | some a => (a.est : Int) | none => (s.pwr.modelEff : Int)
/-- An entry comes to the front when it is used; the list is in order of use (R418). (log 53, DESIGN CHOICE) -/
def almPut (l : List Alm) (a : Alm) : List Alm :=
  let rest := l.filter fun x => !(decide (x.part = a.part) && decide (x.phase = a.phase))
  a :: rest.take 255
/-- A quotient in whole milliwatts; how a remainder rounds is open. (log 53, DESIGN CHOICE) -/
def divOpen (free : Bool) (a b : Int) : Int := a / b + (if a % b ≠ 0 ∧ free then 1 else 0)
/-- Updates the entry of a phase that has ended with its mean cluster power and mean limit (R418). (log 53, DESIGN CHOICE) -/
def State.almEnd (s : State) (x : Nat × BitVec 8 × Nat × Nat) : State :=
  if s.pwr.freeze || x.2.2.2 == 0 then s else
  let m : Int := idleMw + divOpen ((s.freeAt 0).getLsbD 0) (((x.2.2.1 : Int) - idleMw) * 256) (x.2.2.2 : Int)
  let e : Int := match s.almFind x.1 x.2.1 with
    | some a => (a.est : Int) + divOpen ((s.freeAt 0).getLsbD 1) (m - (a.est : Int)) (2 ^ s.almRate)
    | none => m
  ((s.setPwr { s.pwr with almanac := almPut s.pwr.almanac { part := x.1, phase := x.2.1, est := e.toNat } }).setFreeTick (s.freeTick + 1))
/-- Step 5 of a scheduling pass (R383). (log 53, DESIGN CHOICE) -/
def State.almanacUpdate (s : State) : State :=
  if s.pwr.phaseEnds.isEmpty then s else
  let s1 := s.pwr.phaseEnds.foldl (fun s x => s.almEnd x) s
  (s1.setPwr { s1.pwr with phaseEnds := [] }).trace .almanac

/-! ### Limits -/

/-- What PWR_CAP acts as, in watts (R413). -/
def State.capW (s : State) : Nat := (capClamp s.pwr.cap.toNat).toNat
/-- The effective cap (Table 18.2). -/
def State.effCap (s : State) : Rat :=
  let w : Rat := s.capW * 1000
  if s.pwr.stage = 0 then w else if s.pwr.stage = 1 then w * 85 / 100 else w * 6 / 10
/-- PWR_FIXED.FLOOR at a cap (R425). -/
def fixedFloor (capW : Nat) : Nat :=
  (clampInt 1 256 ((256 * (92 * (capW : Int) - 52520)) / 84480)).toNat
/-- Fixed rate is set, available and not overridden. -/
def State.fixedOn (s : State) : Bool :=
  s.pwr.fixed && decide (629 ≤ s.capW) && decide (s.pwr.stage = 0) && !s.pwr.capUnmet
/-- A partition's claim on the budget: demand, share, grant. -/
structure PartDemand where
  part   : Nat
  demand : Rat
  share  : Nat
  grant  : Rat
/-- Clusters of a task in RUN. -/
def State.runClusters (s : State) (T : Task) : List Nat := T.clusters.filter fun c => decide ((s.cl c).cstate = .run)
/-- demand(t). -/
def State.demandOf (s : State) (T : Task) : Rat := (s.est T.id.part.val T.phase * ((s.runClusters T).length : Int) : Int)
/-- Running tasks. -/
def State.runningTasks (s : State) : List Task := s.tasks.filter fun t => decide (t.st = .running)
/-- Shares out the rest of the budget. -/
def shareOut : Nat → Rat → List PartDemand → List PartDemand
  | 0, _, ps => ps
  | n + 1, rest, ps =>
    let open_ := ps.filter fun p => decide (p.grant < p.demand)
    let total : Nat := (open_.map (·.share)).foldl (· + ·) 0
    if rest ≤ 0 ∨ total = 0 then ps else
    let fill : PartDemand → Rat := fun p => p.grant + rest * (p.share : Rat) / (total : Rat)
    let full : PartDemand → Bool := fun p => decide (p.grant < p.demand) && decide (p.demand ≤ fill p)
    if ps.any full then
      let used := (ps.filter full).foldl (fun (a : Rat) p => a + (p.demand - p.grant)) 0
      shareOut n (rest - used) (ps.map fun p => if full p then { p with grant := p.demand } else p)
    else ps.map fun p => if p.grant < p.demand then { p with grant := fill p } else p
/-- grant(p) of every partition with a running task. -/
def State.grants (s : State) : List PartDemand :=
  let b : Rat := s.effCap - (s.pwr.otherMw : Rat)
  let ps := (s.runningTasks.map (·.id.part.val)).eraseDups
  let base := ps.map fun p =>
    let d := (s.runningTasks.filter fun t => decide (t.id.part.val = p)).foldl (fun (a : Rat) t => a + s.demandOf t) 0
    let f : Rat := ((s.pt p).floorW.toNat * 1000 : Nat)
    ({ part := p, demand := d, share := if (s.pt p).shareW = 0 then 1 else (s.pt p).shareW.toNat, grant := if f < d then f else d }
      : PartDemand)
  let sum := base.foldl (fun (a : Rat) p => a + p.grant) 0
  let scaled := if b < sum then base.map fun p => { p with grant := if b ≤ 0 ∨ sum = 0 then 0 else p.grant * b / sum } else base
  shareOut 65 (b - (scaled.foldl (fun (a : Rat) p => a + p.grant) 0)) scaled
/-- L of a task; with EST equal to IDLE the formula has no value: an open one in 1 to 256. (log 53, DESIGN CHOICE) -/
def State.limitOf (s : State) (gs : List PartDemand) (T : Task) : Nat :=
  let e := s.est T.id.part.val T.phase
  let n := (s.runClusters T).length
  match gs.find? fun p => decide (p.part = T.id.part.val) with
  | none => 256
  | some g =>
    if e = idleMw ∨ n = 0 ∨ g.demand = 0 then 1 + (s.freeAt 0).toNat % 256 else
    let b : Rat := g.grant * s.demandOf T / g.demand / (n : Rat)
    (clampInt 1 256 (256 * (b - (idleMw : Rat)) / ((e - idleMw : Int) : Rat)).floor).toNat
/-- Sets the issue limit of clusters. (log 9, DESIGN CHOICE) -/
def State.setLimits (s : State) (cs : List Nat) (l : Nat) : State :=
  cs.foldl (fun s c => if (s.cl c).limit = l then s else s.modCl c fun x => { x with limit := l }) s
/-- The entries of the running tasks are used when their limits are computed (R418). (log 53, DESIGN CHOICE) -/
def State.almUse (s : State) : State :=
  let used := s.runningTasks.foldl (fun l T =>
    match T.phase.bind (fun k => l.find? fun a => decide (a.part = T.id.part.val) && decide (a.phase = k)) with
    | some a => almPut l a
    | none => l) s.pwr.almanac
  s.setPwr { s.pwr with almanac := used }
/-- Sets the limits of some running tasks, or of every RUN cluster in stage 3 and in fixed rate; while CAP_UNMET is set they stay at 1
(R417). -/
def State.applyLimits (s : State) (mine : Task → Bool) : State :=
  let runs := (List.range 768).filter fun c => decide ((s.cl c).cstate = .run)
  if s.pwr.stage = 3 then s.setLimits runs 16
  else if s.fixedOn then s.setLimits runs (fixedFloor s.capW)
  else if s.pwr.capUnmet then (s.runningTasks.filter mine).foldl (fun s' T => s'.setLimits (s.runClusters T) 1) s
  else
    let gs := s.grants
    ((s.runningTasks.filter mine).foldl (fun s' T => s'.setLimits (s.runClusters T) (s.limitOf gs T)) s.almUse).bump 1

end Sys2Proof.Machine
end

