-- ==== Sys2Proof/Machine/Flits.lean ====
section
/-! DEFINITION. Packets and flits that leave a port: packet types (Table 13.9), headers (Tables 13.5 and 13.8), credits (R295), the
transmit queue by deficit round robin (R296), and the replay buffer (R292). -/

namespace Sys2Proof.Machine

/-! ### Packet types (Table 13.9) -/

abbrev tyRead : BitVec 8 := 0x01
abbrev tyWrite : BitVec 8 := 0x02
abbrev tyAtomic : BitVec 8 := 0x03
abbrev tyGather : BitVec 8 := 0x04
abbrev tyReadResp : BitVec 8 := 0x10
abbrev tyAck : BitVec 8 := 0x11
abbrev tyGatherResp : BitVec 8 := 0x12
abbrev tyColl : BitVec 8 := 0x20
abbrev tySys : BitVec 8 := 0x30

/-- An empty packet of a type. -/
def mkPacket (typ : BitVec 8) (vc : BitVec 4) (src dst : BitVec 14) : Packet :=
  { typ := typ, vc := vc, len := 0, tag := 0, poison := 0, spart := 0, status := 0, src := src, dst := dst, stage := 0, op := 0
    addr := 0, aux := 0, data := [] }
/-- Machine address (Table 13.3). -/
def machineAddr (space chip off : Nat) : Word := BitVec.ofNat 64 (space * 2 ^ 60 + (chip % 2 ^ 14) * 2 ^ 42 + off % 2 ^ 42)

/-- A header as its 256 bits (Table 13.8). -/
def pktBits (k : Packet) : BitVec 256 :=
  k.aux ++ k.addr ++ k.op ++ k.stage ++ (0 : BitVec 7) ++ k.dst ++ (0 : BitVec 2) ++ k.src ++ k.status ++ (0 : BitVec 6) ++ k.spart ++ k.poison
    ++ k.tag ++ (0 : BitVec 1) ++ k.len ++ (0 : BitVec 2) ++ k.vc ++ k.typ
/-- A system message (R294): its words are not laid out in the spec, nor the granules that they take. (log 18, DESIGN CHOICE) -/
def sysPacket (src dst : BitVec 14) (vc : BitVec 4) (ws : List Word) : Packet :=
  let gs := (List.range ((ws.length + 3) / 4)).map (Config.sysGranule vc ws)
  { mkPacket tySys vc src dst with len := BitVec.ofNat 5 gs.length, data := gs }

/-! ### Credits and flits -/

/-- Tier of a port: 0 board, 1 group, 2 machine (Table 13.1). -/
def tierOf (n : Nat) : Nat := if n < 7 then 0 else if n < 23 then 1 else 2

/-- 16-byte slots of a packet (R290). -/
def pktSlots (k : Packet) : Nat := 2 * (1 + k.data.length)
/-- Key of the dedicated pool of a packet's channel and class; its STAGE is that of the hop it is about to make plus 1 (R298). -/
def pktPool (k : Packet) : Nat := 2 * k.vc.toNat + (if 4 ≤ k.stage.toNat then 1 else 0)
/-- Takes a packet's credits from its dedicated pool, or from the shared one. -/
def Port.takeCredit (p : Port) (k : Packet) : Option Port :=
  let d := mget 0 p.credDed (pktPool k)
  if pktSlots k ≤ d then some { p with credDed := mset 0 p.credDed (pktPool k) (d - pktSlots k) }
  else if pktSlots k ≤ p.credShared then some { p with credShared := p.credShared - pktSlots k }
  else none
/-- Partition that a packet counts for: 64 for the system transfer engines (R296). -/
def pktPart (k : Packet) : Nat := if k.vc = 13 ∨ k.vc = 14 then 64 else k.spart.toNat
/-- Packets that could go next: the oldest of each partition, channel and class, where its credits are there. -/
def Port.ready (p : Port) : List Packet :=
  ((p.txq.foldl (fun (acc : List Packet) k =>
      if acc.any fun x => decide (pktPool x = pktPool k) && decide (pktPart x = pktPart k) then acc else acc ++ [k]) []).filter
    fun k => (p.takeCredit k).isSome)
/-- The least value above a place, cyclically. -/
def cyclicNext (at_ : Nat) (xs : List Nat) : Option Nat :=
  let low : List Nat → Option Nat := fun ys => ys.foldl (fun o x => match o with | none => some x | some y => some (if x < y then x else y)) none
  match low (xs.filter fun x => decide (at_ < x)) with
  | some x => some x
  | none => low xs
/-- The packet of a partition whose channel follows the last one served (R296). -/
def Port.turnOf (p : Port) (ks : List Packet) (q : Nat) : Option Packet :=
  let own := ks.filter fun k => decide (pktPart k = q)
  match cyclicNext (mget 16 p.drrVc q) (own.map fun k => k.vc.toNat) with
  | none => none
  | some v => own.find? fun k => decide (k.vc.toNat = v)
/-- A packet leaves the queue with its credits. -/
def Port.take (p : Port) (k : Packet) : Option (Packet × Port) :=
  match p.takeCredit k with
  | none => none
  | some q => some (k, { q with txq := q.txq.erase k })
/-- A packet leaves at the cost of its partition's deficit, which ends with the partition's last packet. -/
def Port.charge (p : Port) (q left : Nat) (k : Packet) : Option (Packet × Port) :=
  match p.take k with
  | none => none
  | some (k, r) =>
    let more := r.txq.any fun x => decide (pktPart x = q) && decide (x.vc ≠ 15) && decide (x.vc ≠ 12)
    some (k, { r with
      drrAt := q, drrVc := mset 16 r.drrVc q k.vc.toNat, drrLeft := mset 0 r.drrLeft q (if more then left - pktSlots k else 0) })
/-- The next packet to send: channel 15, then 12, then the partitions by deficit round robin (R296): a visit adds the weight times
34 slots, which is the largest packet. (log 72, DESIGN CHOICE) -/
def Port.next (w : Nat → Nat) (p : Port) : Option (Packet × Port) :=
  let ks := p.ready
  match ks.find? (fun k => decide (k.vc = 15)), ks.find? (fun k => decide (k.vc = 12)) with
  | some k, _ => p.take k
  | none, some k => p.take k
  | none, none =>
    let visit : Option (Packet × Port) := match cyclicNext p.drrAt (ks.map pktPart) with
      | none => none
      | some q => match p.turnOf ks q with
        | none => none
        | some k => p.charge q (mget 0 p.drrLeft q + 34 * w q) k
    match p.turnOf ks p.drrAt with
    | some k => if pktSlots k ≤ mget 0 p.drrLeft p.drrAt then p.charge p.drrAt (mget 0 p.drrLeft p.drrAt) k else visit
    | none => visit
/-- Sends packets while credits and the replay buffer allow (R292); the flit that ends a packet carries it. -/
def pumpFuel (w : Nat → Nat) : Nat → Nat → Port → Port
  | 0, _, p => p
  | n + 1, used, p =>
    match p.next w with
    | none => p
    | some (k, q) =>
      let first := used / 15
      let last := (used + pktSlots k - 1) / 15
      -- flits that this packet opens
      let opened := if used % 15 = 0 then last + 1 - first else last - first
      if 1024 < p.replay.length + opened then p else
      let fresh : List Flit := (List.range opened).map fun i => { seq := q.txSeq + BitVec.ofNat 12 i, pkts := [], slots := 0 }
      let rep := q.replay ++ fresh
      let rep1 := match rep.getLast? with
        | some f => rep.dropLast ++ [{ f with pkts := f.pkts ++ [k] }]
        | none => rep
      pumpFuel w n (used + pktSlots k) { q with replay := rep1, txSeq := q.txSeq + BitVec.ofNat 12 opened }
/-- Key of `Port.owed` for shared slots of a channel. -/
def owedShared (v : Nat) : Nat := 32 + v
/-- Credits that may return: those of a channel that a full collective store holds back stay (R325). -/
def Port.returns (p : Port) (key : Nat) : Bool :=
  let v := if 32 ≤ key then key - 32 else key / 2
  !p.stops.any fun x => decide (x.2.2 = v)
/-- The header of a flit that leaves: the last flit received in order, and credits of one channel and class with shared ones
(Table 13.5, R295). (log 72, DESIGN CHOICE) -/
def Port.header (p : Port) (kind : BitVec 4) (seq : BitVec 12) (nak : Bool) : FlitHdr × Port :=
  let ded := p.owed.find? fun kv => decide (kv.1 < 32) && p.returns kv.1
  let shr := p.owed.find? fun kv => decide (32 ≤ kv.1) && p.returns kv.1
  let cut : Nat → Option (Nat × Nat) → Nat := fun cap o => match o with | some kv => if kv.2 < cap then kv.2 else cap | none => 0
  let nd := cut 511 ded
  let ns := cut 1023 shr
  let key := match ded with | some kv => kv.1 | none => 0
  let pay : Map Nat → Option (Nat × Nat) → Nat → Map Nat := fun m o n => match o with | some kv => mset 0 m kv.1 (kv.2 - n) | none => m
  ({ kind := kind, seq := seq, ack := p.rxSeq - 1, nak := nak, cvc := BitVec.ofNat 4 (key / 2), ccls := decide (key % 2 = 1)
     cded := BitVec.ofNat 9 nd, cshr := BitVec.ofNat 10 ns }, { p with
     owed := pay (pay p.owed ded nd) shr ns, peerShared := p.peerShared + ns
     peerDed := match ded with | some kv => mset 0 p.peerDed kv.1 (mget 0 p.peerDed kv.1 + nd) | none => p.peerDed })
/-- The header as its 64 bits (Table 13.5). -/
def FlitHdr.bits (h : FlitHdr) : BitVec 64 :=
  h.cvc ++ BitVec.ofBool h.ccls ++ h.cded ++ h.cshr ++ (0 : BitVec 8) ++ (0 : BitVec 3) ++ BitVec.ofBool h.nak ++ h.ack ++ h.kind ++ h.seq
/-- The flit that a header and slots make, with its CRC-32C (R288, R292). -/
def mkFlit (h : FlitHdr) (slots : BitVec 1920) : RawFlit :=
  { head := h.bits, slots := slots, crc := crc32c (leBytes 8 h.bits.toNat ++ leBytes 240 slots.toNat), fixed := 0 }
/-- A flit of a kind leaves. -/
def Port.sendFlit (p : Port) (kind : BitVec 4) (seq : BitVec 12) (nak : Bool) (slots : BitVec 1920) : Port :=
  let r := p.header kind seq nak
  { r.2 with sent := r.2.sent ++ [{ hdr := r.1, raw := mkFlit r.1 slots }] }
/-- Granules one after the other as a number, the first lowest. -/
def granNat (gs : List (BitVec 256)) : Nat := gs.foldr (fun g n => g.toNat + 2 ^ 256 * n) 0
/-- The slots of new flits hold their packets one after the other (R290); what is left over is zero. (log 72, DESIGN CHOICE) -/
def fillSlots (fs : List Flit) : List Flit :=
  let all := granNat (fs.flatMap fun f => f.pkts.flatMap fun k => pktBits k :: k.data)
  (List.range fs.length).map fun i => { nth { seq := 0, pkts := [], slots := 0 } fs i with slots := BitVec.ofNat 1920 (all >>> (1920 * i)) }
/-- Idle flits until every credit that may return has (R288). -/
def idleFuel : Nat → Bool → Port → Port
  | 0, _, p => p
  | n + 1, nak, p =>
    let q := p.sendFlit 0 0 nak 0
    if q.owed.any fun kv => q.returns kv.1 then idleFuel n nak q else q
/-- Flits that leave now: data flits by their sequence numbers, then idle flits while there is nothing else to send. -/
def Port.emit (p : Port) (nak : Bool) (seqs : List (BitVec 12)) : Port :=
  let q := seqs.foldl (fun (q : Port) i =>
    q.sendFlit 1 i nak (match p.replay.find? fun f => decide (f.seq = i) with | some f => f.slots | none => 0)) { p with sent := [] }
  idleFuel (q.owed.length + 16) nak q
/-- Sends what can go; `again` are flits of the replay buffer that go once more. -/
def Port.pump (w : Nat → Nat) (nak : Bool) (again : List (BitVec 12)) (p : Port) : Port :=
  let q0 := pumpFuel w p.txq.length 0 p
  let q := { q0 with replay := q0.replay.take p.replay.length ++ fillSlots (q0.replay.drop p.replay.length) }
  q.emit nak (again ++ (q.replay.drop p.replay.length).map (·.seq))
/-- Weight of a partition on a link (R296): its share, and 32 for the system transfer engines (R334); traffic of a partition that
this device does not define counts as 1. (log 72, DESIGN CHOICE) -/
def State.weight (s : State) (q : Nat) : Nat :=
  if q = 64 then 32 else if (s.pt q).share = 0 then 1 else (s.pt q).share.toNat
/-- The port sends what it can. -/
def State.pumpPort (s : State) (n : Nat) (nak : Bool) (again : List (BitVec 12)) : State := s.modPo n (Port.pump s.weight nak again)

end Sys2Proof.Machine
end

