-- ==== Sys2Proof/Machine/Vault.lean ====
section
/-! DEFINITION. What a vault controller does on a read beyond the decode: failed slices (R213), row repair and retirement (R220 to
R223). -/

namespace Sys2Proof.Machine

/-! ### Repair state -/

/-- Entries that the field section needs (R225). -/
def Repair.entries (r : Repair) : Nat := r.remaps.length + r.badSpares.length + r.retired.length + r.failed.length
/-- The current field state changed: a rewrite becomes due; more than 8,192 entries set FIELD_FULL (R225). -/
def State.fieldTouch (s : State) : State :=
  (s.setCfg { s.cfg with dirty := true }).setMem { s.mem with fieldFull := s.mem.fieldFull || decide (8192 < s.mem.field.entries) }

/-- A slice with reconstructions in four distinct rows within 24 hours fails (R213). -/
def State.sliceCheck (s : State) (v d : Nat) : State :=
  let rows := (s.mem.sliceRows.filter fun x => decide (x.1 = v) && decide (x.2.1 = d) &&
    decide ((s.tick - x.2.2.2.2).toNat < dayTicks)).map fun x => (x.2.2.1, x.2.2.2.1)
  if 4 ≤ rows.eraseDups.length && !s.mem.failedSlice v d then
    (s.setMem { s.mem with field := { s.mem.field with failed := s.mem.field.failed ++ [(v, d)] } }).fieldTouch.note
      .repair 0xFF 0 [BitVec.ofNat 64 v, BitVec.ofNat 64 d]
  else s

/-! ### Row repair (R221 to R223) -/

/-- Adds a block to the retired-page list once; Nightwatch takes its page from the free lists. A full list only reports it. -/
def State.retire (s : State) (v bank row cause : Nat) : State :=
  let blk := blockOf v bank row
  if s.mem.field.retired.any fun x => decide (x.1 = blk / 4096) then s else
  let drop : Part → Part := fun P => { P with kvFree := P.kvFree.filter fun pg => decide (P.dev (pg * 65536) ≠ some (blk / 65536 * 65536)) }
  let s1 : State :=
    if 4096 ≤ s.mem.field.retired.length then s.setMem { s.mem with retireFull := true }
    else ((s.setMem { s.mem with field := { s.mem.field with
            retired := s.mem.field.retired ++ [(blk / 4096, cause)] } }).fieldTouch).setParts (s.parts.map fun kv => (kv.1, drop kv.2))
  s1.note .repair (s1.ownerOfDev blk) 0 [BitVec.ofNat 64 blk, BitVec.ofNat 64 (groupOf blk)]

/-- The remap entry of a row: one that names it goes. -/
def State.setRemap (s : State) (x : Remap) : State :=
  (s.setMem { s.mem with field := { s.mem.field with remaps := (s.mem.field.remaps.filter fun (r : Remap) =>
      !(decide (r.vault = x.vault) && decide (r.die = x.die) && decide (r.bank = x.bank) && decide (r.row = x.row))) ++ [x] } }).fieldTouch
/-- A decode with the check of the slices that it reconstructed on (R211, R213). -/
def State.decodeCheck (s : State) (b : Nat) (cov : Nat → Bool) : State × List RowId :=
  let r := s.decodeBurst b cov
  (if r.1.mem.sliceRows = s.mem.sliceRows then r.1
   else (List.range 8).foldl (fun s d => s.sliceCheck (vaultOf (b * 256)) d) r.1, r.2)
/-- Copies a row through the decode and switches its remap entry (R221); the rows that the copy has found bad (R220).
(log 60, DEDUCED) -/
def State.remapRow (s : State) (v d bank row spare fails : Nat) : State × List RowId :=
  let base := blockOf v bank row / 256
  let old := s.mem.physRow v d bank row
  let r := (List.range 16).foldl (fun (acc : State × List RowId) col =>
    let y := acc.1.decodeCheck (base + col) fun k => decide (k = d)
    (y.1, (acc.2 ++ y.2).eraseDups)) (s, [])
  let s1 := r.1.setRemap { vault := v, die := d, bank := bank, row := row, spare := spare, fails := fails }
  (s1.setMem { s1.mem with remapCount := satAdd s1.mem.remapCount 1 },
   r.2.filter fun x => !(decide (x.die = d) && decide (x.bank = bank) && decide (x.prow = old)))

/-- What the controller does when a row triggers repair (R222); the rows that trigger meanwhile. A spare is marked and counted
once. (log 60, DEDUCED) -/
def State.repairRow (s : State) (r : RowId) : State × List RowId :=
  if s.mem.failedSlice r.vault r.die then (s, []) else
  let si := if 4096 ≤ r.prow then s.mem.standIn r.vault r.die r.bank (r.prow - 4096) else none
  let marked := decide (4096 ≤ r.prow)
  let again := marked && s.mem.spareBad r.vault r.die r.bank (r.prow - 4096)
  let s1 : State := if marked && !again then
      (s.setMem { s.mem with
          field := { s.mem.field with badSpares := s.mem.field.badSpares ++ [(r.vault, r.die, r.bank, r.prow - 4096)] }
          badCount := satAdd s.mem.badCount 1 }).fieldTouch
    else s
  let o := match si with | some x => x.row | none => r.prow
  let fails := match si with
    | some x => if x.fails = 0 then 1 else 2
    | none => match s.mem.remapOf r.vault r.die r.bank o with
      | some x => x.fails
      | none => 0
  let kept : State := match si with | some x => if x.fails = fails then s1 else s1.setRemap { x with fails := fails } | none => s1
  if marked && si.isNone then (s1, [])
  else if 2 ≤ fails then (kept.retire r.vault r.bank o 0, [])
  else match s1.mem.freeSpare r.vault r.die r.bank with
    | none => (kept.retire r.vault r.bank o 1, [])
    | some sp =>
      let y := s1.remapRow r.vault r.die r.bank o sp fails
      (y.1.note .repair (s1.ownerOfDev (blockOf r.vault r.bank o)) 0 [BitVec.ofNat 64 (blockOf r.vault r.bank o), BitVec.ofNat 64 sp], y.2)
/-- Repairs rows in turn, those found meanwhile after them: each further one has used up a flaw. -/
def repairFuel : Nat → List RowId → State → State
  | 0, _, s => s
  | _, [], s => s
  | n + 1, r :: rs, s =>
    let y := s.repairRow r
    repairFuel n (rs ++ y.2.filter fun x => !rs.contains x) y.1

/-- A read of the covered die-sectors of one burst with all that follows from it. -/
def State.readBurst (s : State) (b : Nat) (cov : Nat → Bool) : State :=
  let r := s.decodeCheck b cov
  repairFuel (r.2.length + s.mem.flaw.length) r.2.eraseDups r.1

/-- A read of n bytes from a device address by whole bursts or by die-sectors (R196): only bursts with a flaw can change
anything. -/
def State.vaultRead (s : State) (a n : Nat) : State :=
  if n = 0 then s else
  let lo := a / 256
  let hi := (a + n - 1) / 256
  let bs := ((s.mem.flaw.map fun kv => kv.1 / 8).eraseDups).filter fun b => decide (lo ≤ b) && decide (b ≤ hi)
  bs.foldl (fun s b => s.readBurst b fun d => decide (a < 256 * b + 32 * d + 32) && decide (256 * b + 32 * d < a + n)) s

/-- The repairs that the decodes of narrow writes of Nightwatch have left due (R14, R220). (log 67, DEDUCED) -/
def State.settle (s : State) : State :=
  if s.mem.due = [] then s else
  let rows := s.mem.due.eraseDups
  let s1 := rows.foldl (fun (s : State) r => s.sliceCheck r.vault r.die) (s.setMem { s.mem with due := [] })
  repairFuel (rows.length + s.mem.flaw.length) rows s1

/-- A write of bytes to a device address: a narrow write first reads and decodes its burst (R197). -/
def State.vaultWrite (s : State) (a : Nat) (bs : List Byte) : State :=
  let n := bs.length
  let head := decide (a % 256 ≠ 0)
  let tail := decide ((a + n) % 256 ≠ 0)
  let s1 := if head then s.vaultRead (a / 256 * 256) 256 else s
  let s2 := if tail then s1.vaultRead ((a + n) / 256 * 256) 256 else s1
  s2.devWr a bs

/-! ### Scratchpad reads (R124) -/

/-- Reports each of these words of a scratchpad once, as a deferred error (R124). -/
def State.deferred (s : State) (c : Nat) (ks : List Nat) : State :=
  ks.foldl (fun s k => s.errNote (s.mkErr stErrDeferredMem 1 (s.partOf c) 2 c (8 * k) 1 3)) s
/-- A read of scratchpad words: single errors are corrected and counted; uncorrectable words are poisoned, counted and
reported once. -/
def State.spadTouch (s : State) (c a n : Nat) : State :=
  if n = 0 then s else
  let x := s.cl c
  let hit : Nat → Bool := fun k => decide (a / 8 ≤ k) && decide (k ≤ (a + n - 1) / 8)
  let sg := (x.spadFlaw.filter fun kv => hit kv.1 && decide (kv.2 = .single)).map (·.1)
  let db := (x.spadFlaw.filter fun kv => hit kv.1 && decide (kv.2 = .double)).map (·.1)
  if sg = [] ∧ db = [] then s else
  (s.setCl c { x with
      spadFlaw := x.spadFlaw.filter fun kv => !hit kv.1
      spadPoison := db.foldl (fun m k => mset false m k true) x.spadPoison
      corrected := satAdd x.corrected sg.length
      uncorrected := satAdd x.uncorrected db.length }).deferred c db |>.fixNote 2 c sg.length (8 * sg.foldl (fun _ k => k) 0)

/-- The instructions that run remember the bytes: the oldest of each other unit, and on every unit those behind the oldest that
have begun (R40, R95). (log 37, DEDUCED) -/
def Cluster.taintHeads (x : Cluster) (u a n : Nat) : Cluster :=
  let mark : Job → Job := fun j => { j with taint := j.taint ++ [(a, n)] }
  { x with units := x.units.map fun kv => (kv.1, match kv.2 with
        | j :: js => (if kv.1 = u then j else mark j) :: js.map fun y => if y.started then mark y else y
        | [] => []) }
/-- A write to scratchpad by unit u (7: none): the merge of a partial word reads it first (R110, R124). -/
def State.spadWrite (s : State) (c u a : Nat) (bs : List Byte) : State :=
  let n := bs.length
  let s1 := if a % 8 ≠ 0 then s.spadTouch c (a / 8 * 8) 8 else s
  let s2 := if (a + n) % 8 ≠ 0 then s1.spadTouch c ((a + n) / 8 * 8) 8 else s1
  s2.modCl c fun x => (x.spadWr a bs).taintHeads u a n

/-! ### Partition memory by runs of device addresses -/

/-- The device runs that n bytes from a partition address map to, in order (R335). -/
def Part.runs (P : Part) (pa n : Nat) : List (Nat × Nat) :=
  if n = 0 then [] else
  (List.range ((pa + n - 1) / 2 ^ 30 + 1 - pa / 2 ^ 30)).filterMap fun i =>
    let x := pa / 2 ^ 30 + i
    let lo := if i = 0 then pa else x * 2 ^ 30
    let hi := if (x + 1) * 2 ^ 30 < pa + n then (x + 1) * 2 ^ 30 else pa + n
    (P.dev lo).map fun d => (d, hi - lo)
/-- Every group that the bytes reach accepts requests. -/
def State.partOn (s : State) (p pa n : Nat) : Bool := ((s.pt p).runs pa n).all fun r => s.devOn r.1 r.2
/-- Bytes of partition memory. -/
def State.partRd (s : State) (p pa n : Nat) : List Byte := ((s.pt p).runs pa n).flatMap fun r => s.devRd r.1 r.2
/-- The reads' effect on the cells. -/
def State.partTouch (s : State) (p pa n : Nat) : State := ((s.pt p).runs pa n).foldl (fun s r => s.vaultRead r.1 r.2) s
/-- Partition addresses of the poisoned die-sectors among the bytes, rising. -/
def State.partPoison (s : State) (p pa n : Nat) : List Nat :=
  (sectorsOf pa n).filter (fun k => match (s.pt p).dev (k * 32) with
    | some d => mget false s.mem.poison (d / 32)
    | none => false) |>.map (· * 32)
/-- Writes bytes to partition memory. -/
def State.partWr (s : State) (p pa : Nat) (bs : List Byte) : State :=
  (((s.pt p).runs pa bs.length).foldl (fun (acc : State × List Byte) r => (acc.1.vaultWrite r.1 (acc.2.take r.2), acc.2.drop r.2))
    (s, bs)).1
/-- Poisons the die-sectors of partition addresses. -/
def State.partPoisonSet (s : State) (p : Nat) (pas : List Nat) : State :=
  s.devPoisonSet (pas.filterMap fun pa => ((s.pt p).dev pa).map (· / 32))

/-- A CLASS 1 record of poison that was consumed (R464). (log 67, DEDUCED) -/
def State.poisonRec (s : State) (part : BitVec 8) (unit index addr count : Nat) (akind : BitVec 8) : State :=
  s.errNote (s.mkErr stPoisonConsumed 1 part unit index addr count akind)

end Sys2Proof.Machine
end

