-- ==== Sys2Proof/Machine/Contain.lean ====
section
/-! DEFINITION. Containment of a partition (R465, R466, R468), fatal errors (R469, R470) and Nightwatch's reads of structures
in partition memory (R459). -/

namespace Sys2Proof.Machine

/-- Identity of a task's TASK entry. -/
def Task.entry (t : Task) : EntryId :=
  { part := t.id.part, ring := ⟨t.ring % 4, Nat.mod_lt _ (by decide)⟩, seq := t.seq }
/-- Entries whose completion belongs to a live task: its TASK entry and its current STEP. -/
def State.taskEntry (s : State) (e : EntryId) : Bool :=
  s.tasks.any fun t => decide (t.entry = e) || (match t.step with | some x => decide (x.1 = e) | none => false)

/-- The partition's fetched entries complete with PART_CONTAINED, in order of ring and sequence number; the work that they
asked for is dropped, and the record of a plan in progress, the plan's last, ends with that status (R465, R468). (log 67, DEDUCED) -/
def State.containEntries (s : State) (p : Fin 64) : State :=
  let es : List EntryId := (List.range 4).flatMap fun r => ((s.pt p.val).ring r).entries.filterMap fun x =>
    let e : EntryId := { part := p, ring := ⟨r % 4, Nat.mod_lt _ (by decide)⟩, seq := x.seq }
    if x.st = .done || s.taskEntry e then none else some e
  let s1 := es.foldl (fun s e => s.completeSt e stPartContained) s
  let s2 := s1.modPt p.val fun P => { P with
    reshPlan := P.reshPlan.map fun q => { q with count := q.next + 1, status := stPartContained }
    kvSeqs := P.kvSeqs.map fun q => { q with endReq := none } }
  s2.setTasks (s2.tasks.map fun t => if t.id.part = p then { t with steps := [] } else t)

/-- Takes a cluster out of allocation (R466). -/
def State.dropCluster (s : State) (c : Nat) : State :=
  s.setGlb { s.glb with
      badClusters := if s.glb.badClusters.contains c then s.glb.badClusters else s.glb.badClusters ++ [c]
      degraded := true }
/-- A cluster's units abandon their queues; held and filling banks are freed (R465, R50). -/
def State.abandon (s : State) (c : Nat) : State :=
  s.modCl c fun x => { x with units := [], cores := [] }

/-- Contains a partition (R465). The collectives of the partition abort under R326 with PART_CONTAINED: their engines drop what
they hold. (log 67, DEDUCED) -/
def State.containPart (s : State) (p : Fin 64) (r : ErrRec) (owner : Option TaskId) (st : BitVec 16) : State :=
  let bs := BitVec.ofNat 256 (leNat (r.bytes false))
  let s0 := s.modPt p.val fun P => { P with contained := true, errRecord := bs }
  let s1 := s0.tasks.foldl (fun s t => if t.id.part = p then
    s.taskStop t.id (if owner = some t.id then st else stPartContained) else s) s0
  (s1.containEntries p).event p.val stPartContained 0xFF 0

/-- A CLASS 2 error of partition `p` (`none`: unowned) in cluster `c` (R459, R465, R466, R468). (log 55, DEDUCED; log 67, DEDUCED) -/
def State.class2 (s : State) (r : ErrRec) (p : Option (Fin 64)) (c : Option Nat) (owner : Option TaskId) : State :=
  let s0 := s.errNote r
  let s1 := match c with | some c => (s0.dropCluster c).abandon c | none => s0
  match p with
  | none => s1
  | some p =>
    if (s1.pt p.val).contained then s1.modPt p.val fun P => { P with more := satAdd P.more 1 }
    else s1.containPart p r owner r.status

/-- A CLASS 3 error (R469): sequencers stop, queues are abandoned, the record is kept and logged, an AER message and failure
notices go out, and nothing further is written to host memory. -/
def State.fatal (s : State) (r : ErrRec) : State :=
  if s.glb.fatalSet then s else
  let s1 : State := s.setClusters (s.clusters.map fun kv => (kv.1, { kv.2 with
      units := [], cores := [], seq := { kv.2.seq with run := .idle } }))
  let s2 := if s1.workingCores.isEmpty then s1 else s1.errWrite r false
  (((s2.setGlb { s2.glb with fatal := BitVec.ofNat 256 (leNat (r.bytes false)), fatalSet := true }).setHif { s2.hif with aer := s2.hif.aer ++ [r.status] }).setLnk { s2.lnk with ports := s2.lnk.ports.map fun kv => (kv.1, if kv.2.st = .active then
      Port.pump s2.weight false [] { kv.2 with txq := [sysPacket s2.lnk.chip kv.2.foundChip 15 [s2.lnk.chip.setWidth 64]] } else kv.2) })

/-- Nightwatch reads a structure of partition p: an unmapped byte or a group that is not ACTIVE gives a status; poison is a
CLASS 2 error of the partition. (log 67, DEDUCED) -/
def State.structRd (s : State) (p : Fin 64) (pa n : Nat) : Except (BitVec 16) (List Byte) × State :=
  if !(s.pt p.val).mappedRange pa n then (.error stAddrRange, s)
  else if !s.partOn p.val pa n then (.error stGroupOff, s)
  else
    let s1 := s.partTouch p.val pa n
    match s1.partPoison p.val pa n with
    | [] => (.ok (s1.partRd p.val pa n), s1)
    | a :: rest =>
      let dev := match (s1.pt p.val).dev a with | some d => d | none => 0
      (.error stErrPartStruct, s1.class2 (s1.mkErr stErrPartStruct 2 (BitVec.ofNat 8 p.val) 3 (vaultOf dev) dev
        (rest.length + 1) 1) (some p) none none)
/-- A write that a group turned away is discarded and logged at severity 3 (R410). -/
def State.groupOffLog (s : State) (dev : Nat) (part : BitVec 8) (src : BitVec 14) : State :=
  s.noteSev .groupOff 3 part stGroupOff [BitVec.ofNat 64 dev, part.setWidth 64, src.setWidth 64]
/-- Nightwatch writes a structure of partition p; a write that meets a closed group is discarded and logged. (log 67, DEDUCED) -/
def State.structWr (s : State) (p : Fin 64) (pa : Nat) (bs : List Byte) : State :=
  if !(s.pt p.val).mappedRange pa bs.length then s
  else if !s.partOn p.val pa bs.length then
    s.groupOffLog (match (s.pt p.val).dev pa with | some d => d | none => 0) (BitVec.ofNat 8 p.val) s.lnk.chip
  else s.partWr p.val pa bs

end Sys2Proof.Machine
end

