-- ==== Sys2Proof/WellFormed.lean ====
section
/-! DEFINITION. Well-formed commands: an instruction row's word carries the CLASS and OP of its row (Tables 7.3, 8.3 to 8.19). -/

namespace Sys2Proof

/-- CLASS and OP of a word, bits [63:52] (R131). -/
def classOp (w : Word) : Nat := w.toNat >>> 52

/-- CLASS x 64 + OP of the rows that are instructions; `none` for the others. -/
def Instr.code : Instr → Option (Nat × Word)
  | .add _ w => some (0x000, w) | .sub _ w => some (0x001, w) | .and _ w => some (0x002, w) | .or _ w => some (0x003, w)
  | .xor _ w => some (0x004, w) | .shl _ w => some (0x005, w) | .shr _ w => some (0x006, w) | .sar _ w => some (0x007, w)
  | .cmp _ w => some (0x008, w) | .sel _ w => some (0x009, w) | .muls _ w => some (0x00A, w) | .movi _ w => some (0x00B, w)
  | .movhi _ w => some (0x00C, w) | .ld _ w => some (0x010, w) | .st _ w => some (0x011, w) | .mve _ w => some (0x012, w)
  | .rdst _ w => some (0x013, w) | .rdtick _ w => some (0x014, w) | .dld _ w => some (0x018, w) | .dldm _ w => some (0x019, w)
  | .dstr _ w => some (0x01A, w) | .dset _ w => some (0x01B, w) | .dadd _ w => some (0x01C, w) | .dget _ w => some (0x01D, w)
  | .br _ w => some (0x040, w) | .brp _ w => some (0x041, w) | .brn _ w => some (0x042, w) | .loop _ w => some (0x043, w)
  | .loopi _ w => some (0x044, w) | .waite _ w => some (0x045, w) | .endSeq _ w => some (0x046, w) | .nop _ w => some (0x047, w)
  | .fence _ w => some (0x080, w) | .bar _ w => some (0x081, w) | .phase _ w => some (0x082, w) | .waitt _ w => some (0x083, w)
  | .evset _ w => some (0x084, w) | .tmm _ w => some (0x100, w) | .tmmp _ w => some (0x101, w)
  | .vewAdd _ w => some (0x140, w) | .vewSub _ w => some (0x141, w) | .vewMax _ w => some (0x142, w) | .vewMin _ w => some (0x143, w)
  | .vewAbs _ w => some (0x144, w) | .vewNeg _ w => some (0x145, w) | .vewMul _ w => some (0x148, w) | .vewDiv _ w => some (0x149, w)
  | .vewMuladd _ w => some (0x14A, w) | .vewSqrt _ w => some (0x14B, w) | .vewRsqrt _ w => some (0x14C, w)
  | .vewExp2 _ w => some (0x14D, w) | .vewExp _ w => some (0x14E, w) | .vewLog2 _ w => some (0x14F, w) | .vewLog _ w => some (0x150, w)
  | .vewPow _ w => some (0x151, w) | .vewSigm _ w => some (0x152, w) | .vewSilu _ w => some (0x153, w)
  | .vredSum _ w => some (0x160, w) | .vredMax _ w => some (0x161, w) | .vredMin _ w => some (0x162, w)
  | .vargMax _ w => some (0x164, w) | .vargMin _ w => some (0x165, w) | .vcvt _ w => some (0x168, w)
  | .sfill _ w => some (0x180, w) | .scopy _ w => some (0x181, w) | .dmov _ w => some (0x1C0, w) | .gath _ w => some (0x1C1, w)
  | .atom _ w => some (0x1C2, w) | .kvapp _ w => some (0x200, w) | .attn _ w => some (0x201, w) | .kvstg _ w => some (0x202, w)
  | .cred _ w => some (0x240, w) | .cbrd _ w => some (0x241, w) | .cgat _ w => some (0x242, w)
  | .rngsClaim _ w => some (0x280, w) | .rngsRel _ w => some (0x281, w) | .prune _ w => some (0x2C0, w)
  | .winw _ w => some (0xFC0, w) | .tstart _ w => some (0xFC1, w) | .tpark _ w => some (0xFC2, w) | .tresume _ w => some (0xFC3, w)
  | .mrd _ w => some (0xFC4, w) | .mwr _ w => some (0xFC5, w)
  | _ => none

/-- A command is well formed when its word is of its row. -/
def Instr.wellFormed (i : Instr) : Bool :=
  match i.code with
  | some (k, w) => classOp w == k
  | none => true

end Sys2Proof
end

