-- ==== Sys2Proof/Machine/Operands.lean ====
section
/-! DEFINITION. Operand forms: the fields of the instruction word (Tables 7.3, 8.2 to 8.18), the register files of an agent
(Table 7.2), and the tensor descriptor (Tables 7.5, 7.6, 8.5). -/

namespace Sys2Proof.Machine

/-! ### Fields of the word -/

/-- Bits hi to lo of an instruction word. -/
def fld (w : Word) (hi lo : Nat) : Nat := bitsOf w.toNat hi lo
def wE (w : Word) : Bool := bitOf w.toNat 51
def wDst (w : Word) : Nat := fld w 50 46
def wA (w : Word) : Nat := fld w 45 41
def wB (w : Word) : Nat := fld w 40 36
def wImmf (w : Word) : Bool := bitOf w.toNat 35
/-- Sign-extends the low n bits. -/
def sextNat (v n : Nat) : Int := if v.testBit (n - 1) then (v % 2 ^ n : Int) - 2 ^ n else (v % 2 ^ n : Int)
/-- IMM sign-extended to 64 bits (R150). -/
def wImm (w : Word) : Word := BitVec.ofInt 64 (sextNat (fld w 31 0) 32)
/-- Unit EVENT of a tensor class: enable and counter (R138). -/
def wEvent (w : Word) : Option Nat := if bitOf w.toNat 35 then some (fld w 34 31) else none

/-- Bits hi to lo as a mask; the union of fields that a layout assigns. -/
def fmask (fs : List (Nat × Nat)) : Nat := fs.foldl (fun m f => m ||| ((2 ^ (f.1 + 1 - f.2) - 1) <<< f.2)) 0
/-- The word holds a nonzero bit outside CLASS, OP, E and the fields listed (R147). -/
def badBits (w : Word) (fs : List (Nat × Nat)) : Bool :=
  decide (w.toNat &&& ((2 ^ 64 - 1) ^^^ fmask ((63, 51) :: fs)) ≠ 0)
/-- Field positions of the register operands. -/
def fDst : Nat × Nat := (50, 46)
def fA : Nat × Nat := (45, 41)
def fB : Nat × Nat := (40, 36)

/-! ### Registers of an agent -/

def State.regS (s : State) (a : Agent) (i : Nat) : Word :=
  if i = 0 then 0 else match a with
    | .seq c => mget 0 (s.cl c.val).seq.s i
    | .core k => mget 0 (s.cc k.val).s i
/-- s0 ignores writes (Table 7.2). -/
def State.setS (s : State) (a : Agent) (i : Nat) (v : Word) : State :=
  if i = 0 then s else match a with
    | .seq c => s.modCl c.val fun x => { x with seq := { x.seq with s := mset 0 x.seq.s i v } }
    | .core k => s.modCc k.val fun x => { x with s := mset 0 x.s i v }
def State.regE (s : State) (a : Agent) (i : Nat) : BitVec 16 :=
  match a with
  | .seq c => mget 0 (s.cl c.val).seq.e i
  | .core k => mget 0 (s.cc k.val).e i
def State.setE (s : State) (a : Agent) (i : Nat) (v : BitVec 16) : State :=
  match a with
  | .seq c => s.modCl c.val fun x => { x with seq := { x.seq with e := mset 0 x.seq.e i v } }
  | .core k => s.modCc k.val fun x => { x with e := mset 0 x.e i v }
def State.regP (s : State) (a : Agent) (i : Nat) : Bool :=
  match a with
  | .seq c => mget false (s.cl c.val).seq.p i
  | .core k => mget false (s.cc k.val).p i
def State.setP (s : State) (a : Agent) (i : Nat) (v : Bool) : State :=
  match a with
  | .seq c => s.modCl c.val fun x => { x with seq := { x.seq with p := mset false x.seq.p i v } }
  | .core k => s.modCc k.val fun x => { x with p := mset false x.p i v }
/-- A control core has no descriptor file (R130). -/
def State.regD (s : State) (a : Agent) (i : Nat) : BitVec 256 :=
  match a with
  | .seq c => mget 0 (s.cl c.val).seq.d i
  | .core _ => 0
def State.setD (s : State) (a : Agent) (i : Nat) (v : BitVec 256) : State :=
  match a with
  | .seq c => s.modCl c.val fun x => { x with seq := { x.seq with d := mset 0 x.seq.d i v } }
  | .core _ => s
def State.pcOf (s : State) (a : Agent) : Nat :=
  match a with
  | .seq c => (s.cl c.val).seq.pc
  | .core k => (s.cc k.val).pc
def State.loopsOf (s : State) (a : Agent) : List LoopFrame :=
  match a with
  | .seq c => (s.cl c.val).seq.loops
  | .core k => (s.cc k.val).loops
def State.setPc (s : State) (a : Agent) (pc : Nat) (ls : List LoopFrame) : State :=
  match a with
  | .seq c => s.modCl c.val fun x => { x with seq := { x.seq with pc := pc, loops := ls } }
  | .core k => s.modCc k.val fun x => { x with pc := pc, loops := ls }
def State.statusOf (s : State) (a : Agent) : Word :=
  match a with
  | .seq c => (s.cl c.val).seq.status
  | .core k => (s.cc k.val).status
def State.setStatus (s : State) (a : Agent) (v : Word) : State :=
  match a with
  | .seq c => s.modCl c.val fun x => { x with seq := { x.seq with status := v } }
  | .core k => s.modCc k.val fun x => { x with status := v }
/-- An instruction of this agent faults. -/
def State.faultAt (s : State) (a : Agent) (w : Word) (st : BitVec 16) : State :=
  match a with
  | .seq c => s.seqFault c.val st (s.cl c.val).seq.pc w
  | .core k => s.coreFault k.val st
/-- An agent stalls at its instruction. -/
def State.stall (s : State) (a : Agent) (x : Stall) : State :=
  match a with
  | .seq c => s.modCl c.val fun y => { y with seq := { y.seq with run := .stalled x } }
  | .core k => s.modCc k.val fun y => { y with wait := some x }
def State.stallOf (s : State) (a : Agent) : Option Stall :=
  match a with
  | .seq c => match (s.cl c.val).seq.run with | .stalled x => some x | _ => none
  | .core k => (s.cc k.val).wait
def State.unstall (s : State) (a : Agent) : State :=
  match a with
  | .seq c => s.modCl c.val fun y => { y with seq := { y.seq with run := .running } }
  | .core k => s.modCc k.val fun y => { y with wait := none }

/-- Instruction index and loop stack after a straight-line instruction at pc: the last instruction of an active body
returns to its first while passes are left, and otherwise leaves the loop (R157). (log 68, DEDUCED) -/
def nextPc (pc : Nat) : List LoopFrame → Nat × List LoopFrame
  | [] => (pc + 1, [])
  | f :: fs =>
    if f.last = pc then
      if 0 < f.left then (f.first, { f with left := f.left - 1 } :: fs) else nextPc pc fs
    else (pc + 1, f :: fs)
/-- See log 40, DEDUCED. -/
def State.advance (s : State) (a : Agent) : State :=
  let n := nextPc (s.pcOf a) (s.loopsOf a)
  s.setPc a n.1 n.2

/-- The hold of a gear change (R447). (log 52, DEDUCED) -/
def Clk.holding (k : Clk) : Bool := k.changing && decide (k.holdAt ≤ k.since) && decide (k.since < k.holdEnd)
/-- Units start no new work while the droop response or the hold of a gear change suppresses issue (R420, R447). -/
def State.issueHeld (s : State) (c : Nat) : Bool := (s.cl c).droop || s.clk.holding

/-- Agent a is about to execute the word w: a sequencer takes it from its loaded program (R127, R128); a control core runs
the verified firmware (R190). (log 14, DESIGN CHOICE) -/
def State.ready (s : State) (a : Agent) (w : Word) : Bool :=
  s.live && match a with
  | .seq c =>
    let x := s.cl c.val
    decide (x.cstate = .run) && decide (x.seq.run = .running) && (s.taskOn c.val).isSome && !s.issueHeld c.val &&
      decide (x.seq.prog[x.seq.pc]? = some w)
  | .core k =>
    let x := s.cc k.val
    decide (s.pwr.boot = .ready) && !s.glb.badCores.contains k.val && !x.halted && x.wait.isNone

/-! ### Descriptors (Tables 7.5, 7.6) -/

/-- A tensor as its descriptor names it. -/
structure Ten where
  fmt   : Nat
  xc    : Bool
  prot  : Bool
  rank  : Nat
  space : Nat
  win   : Nat
  off   : Nat
  chip  : Nat
  ext   : List Nat
  str   : List Int
  strm  : Nat
  hint  : Bool
  batch : Nat
  rows  : Nat
  deriving DecidableEq, Repr

def dfld (d : BitVec 256) (hi lo : Nat) : Nat := bitsOf d.toNat hi lo
/-- Extent and stride of dimension i. -/
def dExt (d : BitVec 256) (i : Nat) : Nat := dfld d (96 + 40 * i + 15) (96 + 40 * i)
def dStr (d : BitVec 256) (i : Nat) : Int := sextNat (dfld d (96 + 40 * i + 39) (96 + 40 * i + 16)) 24
/-- See log 39, DEDUCED. -/
def decDesc (d : BitVec 256) : Ten :=
  let sp := dfld d 13 12
  let n := dfld d 11 10 + 1
  { fmt := dfld d 7 0, xc := d.getLsbD 8, prot := d.getLsbD 9, rank := n, space := sp, win := dfld d 15 14
    off := if sp = 0 then dfld d 39 16 else if sp = 1 then dfld d 57 16 else dfld d 49 16
    chip := if sp = 2 then dfld d 63 50 else 0
    ext := (List.range n).map (dExt d), str := (List.range n).map (dStr d)
    strm := if sp < 2 then dfld d 95 64 else 0
    hint := decide (sp = 0) && d.getLsbD 49, batch := dfld d 48 43, rows := dfld d 42 40 }

/-- Extent of dimension d, 1 above the rank. -/
def Ten.e (t : Ten) (d : Nat) : Nat := nth 1 t.ext d
def Ten.s (t : Ten) (d : Nat) : Int := nth 0 t.str d
/-- Elements of a tensor. -/
def Ten.count (t : Ten) : Nat := t.ext.foldl (· * ·) 1
def Ten.empty (t : Ten) : Bool := t.ext.any (· == 0)
/-- Coordinates of a linear index, dimension 0 fastest (R63). -/
def coords : List Nat → Nat → List Nat
  | [], _ => []
  | e :: es, i => (if e = 0 then 0 else i % e) :: coords es (if e = 0 then 0 else i / e)
/-- Linear index of coordinates. -/
def linIdx : List Nat → List Nat → Nat
  | e :: es, c :: cs => c + e * linIdx es cs
  | _, _ => 0
/-- Element offset of a linear index: OFFSET plus the strides (R133). -/
def Ten.elemAt (t : Ten) (i : Nat) : Int :=
  (List.zip (coords t.ext i) t.str).foldl (fun acc p => acc + (p.1 : Int) * p.2) (t.off : Int)
/-- Element offsets of all elements in linear order. -/
def Ten.elems (t : Ten) : List Int := (List.range t.count).map t.elemAt
/-- The same extents. -/
def Ten.sameShape (a b : Ten) : Bool := (List.range 4).all fun d => decide (a.e d = b.e d)
/-- Lowest and highest element offsets that the tensor addresses. -/
def Ten.lo (t : Ten) : Int := (List.zip t.ext t.str).foldl (fun acc p => if p.2 < 0 then acc + ((p.1 : Int) - 1) * p.2 else acc) (t.off : Int)
def Ten.hi (t : Ten) : Int := (List.zip t.ext t.str).foldl (fun acc p => if 0 < p.2 then acc + ((p.1 : Int) - 1) * p.2 else acc) (t.off : Int)

/-- Bit range of a descriptor field code for a SPACE; `none` where it does not exist (Table 8.5, R155). -/
def fieldBits (code space : Nat) : Option (Nat × Nat) :=
  if code = 0 then (if space = 0 then some (39, 16) else if space = 1 then some (57, 16) else if space = 2 then some (49, 16) else none)
  else if code ≤ 4 then some (96 + 40 * (code - 1) + 15, 96 + 40 * (code - 1))
  else if code ≤ 8 then some (96 + 40 * (code - 5) + 39, 96 + 40 * (code - 5) + 16)
  else if code = 9 then (if space < 2 then some (95, 64) else none)
  else if code = 10 then some (7, 0)
  else if code = 11 then some (8, 8)
  else if code = 12 then (if space = 2 then some (63, 50) else none)
  else if code = 13 then (if space = 0 ∨ space = 2 then some (15, 14) else none)
  else if code = 14 then some (13, 12)
  else if code = 15 then some (11, 10)
  else none
/-- Replaces bits hi to lo of a descriptor. -/
def dput (d : BitVec 256) (hi lo v : Nat) : BitVec 256 :=
  let mask : BitVec 256 := BitVec.ofNat 256 ((2 ^ (hi + 1 - lo) - 1) <<< lo)
  (d &&& ~~~mask) ||| (BitVec.ofNat 256 (v <<< lo) &&& mask)

end Sys2Proof.Machine
end

