-- ==== Sys2Proof/Machine/Flags.lean ====
section
/-! DEFINITION. Flag computations: instruction and task status (Table 7.8, R144), condition codes (Table 8.4), accumulator tags
(Table 3.1) are in `Machine/Matrix.lean` beside their arithmetic. -/

namespace Sys2Proof.Machine

/-- The flags and counts of an instruction status. -/
structure Stat where
  sat     : Bool := false
  aliased : Bool := false
  mix     : Bool := false
  esc     : Bool := false
  ovf     : Bool := false
  inv     : Bool := false
  flush   : Bool := false
  clip    : Bool := false
  satCnt  : Nat := 0
  clips   : Nat := 0
  repeats : Nat := 0
  deriving DecidableEq, Repr

/-- A count that stops at 0xFFFF. -/
def cap16 (n : Nat) : Nat := if 0xFFFF < n then 0xFFFF else n
/-- Layout of Table 7.8. -/
def Stat.word (f : Stat) : Word :=
  BitVec.ofNat 64 (bool2 f.sat * 2 ^ 63 + bool2 f.aliased * 2 ^ 62 + bool2 f.mix * 2 ^ 61 + bool2 f.esc * 2 ^ 60
    + bool2 f.ovf * 2 ^ 59 + bool2 f.inv * 2 ^ 58 + bool2 f.flush * 2 ^ 57 + bool2 f.clip * 2 ^ 56
    + cap16 f.satCnt * 2 ^ 32 + cap16 f.clips * 2 ^ 16 + cap16 f.repeats)
/-- Merges two statuses: flags by OR, counts by saturating addition (R144). -/
def statMerge (a b : Word) : Word :=
  let flags := (a ||| b) &&& 0xFF00000000000000
  let cnt : Nat → Nat := fun lo => cap16 (fld a (lo + 15) lo + fld b (lo + 15) lo) * 2 ^ lo
  flags ||| BitVec.ofNat 64 (cnt 32 + cnt 16 + cnt 0)
/-- Merges two collected statuses. -/
def Stat.or (a b : Stat) : Stat :=
  { sat := a.sat || b.sat, aliased := a.aliased || b.aliased, mix := a.mix || b.mix, esc := a.esc || b.esc, ovf := a.ovf || b.ovf
    inv := a.inv || b.inv, flush := a.flush || b.flush, clip := a.clip || b.clip, satCnt := a.satCnt + b.satCnt
    clips := a.clips + b.clips, repeats := a.repeats + b.repeats }

/-- Condition codes of Table 8.4; `none` for the reserved ones. (log 31, DEDUCED) -/
def condHolds (cond : Nat) (a b : Word) : Option Bool :=
  match cond with
  | 0 => some (decide (a = b))
  | 1 => some (decide (a ≠ b))
  | 2 => some (a.slt b)
  | 3 => some (!a.slt b)
  | 4 => some (a.ult b)
  | 5 => some (!a.ult b)
  | _ => none

end Sys2Proof.Machine
end

