-- ==== Sys2Proof/Machine/Issue.lean ====
section
/-! DEFINITION. How an instruction issues (R126, R132, R147, R491): the common wrapper of every instruction row. -/

namespace Sys2Proof.Machine

/-- CLASS x 64 + OP values that the instruction reference assigns (Tables 8.3 to 8.19). (log 68, DEDUCED) -/
def assigned (co : Nat) : Bool :=
  decide (co ≤ 0x00C) || (decide (0x010 ≤ co) && decide (co ≤ 0x014)) || (decide (0x018 ≤ co) && decide (co ≤ 0x01D))
  || (decide (0x040 ≤ co) && decide (co ≤ 0x047)) || (decide (0x080 ≤ co) && decide (co ≤ 0x084))
  || co == 0x100 || co == 0x101
  || (decide (0x140 ≤ co) && decide (co ≤ 0x145)) || (decide (0x148 ≤ co) && decide (co ≤ 0x153))
  || (decide (0x160 ≤ co) && decide (co ≤ 0x162)) || co == 0x164 || co == 0x165 || co == 0x168
  || co == 0x180 || co == 0x181 || (decide (0x1C0 ≤ co) && decide (co ≤ 0x1C2)) || (decide (0x200 ≤ co) && decide (co ≤ 0x202))
  || (decide (0x240 ≤ co) && decide (co ≤ 0x242)) || co == 0x280 || co == 0x281 || co == 0x2C0
  || (decide (0xFC0 ≤ co) && decide (co ≤ 0xFC5))

/-- A row executes on a ready agent whose next word carries the row's CLASS and OP. A word with an unassigned CLASS or OP
faults with ILLEGAL_INSTR whichever row presents it (R132); a word of another row does nothing here. (log 14, DESIGN CHOICE; log 68, DEDUCED) -/
def State.issue (s : State) (a : Agent) (code : Nat) (w : Word) (body : State → State) : State :=
  if s.ready a w then
    if classOp w = code then body s
    else if assigned (classOp w) then s
    else s.faultAt a w stIllegalInstr
  else s

/-- The first check that fails, in the order listed (R491). -/
def firstFault : List (Bool × BitVec 16) → Option (BitVec 16)
  | [] => none
  | (b, st) :: cs => if b then some st else firstFault cs

/-- Runs a body unless a check fails. -/
def State.guarded (s : State) (a : Agent) (w : Word) (cs : List (Bool × BitVec 16)) (body : State → State) : State :=
  match firstFault cs with
  | some st => s.faultAt a w st
  | none => body s

end Sys2Proof.Machine
end

