-- ==== Sys2Proof/Machine/Num.lean ====
section
/-! DEFINITION. Exact numbers and their rounding: shifts (R59, R60), floating-point values and results (R55, R100 to R103),
the stochastic generator (R61) and the log path (R98, R99). -/

namespace Sys2Proof.Machine

/-! ### Rounding of integers -/

/-- Rounding mode of one element: nearest-even (R59), or stochastic with its draw R (R60). -/
inductive Rnd where
  | near
  | stoch (r : Nat)
  deriving DecidableEq, Repr

/-- Narrows v by d bits; a shift of zero or to the left is exact (R59, R60). (log 24, DEDUCED) -/
def shrRnd (v : Int) (d : Int) (m : Rnd) : Int :=
  if d ≤ 0 then v * 2 ^ (-d).toNat else
  let n := d.toNat
  let fl := v / 2 ^ n
  let disc := (v - fl * 2 ^ n).toNat
  match m with
  | .near => if 2 ^ (n - 1) < disc ∨ (disc = 2 ^ (n - 1) ∧ fl % 2 = 1) then fl + 1 else fl
  | .stoch r =>
    let u := if n < 16 then disc * 2 ^ (16 - n) else disc / 2 ^ (n - 16)
    if 2 ^ 16 ≤ u + r then fl + 1 else fl

/-- Draw R of seed k, stream s and counter n (R61). -/
def rngStep (k : Word) (x : Word) (i : Nat) : Word :=
  let x1 := (x ^^^ k) + rotl64 k (16 * i + 1)
  let x2 := x1 ^^^ (x1 >>> 29)
  let x3 := x2 + (x2 <<< 11)
  x3 ^^^ (x3 >>> 31)
def rngDraw (k : Word) (s n : BitVec 32) : Nat :=
  let x0 : Word := (s.setWidth 64 <<< 32) ||| n.setWidth 64
  ((List.range 4).foldl (rngStep k) x0 >>> 48).toNat

/-- Stream identifier and counter of element I (R63, Table 3.5): the descriptor's stream field, the site and the pass. -/
def streamId (field : Nat) (site : Nat) (i : Nat) : BitVec 32 :=
  let tile := (i / 2 ^ 20) % 2 ^ 12
  if bitOf field 31 then BitVec.ofNat 32 (2 ^ 31 + bitsOf field 30 12 * 2 ^ 12 + tile)
  else BitVec.ofNat 32 (bitsOf field 14 0 * 2 ^ 16 + site * 2 ^ 12 + tile)
def streamCtr (pass i : Nat) : BitVec 32 := BitVec.ofNat 32 (pass * 2 ^ 20 + i % 2 ^ 20)

/-- What selects the rounding of the elements of one destination. -/
structure RndSel where
  stoch : Bool
  seed  : Word
  field : Nat
  site  : Nat
  pass  : Nat
  deriving DecidableEq, Repr
def RndSel.near : RndSel := { stoch := false, seed := 0, field := 0, site := 0, pass := 0 }
/-- See log 24, DEDUCED. -/
def RndSel.at (r : RndSel) (i : Nat) : Rnd :=
  if r.stoch then .stoch (rngDraw r.seed (streamId r.field r.site i) (streamCtr r.pass i)) else .near

/-! ### Floating-point values -/

/-- A value read from BF16 or FP32 (R101: a subnormal reads as zero of its sign, with `sub` set). A NaN keeps its FP32 bits. -/
inductive Fv where
  | zero (neg : Bool) (sub : Bool)
  | num (neg : Bool) (mag : Nat) (exp : Int)
  | inf (neg : Bool)
  | nan (bits : Nat)
  deriving DecidableEq, Repr

/-- Fraction bits of a format: 7 for BF16 (0x30), 23 for FP32. -/
def fracBits (fmt : Nat) : Nat := if fmt = 0x30 then 7 else 23
/-- Reads bits of a format with p fraction bits. -/
def fvRead (p : Nat) (b : Nat) : Fv :=
  let neg := bitOf b (p + 8)
  let e := bitsOf b (p + 7) p
  let f := b % 2 ^ p
  if e = 255 then (if f = 0 then .inf neg else .nan (if p = 7 then b * 2 ^ 16 else b))
  else if e = 0 then .zero neg (decide (f ≠ 0))
  else .num neg (2 ^ p + f) ((e : Int) - 127 - p)
def Fv.neg : Fv → Bool
  | .zero n _ => n | .num n _ _ => n | .inf n => n | .nan b => bitOf b 31
def Fv.isSub : Fv → Bool
  | .zero _ s => s
  | _ => false
/-- The exact signed value m x 2^e of a finite operand. -/
def Fv.dy : Fv → Int × Int
  | .num n m e => (if n then -(m : Int) else m, e)
  | _ => (0, 0)

/-- What an operation gives before it is written: an exact value, a magnitude already rounded, or a special case. -/
inductive Fr where
  /-- Exact m x 2^e; `neg` is the sign of a zero. -/
  | exact (neg : Bool) (m : Int) (e : Int)
  /-- Magnitude 2^(t / 2^k) with a sign, from the inverse conversion (R98). -/
  | pow2 (neg : Bool) (t : Int) (k : Nat)
  | inf (neg : Bool) (ovf : Bool)
  | nan (bits : Nat)
  /-- Default NaN, flag INV (Table 5.2). -/
  | invalid
  /-- The spec states no value. -/
  | free
  deriving DecidableEq, Repr

/-- A written element: bits and flags. -/
structure Fo where
  bits : Nat
  st   : Stat
  deriving DecidableEq, Repr

def signBit (p : Nat) (neg : Bool) : Nat := bool2 neg * 2 ^ (p + 8)
/-- Writes magnitude q x 2^(e - p) with 2^p ≤ q ≤ 2^(p+1), or overflow and flush (R55, R101, R102). `sat` selects R55's
largest finite value in place of infinity. -/
def fvPack (p : Nat) (sat : Bool) (neg : Bool) (q : Nat) (e : Int) : Fo :=
  let q1 := if q = 2 ^ (p + 1) then 2 ^ p else q
  let e1 := if q = 2 ^ (p + 1) then e + 1 else e
  if 127 < e1 then
    if sat then { bits := signBit p neg + 254 * 2 ^ p + (2 ^ p - 1), st := { sat := true } }
    else { bits := signBit p neg + 255 * 2 ^ p, st := { ovf := true } }
  else if e1 < -126 then { bits := signBit p neg, st := { flush := true } }
  else { bits := signBit p neg + (e1 + 127).toNat * 2 ^ p + (q1 - 2 ^ p), st := {} }
/-- Rounds an exact value to p fraction bits (R101: with an unbounded exponent first). (log 24, DEDUCED) -/
def fvRound (p : Nat) (sat : Bool) (r : Rnd) (neg0 : Bool) (m : Int) (e : Int) : Fo :=
  if m = 0 then { bits := signBit p neg0, st := {} } else
  let n := Nat.log2 m.natAbs
  let d : Int := (n : Int) - p
  let q := shrRnd m d r
  fvPack p sat (decide (m < 0)) q.natAbs (e + n)

/-! ### The log path (R98) -/

/-- Numerators of C_e and C_2 over 2^40. -/
def cE : Int := 1586259972792
def c2 : Int := 762123384786

/-- Fixed-point bits of the repeated squaring; the error stays far below the distance of any operand to a rounding point. -/
def logPrec : Nat := 256
/-- The next n bits of log2 x, for x = v / 2^logPrec in [1, 2). -/
def logBits : Nat → Nat → Nat → Nat
  | 0, _, acc => acc
  | n + 1, v, acc =>
    let sq := (v * v) >>> logPrec
    if 2 ^ (logPrec + 1) ≤ sq then logBits n (sq / 2) (2 * acc + 1) else logBits n sq (2 * acc)
/-- Floor of log2(m / 2^b) x 2^n for 2^b ≤ m < 2^(b+1). -/
def logFloor (m b n : Nat) : Nat := logBits n (m <<< (logPrec - b)) 0
/-- λ of a finite nonzero magnitude m x 2^e, in units of 2^-F (R98). -/
def lam (f : Nat) (m : Nat) (e : Int) : Int :=
  let b := Nat.log2 m
  let g := if m = 2 ^ b then 0 else (logFloor m b (f + 1) + 1) / 2
  (e + b) * 2 ^ f + g
/-- The mantissa q with p fraction bits of 2^(fr / 2^k), 0 < fr < 2^k, to nearest: the largest q whose lower rounding
boundary (2q - 1) / 2^(p+1) lies below it, by bisection over bit positions. -/
def invMant (p k fr : Nat) : Nat :=
  (List.range (p + 1)).foldl (fun q i =>
    let c := q + 2 ^ (p - i)
    let y := 2 * c - 1
    if 2 ^ (p + 1) ≤ c then q
    else if logFloor y (p + 1) k < fr then c else q) (2 ^ p)
/-- The upper end: values that round up to 2^(p+1). -/
def invMantTop (p k fr : Nat) : Nat :=
  if logFloor (2 ^ (p + 2) - 1) (p + 1) k < fr then 2 ^ (p + 1) else invMant p k fr
/-- inv: 2^(t / 2^k) rounded to p fraction bits (R98). -/
def invPack (p : Nat) (neg : Bool) (t : Int) (k : Nat) : Fo :=
  let i := t / 2 ^ k
  let fr := (t - i * 2 ^ k).toNat
  if 128 < i then fvPack p false neg (2 ^ p) 129
  else if i < -140 then fvPack p false neg (2 ^ p) (-141)
  else if fr = 0 then fvPack p false neg (2 ^ p) i
  else fvPack p false neg (invMantTop p k fr) i

/-- Rounds m x 2^e to the nearest multiple of 2^-f, ties to even, in those units (R98). -/
def fixTo (f : Nat) (m : Int) (e : Int) : Int := shrRnd m (-(e + f)) .near

/-- Keeps sign and top fraction bits of a NaN, quiet (R102). -/
def quietNan (p : Nat) (bits : Nat) : Nat := if p = 7 then (bits / 2 ^ 16) ||| 0x40 else bits ||| 0x400000

/-- Writes a result in a format with p fraction bits. (log 25, DESIGN CHOICE) -/
def frWrite (p : Nat) (r : Rnd) (free : Word) : Fr → Fo
  | .exact n m e => fvRound p false r n m e
  | .pow2 n t k => invPack p n t k
  | .inf n o => { bits := signBit p n + 255 * 2 ^ p, st := { ovf := o } }
  | .nan b => { bits := quietNan p b, st := {} }
  | .invalid => { bits := 255 * 2 ^ p + 2 ^ (p - 1), st := { inv := true } }
  | .free => { bits := free.toNat % 2 ^ (p + 9)
               st := { flush := free.getLsbD 63, ovf := free.getLsbD 62, inv := free.getLsbD 61 } }

/-- A power of two (R99). -/
def isPow2 (m : Nat) : Bool := decide (m = 2 ^ Nat.log2 m)
/-- Fraction bits F of the log path for a destination (R98). -/
def logF (p : Nat) : Nat := if p = 7 then 12 else 26

def firstNan : List Fv → Option Nat
  | [] => none
  | .nan b :: _ => some b
  | _ :: xs => firstNan xs

/-- a + b exactly, with the zero sign of R100. -/
def dyAdd (a b : Int × Int) : Int × Int :=
  if a.2 ≤ b.2 then (a.1 + b.1 * 2 ^ (b.2 - a.2).toNat, a.2) else (a.1 * 2 ^ (a.2 - b.2).toNat + b.1, b.2)
def fAdd (a b : Fv) : Fr :=
  match firstNan [a, b] with
  | some x => .nan x
  | none =>
    match a, b with
    | .inf x, .inf y => if x = y then .inf x false else .invalid
    | .inf x, _ => .inf x false
    | _, .inf y => .inf y false
    | _, _ =>
      let z := dyAdd a.dy b.dy
      .exact (a.neg && b.neg && decide (z.1 = 0)) z.1 z.2
def Fv.negate : Fv → Fv
  | .zero n s => .zero (!n) s | .num n m e => .num (!n) m e | .inf n => .inf (!n) | .nan b => .nan b
/-- SUB adds the negated second operand (R100). -/
def fSub (a b : Fv) : Fr := match firstNan [a, b] with | some x => .nan x | none => fAdd a b.negate
def fMul (p : Nat) (a b : Fv) : Fr :=
  match firstNan [a, b] with
  | some x => .nan x
  | none =>
    let n := a.neg != b.neg
    match a, b with
    | .inf _, .zero _ _ => .invalid
    | .zero _ _, .inf _ => .invalid
    | .inf _, _ => .inf n false
    | _, .inf _ => .inf n false
    | .zero _ _, _ => .exact n 0 0
    | _, .zero _ _ => .exact n 0 0
    | .num _ ma ea, .num _ mb eb =>
      if isPow2 ma || isPow2 mb then .exact n (if n then -(ma * mb : Nat) else (ma * mb : Nat)) (ea + eb)
      else .pow2 n (lam (logF p) ma ea + lam (logF p) mb eb) (logF p)
    | _, _ => .free
/-- DIV (R102); a finite value by an infinity is a zero of the quotient's sign, without a flag. (log 77, DESIGN CHOICE) -/
def fDiv (p : Nat) (a b : Fv) : Fr :=
  match firstNan [a, b] with
  | some x => .nan x
  | none =>
    let n := a.neg != b.neg
    match a, b with
    | .inf _, .inf _ => .invalid
    | .inf _, _ => .inf n false
    | _, .inf _ => .exact n 0 0
    | .zero _ _, .zero _ _ => .invalid
    | _, .zero _ _ => .inf n true
    | .zero _ _, _ => .exact n 0 0
    | .num _ ma ea, .num _ mb eb =>
      if isPow2 mb then .exact n (if n then -(ma : Int) else ma) (ea - eb - Nat.log2 mb)
      else .pow2 n (lam (logF p) ma ea - lam (logF p) mb eb) (logF p)
    | _, _ => .free
/-- SQRT and RSQRT: half the logarithm, in units of 2^-(F+1); RSQRT of +infinity is +0, without a flag. (log 77, DESIGN CHOICE) -/
def fRoot (recip : Bool) (p : Nat) (a : Fv) : Fr :=
  match a with
  | .nan b => .nan b
  | .zero n _ => if recip then .inf false true else .exact n 0 0
  | .inf n => if n then .invalid else if recip then .exact false 0 0 else .inf false false
  | .num n m e =>
    if n then .invalid
    else .pow2 false (if recip then -lam (logF p) m e else lam (logF p) m e) (logF p + 1)
/-- EXP2 and EXP. -/
def fExp (nat : Bool) (p : Nat) (a : Fv) : Fr :=
  match a with
  | .nan b => .nan b
  | .inf n => if n then .exact false 0 0 else .inf false false
  | x =>
    let v := x.dy
    .pow2 false (if nat then fixTo (logF p) (v.1 * cE) (v.2 - 40) else fixTo (logF p) v.1 v.2) (logF p)
/-- LOG2 and LOG. -/
def fLog (nat : Bool) (p : Nat) (a : Fv) : Fr :=
  match a with
  | .nan b => .nan b
  | .zero _ _ => .inf true false
  | .inf n => if n then .invalid else .inf false false
  | .num n m e =>
    if n then .invalid
    else if nat then .exact false (lam (logF p) m e * c2) (-(logF p : Int) - 40)
    else .exact false (lam (logF p) m e) (-(logF p : Int))
/-- POW of |a| and b: b = 0 gives 1 even for a NaN (Table 5.2); an infinite operand by its limit, and 1 to an infinite
power has no stated value. (log 25, DESIGN CHOICE) -/
def fPow (p : Nat) (a b : Fv) : Fr :=
  match b with
  | .zero _ _ => .exact false 1 0
  | _ =>
    match firstNan [a, b] with
    | some x => .nan x
    | none =>
      match a, b with
      | .zero _ _, y => if y.neg then .inf false true else .exact false 0 0
      | .inf _, y => if y.neg then .exact false 0 0 else .inf false false
      | .num _ m e, .inf nb =>
        let l := lam (logF p) m e
        if l = 0 then .free else if decide (0 < l) = !nb then .inf false false else .exact false 0 0
      | .num _ m e, y =>
        let v := y.dy
        .pow2 false (fixTo (logF p) (v.1 * lam (logF p) m e) (v.2 - logF p)) (logF p)
      | _, _ => .free
/-- A step computed for an FP32 destination and read back. (log 36, DEDUCED) -/
def fStep (r : Fr) : Fv := fvRead 23 (frWrite 23 .near 0 r).bits
def fOne : Fv := .num false 1 0
/-- SIGM: 1 / (1 + EXP(-a)). (log 36, DEDUCED) -/
def fSigm (p : Nat) (a : Fv) : Fr :=
  match a with
  | .nan b => .nan b
  | .inf n => if n then .exact false 0 0 else .exact false 1 0
  | x => fDiv p fOne (fStep (fAdd fOne (fStep (fExp true 23 x.negate))))
/-- SILU: a x SIGM(a). (log 36, DEDUCED) -/
def fSilu (p : Nat) (a : Fv) : Fr :=
  match a with
  | .nan b => .nan b
  | .inf n => if n then .exact true 0 0 else .inf false false
  | x => fMul p x (fStep (fSigm 23 x))

/-- Order of R69: +0 above -0. -/
def fvKey : Fv → Int × Int × Nat
  | .inf n => (if n then -2 else 2, 0, 0)
  | x => (if x.dy.1 < 0 then -1 else if 0 < x.dy.1 then 1 else 0, 0, if x.neg then 0 else 1)
/-- a ≤ b in the order of R69, for values that are no NaN. -/
def fvLe (a b : Fv) : Bool :=
  let ka := fvKey a
  let kb := fvKey b
  if ka.1 ≠ kb.1 then decide (ka.1 < kb.1)
  else if ka.1 = 0 then decide (ka.2.2 ≤ kb.2.2)
  else if ka.1 = 2 ∨ ka.1 = -2 then true
  else
    let d := dyAdd a.dy (-b.dy.1, b.dy.2)
    decide (d.1 ≤ 0)
/-- The value unchanged. -/
def Fv.res : Fv → Fr
  | .zero n _ => .exact n 0 0
  | .num n m e => .exact false (if n then -(m : Int) else m) e
  | .inf n => .inf n false
  | .nan b => .nan b
def fMax (a b : Fv) : Fr := match firstNan [a, b] with | some x => .nan x | none => if fvLe b a then a.res else b.res
def fMin (a b : Fv) : Fr := match firstNan [a, b] with | some x => .nan x | none => if fvLe a b then a.res else b.res
def fAbs : Fv → Fr
  | .nan b => .nan b
  | x => if x.neg then x.negate.res else x.res
def fNeg : Fv → Fr
  | .nan b => .nan b
  | x => x.negate.res

/-- FP32 addition of two values with a rounding, as a tree combine makes it (R68): the value and its flags. -/
def fvAdd32 (r : Rnd) (a b : Fv) : Fv × Stat :=
  let o := frWrite 23 r 0 (fAdd a b)
  (fvRead 23 o.bits, o.st)
/-- The FP32 bits of a value. -/
def fv32 (a : Fv) : Nat := (frWrite 23 .near 0 a.res).bits

end Sys2Proof.Machine
end

