-- ==== Sys2Proof/Machine/Block.lean ====
section
/-! DEFINITION. Block-scaled formats and PS16: fitting exponents, ceilings and clips (R70, R74 to R76), the PS16 write (R57),
conversion of a pair to BF16, FP32 and I32 (R55), and what the range monitor counts (R78). -/

namespace Sys2Proof.Machine

/-- The bias B of block exponents (R70). -/
def bias : Int := 127

/-- An element before it is written: a pair (q, X) with value q x 2^(X - B), an infinity of a VCVT source, or an element
that depends on data the spec leaves undefined. -/
inductive Px where
  | val (q x : Int)
  | inf (neg : Bool)
  | undef
  deriving DecidableEq, Repr

/-- Width of a block-scaled format; AUTO is stored as A16 (R73). -/
def blkW (fmt : Nat) : Nat := if fmt = 0x10 then 2 else if fmt = 0x11 then 4 else if fmt = 0x12 then 8 else 16
def isBlk (fmt : Nat) : Bool := (decide (0x10 ≤ fmt) && decide (fmt ≤ 0x13)) || fmt == 0xF0
/-- Width of format number 0 A2 to 3 A16. -/
def fmtW (f : Nat) : Nat := 2 * 2 ^ f
/-- Format number of a block-scaled code. -/
def fmtNo (fmt : Nat) : Nat := if fmt = 0x10 then 0 else if fmt = 0x11 then 1 else if fmt = 0x12 then 2 else 3

/-- A written block. -/
structure Blk where
  mant  : List Int
  exp   : Nat
  clips : Nat
  sat   : Bool
  deriving DecidableEq, Repr

/-- Fitting exponent of a block for width w; `none` with no nonzero element (R74). -/
def fitExp (w : Nat) (xs : List Px) : Option Int :=
  xs.foldl (fun o x => match x with
    | .val q e => if q = 0 then o else
        let v := e + bitLen q - w
        some (match o with | none => v | some m => if m < v then v else m)
    | _ => o) none
/-- The second largest of the window's fitting exponents, with multiplicity (R75). -/
def second (fs : List (Option Int)) : Option Int :=
  (fs.foldl (fun (acc : Option Int × Option Int) f => match f with
    | none => acc
    | some v => match acc with
      | (none, _) => (some v, none)
      | (some a, b) =>
        if a < v then (some v, some a)
        else (some a, match b with | none => some v | some y => if y < v then some v else some y)) (none, none)).2
/-- Ceiling allowance S of a width, Table 4.3; `none` for A16. -/
def ceilS (w : Nat) : Option Int := if w = 2 then some 1 else if w = 4 then some 2 else if w = 8 then some 4 else none
/-- The ceiling of a window (R75). -/
def ceilingOf (w : Nat) (fs : List (Option Int)) : Option Int :=
  match ceilS w, second fs with | some s, some f2 => some (f2 + s) | _, _ => none

def Px.isUndef : Px → Bool
  | .undef => true
  | _ => false
/-- A block of n elements, padded to len (R70), one of which is undefined: every element and the exponent depend on it. -/
def freeBlk (w : Nat) (free : Nat → Word) (n len : Nat) : Blk :=
  { mant := (List.range len).map fun i => if i < n then sextNat ((free i).toNat % 2 ^ w) w else 0, exp := bitsOf (free 0).toNat 63 56
    clips := (List.range n).countP fun i => (free i).getLsbD 55, sat := (List.range n).any fun i => (free i).getLsbD 54 }
/-- Writes a block at width w under a ceiling (R75, R76), of whose elements n are the row's. `rnd i` rounds element i. -/
def narrowBlk (w : Nat) (cap : Option Int) (rnd : Nat → Rnd) (free : Nat → Word) (n : Nat) (xs : List Px) : Blk :=
  let hi : Int := 2 ^ (w - 1) - 1
  let lo : Int := -(2 ^ (w - 1))
  if xs.any Px.isUndef then freeBlk w free n xs.length else
  let anyInf := xs.any fun x => match x with | .inf _ => true | _ => false
  let e0 : Option Int := match fitExp w xs with
    | none => none
    | some f => some (match cap with | none => f | some c => if c < f then c else f)
  let e1 : Int := match e0 with | none => (if anyInf then 255 else 0) | some e => e
  let ovr := decide (255 < e1)
  let eb : Int := clampInt 0 255 e1
  let els := (List.range xs.length).map fun i =>
    match nth (.val 0 0) xs i with
    | .undef => ((0, false, false) : Int × Bool × Bool)
    | .inf n => (if n then lo else hi, true, true)
    | .val q x =>
      if q = 0 then (0, false, false)
      else if (w : Int) < bitLen q + x - eb then (if q < 0 then lo else hi, true, ovr)
      else
        let m := shrRnd q (eb - x) (rnd i)
        (if hi < m then hi else m, false, false)
  let ms := els.map fun e => e.1
  { mant := ms, exp := if ms.all (· == 0) then 0 else eb.toNat
    clips := (els.filter fun e => e.2.1).length, sat := els.any fun e => e.2.2 }

/-- Cuts a list into runs of n. -/
def chunks {α : Type} (n : Nat) : Nat → List α → List (List α)
  | 0, _ => []
  | fuel + 1, xs => if xs.isEmpty then [] else xs.take n :: chunks n fuel (xs.drop n)
def chunksOf {α : Type} (n : Nat) (xs : List α) : List (List α) := chunks n (xs.length + 1) xs
/-- Fills a list up with a value. -/
def padTo {α : Type} (n : Nat) (d : α) (xs : List α) : List α := xs ++ List.replicate (n - xs.length) d

/-- Writes a row as blocks of 32, window by window of five blocks (R70, R75). `rnd` and `free` take the position in the row. An
undefined element reaches its whole window through the ceiling, except at width 16, which has none. -/
def narrowRow (w : Nat) (rnd : Nat → Rnd) (free : Nat → Word) (row : List Px) : List Blk :=
  let blocks := (chunksOf 32 row).map (padTo 32 (.val 0 0))
  (List.range (ceilDiv blocks.length 5)).flatMap fun wi =>
    let bs0 := (blocks.drop (5 * wi)).take 5
    let bs := if decide (w < 16) && bs0.any fun b => b.any Px.isUndef then bs0.map fun b => b.map fun _ => Px.undef else bs0
    let cap := ceilingOf w (bs.map (fitExp w))
    (List.range bs.length).map fun bi =>
      let base := (5 * wi + bi) * 32
      narrowBlk w cap (fun i => rnd (base + i)) (fun i => free (base + i)) (row.length - base) (nth [] bs bi)

/-! ### PS16 (R57) -/

/-- An entry to be written to PS16: pair, VALID, and the flags that the block's byte collects. -/
structure PsEnt where
  px    : Px
  valid : Bool
  sat   : Bool
  mix   : Bool
  fmt   : Nat
  deriving DecidableEq, Repr

/-- Mantissas, EXP, SAT of step 4 or of an infinity. (log 36, DEDUCED) -/
def ps16Blk (rnd : Nat → Rnd) (free : Nat → Word) (xs : List Px) : List Int × Nat × Bool :=
  if xs.any Px.isUndef then (let b := freeBlk 16 free xs.length xs.length; (b.mant, b.exp, b.sat)) else
  let nz := xs.filterMap fun x => match x with | .val q e => if q = 0 then none else some (q, e) | _ => none
  let anyInf := xs.any fun x => match x with | .inf _ => true | _ => false
  let mn := nz.foldl (fun (o : Option Int) p => match o with | none => some p.2 | some m => some (if p.2 < m then p.2 else m)) none
  let mx := nz.foldl (fun (o : Option Int) p =>
    let v : Int := p.2 + bitLen p.1 - 16
    match o with | none => some v | some m => some (if m < v then v else m)) none
  let x1 : Int := match mn, mx with | some a, some b => (if a < b then b else a) | _, _ => (if anyInf then 255 else 0)
  let ovr := decide (255 < x1)
  let xf := clampInt 0 255 x1
  let els := (List.range xs.length).map fun i =>
    match nth (.val 0 0) xs i with
    | .undef => ((0, false) : Int × Bool)
    | .inf n => (if n then -32768 else 32767, true)
    | .val q x => if q = 0 then (0, false) else
      let m := shrRnd q (xf - x) (rnd i)
      (clampInt (-32768) 32767 m, ovr)
  (els.map (·.1), if nz.isEmpty && !anyInf then 0 else xf.toNat, els.any (·.2))

/-! ### BF16, FP32 and I32 from a pair (R55, R103) -/

/-- Writes a pair as a float; an overflow takes the largest finite value (R55) or infinity (R102). -/
def pxFloat (p : Nat) (satMode : Bool) (r : Rnd) (free : Word) : Px → Fo
  | .val q x => fvRound p satMode r false q (x - bias)
  | .inf n => if satMode then { bits := signBit p n + 254 * 2 ^ p + (2 ^ p - 1), st := { sat := true } }
              else { bits := signBit p n + 255 * 2 ^ p, st := {} }
  | .undef => { bits := free.toNat % 2 ^ (p + 9)
                st := { flush := free.getLsbD 63, ovf := !satMode && free.getLsbD 62, sat := satMode && free.getLsbD 62 } }
/-- Writes q x 2^(X - OX): saturating left, nearest-even right (R55). -/
def pxI32 (ox : Int) (free : Word) : Px → Int × Bool
  | .val q x =>
    let v := shrRnd q (ox - x) .near
    (clampInt (-(2 ^ 31)) (2 ^ 31 - 1) v, decide (v ≠ clampInt (-(2 ^ 31)) (2 ^ 31 - 1) v))
  | .inf n => (if n then -(2 ^ 31) else 2 ^ 31 - 1, true)
  | .undef => (sextNat (free.toNat % 2 ^ 32) 32, free.getLsbD 63)

/-! ### Range monitor (R78) -/

/-- Magnitude of a pair: exponent of its leading one, and its top 16 bits with the leading one at bit 15. -/
def magOf (q x : Int) : Nat × Nat :=
  let m := q.natAbs
  let n := Nat.log2 m
  ((x + n).toNat, if n < 15 then m * 2 ^ (15 - n) else m / 2 ^ (n - 15))
/-- Bins of D = F - F(2) for the nonzero blocks of one window, F taken at width 16 (D is the same at every width). -/
def winBins (bs : List (List Px)) : List Nat :=
  let fs := bs.map (fitExp 16)
  let n := (fs.filter Option.isSome).length
  fs.filterMap fun f => match f with
    | none => none
    | some v => match second fs with
      | some f2 => if n < 2 then some 0 else some (clampInt 0 15 (v - f2)).toNat
      | none => some 0

end Sys2Proof.Machine
end

