-- ==== Sys2Proof/Machine/Xc.lean ====
section
/-! DEFINITION. Exponent coding: tiles, the coded region, codebooks, the raw escape and the expander's checks (R227 to R243). -/

namespace Sys2Proof.Machine

/-- Per-format figures of Table 10.1. -/
structure XcFmt where
  n     : Nat
  dense : Nat
  raw   : Nat
  syms  : Nat
  slot  : Nat
  deriving DecidableEq, Repr
def xcFmt (fmt : Nat) : XcFmt :=
  if fmt = 0x30 then { n := 2048, dense := 4096, raw := 2048, syms := 2048, slot := 4096 }
  else if fmt = 0x31 then { n := 1024, dense := 4096, raw := 3072, syms := 1024, slot := 4096 }
  else if fmt = 0x10 then { n := 16384, dense := 4608, raw := 4096, syms := 512, slot := 4608 }
  else if fmt = 0x11 then { n := 8192, dense := 4352, raw := 4096, syms := 256, slot := 4608 }
  else if fmt = 0x12 then { n := 4096, dense := 4224, raw := 4096, syms := 128, slot := 4608 }
  else if fmt = 0x21 then { n := 2048, dense := 4224, raw := 4160, syms := 64, slot := 4608 }
  else { n := 2048, dense := 4160, raw := 4096, syms := 64, slot := 4608 }
/-- Formats that may be coded (R227). -/
def xcAllowed (fmt : Nat) : Bool := isBlk fmt || fmt == 0x21 || fmt == 0x30 || fmt == 0x31

/-- Raw part of a tile's dense form. -/
def xcRawPart (fmt : Nat) (d : List Byte) : List Byte :=
  if fmt = 0x30 then (List.range 2048).map fun i =>
    BitVec.ofNat 8 ((fieldAt d (2 * i) 2 / 2 ^ 15) * 128 + fieldAt d (2 * i) 2 % 128)
  else if fmt = 0x31 then (List.range 1024).flatMap fun i =>
    leBytes 3 ((fieldAt d (4 * i) 4 / 2 ^ 31) * 2 ^ 23 + fieldAt d (4 * i) 4 % 2 ^ 23)
  else d.take 4096 ++ (if fmt = 0x21 then (d.drop 4160).take 64 else [])
/-- Exponent symbols of a tile's dense form. -/
def xcSyms (fmt : Nat) (d : List Byte) : List Nat :=
  if fmt = 0x30 then (List.range 2048).map fun i => (fieldAt d (2 * i) 2 / 128) % 256
  else if fmt = 0x31 then (List.range 1024).map fun i => (fieldAt d (4 * i) 4 / 2 ^ 23) % 256
  else ((d.drop 4096).take (xcFmt fmt).syms).map (·.toNat)
/-- Dense form from raw part and symbols. -/
def xcJoin (fmt : Nat) (raw : List Byte) (sy : List Nat) : List Byte :=
  if fmt = 0x30 then (List.range 2048).flatMap fun i =>
    let b := fieldAt raw i 1
    leBytes 2 ((b / 128) * 2 ^ 15 + nth 0 sy i * 128 + b % 128)
  else if fmt = 0x31 then (List.range 1024).flatMap fun i =>
    let b := fieldAt raw (3 * i) 3
    leBytes 4 ((b / 2 ^ 23) * 2 ^ 31 + nth 0 sy i * 2 ^ 23 + b % 2 ^ 23)
  else raw.take 4096 ++ sy.map (BitVec.ofNat 8) ++ raw.drop 4096

/-! ### The exponent stream (R231) -/

/-- Bits of a value, most significant first. -/
def msb (n v : Nat) : List Bool := (List.range n).map fun i => v.testBit (n - 1 - i)
/-- Code of symbol e under REF with codebook k. -/
def xcCode (k ref e : Nat) : List Bool :=
  let d := ref - e
  let r := k % 8
  let q := d / 2 ^ r
  let rice := if q ≤ 14 then List.replicate q true ++ [false] ++ msb r (d % 2 ^ r) else List.replicate 15 true ++ msb 8 d
  if 8 ≤ k then (if e = 0 then [false] else true :: rice) else rice
def xcCodeLen (k ref e : Nat) : Nat :=
  let d := ref - e
  let q := d / 2 ^ (k % 8)
  let rice := if q ≤ 14 then q + 1 + k % 8 else 23
  if 8 ≤ k then (if e = 0 then 1 else 1 + rice) else rice
/-- Packs bits from bit 7 downward, the last byte padded with zeros. -/
def packBits (bs : List Bool) : List Byte :=
  (chunksOf 8 bs).map fun c => BitVec.ofNat 8 ((padTo 8 false c).foldl (fun n b => 2 * n + bool2 b) 0)
def unpackBits (bs : List Byte) : List Bool := bs.flatMap fun b => msb 8 b.toNat
def maxOf (xs : List Nat) : Nat := xs.foldl (fun m x => if m < x then x else m) 0
/-- Bytes of the stream of codebook k. -/
def xcLen (k : Nat) (sy : List Nat) : Nat := 1 + ceilDiv ((sy.map (xcCodeLen k (maxOf sy))).foldl (· + ·) 0) 8
def xcStream (k : Nat) (sy : List Nat) : List Byte :=
  BitVec.ofNat 8 (maxOf sy) :: packBits (sy.flatMap (xcCode k (maxOf sy)))

/-- Leading ones, at most 15. -/
def unary : Nat → List Bool → Nat × List Bool
  | 0, bs => (0, bs)
  | n + 1, true :: bs => let r := unary n bs; (r.1 + 1, r.2)
  | _ + 1, bs => (0, bs)
def takeVal : Nat → List Bool → Option (Nat × List Bool)
  | 0, bs => some (0, bs)
  | _ + 1, [] => none
  | n + 1, b :: bs => match takeVal n bs with | none => none | some (v, r) => some (bool2 b * 2 ^ n + v, r)
/-- One symbol of the stream. -/
def xcSym (k ref : Nat) (bs : List Bool) : Option (Nat × List Bool) :=
  let rice : List Bool → Option (Nat × List Bool) := fun bs =>
    let u := unary 15 bs
    let dv := if u.1 = 15 then takeVal 8 u.2 else match u.2 with
      | [] => none
      | _ :: rest => match takeVal (k % 8) rest with | none => none | some (v, r) => some (u.1 * 2 ^ (k % 8) + v, r)
    match dv with
    | none => none
    | some (d, r) => if ref < d then none else some (ref - d, r)
  if 8 ≤ k then match bs with
    | [] => none
    | false :: r => some (0, r)
    | true :: r => rice r
  else rice bs
/-- See log 66, DEDUCED. -/
def xcDecode (k ref : Nat) : Nat → List Bool → Option (List Nat)
  | 0, _ => some []
  | n + 1, bs => match xcSym k ref bs with
    | none => none
    | some (e, r) => match xcDecode k ref n r with | none => none | some es => some (e :: es)

/-! ### Tiles (R232, R242) -/

/-- A stored tile: index entry, bytes of its used granules, and whether it is RAW. -/
structure XcTile where
  entry : Nat
  bytes : List Byte
  raw   : Bool
  deriving DecidableEq, Repr

/-- Granules of a coded tile with a stream of n bytes. -/
def xcGrans (fmt n : Nat) : Nat := ceilDiv ((xcFmt fmt).raw + n) 32
/-- The codebook with the shortest stream, the lowest on a tie. -/
def xcBest (sy : List Nat) : Nat :=
  (List.range 16).foldl (fun b k => if xcLen k sy < xcLen b sy then k else b) 0
/-- The writer's decision for a tile; `forceRaw` for a protected destination (R239). -/
def xcEncode (fmt : Nat) (pin : Option Nat) (forceRaw : Bool) (d : List Byte) : XcTile :=
  let f := xcFmt fmt
  let rawT : XcTile := { entry := 2 ^ 31 + (f.dense / 32) * 2 ^ 18, bytes := d, raw := true }
  if forceRaw then rawT
  else if d.all (· == 0) then { entry := 2 ^ 30, bytes := [], raw := false }
  else
    let sy := xcSyms fmt d
    let k := match pin with | some k => k | none => xcBest sy
    let g := xcGrans fmt (xcLen k sy)
    if f.dense / 32 ≤ g then rawT
    else { entry := k * 2 ^ 26 + g * 2 ^ 18 + xcLen k sy
           bytes := padTo (32 * g) 0 (xcRawPart fmt d ++ xcStream k sy), raw := false }

/-- Bytes of the index area of T tiles (R229). -/
def xcIndexBytes (t : Nat) : Nat := 512 * ceilDiv (32 + 4 * t) 512
/-- Bytes of a region of T tiles. -/
def xcRegion (fmt t : Nat) : Nat := xcIndexBytes t + t * (xcFmt fmt).slot
/-- Expands one tile from its entry and a reader of the slot; `none` where R242 faults. -/
def xcExpand (fmt : Nat) (entry : Nat) (slot : Nat → List Byte) : Option (List Byte) :=
  let f := xcFmt fmt
  let raw := bitOf entry 31
  let zero := bitOf entry 30
  let grans := bitsOf entry 25 18
  let xlen := bitsOf entry 12 0
  if raw && zero then none
  else if raw then (if grans = f.dense / 32 then some (slot f.dense) else none)
  else if zero then (if grans = 0 then some (List.replicate f.dense 0) else none)
  else if grans ≠ xcGrans fmt xlen ∨ f.dense / 32 ≤ grans then none
  else
    let bs := slot (f.raw + xlen)
    let st := bs.drop f.raw
    match st with
    | [] => none
    | ref :: rest => match xcDecode (bitsOf entry 29 26) ref.toNat f.syms (unpackBits rest) with
      | none => none
      | some sy => some (xcJoin fmt (bs.take f.raw) sy)

end Sys2Proof.Machine
end

