-- ==== Sys2Proof/Machine/Tensor.lean ====
section
/-! DEFINITION. Tensors in storage: which bytes a descriptor addresses (R71, R116, R229, R246), how an element is read, and the
bytes that writing a tensor stores (R53, R56, R70, R71, R230). -/

namespace Sys2Proof.Machine

/-! ### Readers -/

/-- Bytes by address in a tensor's own space; poisoned ones, and ones that an unordered write makes undefined (R40). -/
structure Rd where
  byte  : Nat → Byte
  pois  : Nat → Bool
  taint : Nat → Bool

/-- A window of a cluster's scratchpad, with the byte ranges that are undefined to the reader. -/
def spadRd (x : Cluster) (win : Nat) (ts : List (Nat × Nat)) : Rd :=
  let w := mget 0 x.win win
  { byte := fun a => mget 0 x.spad (winPhys w a), pois := fun a => mget false x.spadPoison (winPhys w a / 8)
    taint := fun a => ts.any fun r => decide (r.1 ≤ winPhys w a) && decide (winPhys w a < r.1 + r.2) }
/-- Partition memory. -/
def dramRd (s : State) (p : Nat) : Rd :=
  let P := s.pt p
  { byte := fun a => match P.dev a with | some d => mget 0 s.mem.dram d | none => 0
    pois := fun a => match P.dev a with | some d => mget false s.mem.poison (d / 32) | none => false
    taint := fun _ => false }
def Rd.nat (r : Rd) (a n : Nat) : Nat := leNat ((List.range n).map fun i => r.byte (a + i))
def Rd.bytes (r : Rd) (a n : Nat) : List Byte := (List.range n).map fun i => r.byte (a + i)
/-- Why n bytes are undefined: poison, or 0 for an unordered write. -/
def Rd.bad (r : Rd) (a n : Nat) : Option (BitVec 16) :=
  if (List.range n).any fun i => r.pois (a + i) then some stPoisonConsumed
  else if (List.range n).any fun i => r.taint (a + i) then some 0 else none
/-- The first reason of two. -/
def orBad (a b : Option (BitVec 16)) : Option (BitVec 16) :=
  match a, b with
  | some x, some y => some (if x = 0 then y else x)
  | some x, none => some x
  | none, y => y

/-- What is stored for one element: bits or mantissa, block exponent and flag byte; `bad` names why it is undefined, `mp` and `ep` say
that its own bytes, and that its exponent byte, are poisoned. -/
structure Raw where
  val : Int
  exp : Nat
  fl  : Nat
  bad : Option (BitVec 16)
  mp  : Bool := false
  ep  : Bool := false
  deriving DecidableEq, Repr

/-! ### Layout -/

/-- Bytes of one element of a plain format. -/
def eltBytes (fmt : Nat) : Nat := if fmt = 0x01 then 1 else if fmt = 0x30 then 2 else 4
def unitBytes (w : Nat) : Nat := 512 * w + 128
/-- Address of a dense element at position p of its space: (first byte, bytes, exponent byte, flag byte). -/
def denseAddr (fmt : Nat) (p : Nat) : Nat × Nat × Option Nat × Option Nat :=
  if isBlk fmt then
    let w := blkW fmt
    let u := (p / 4096) * unitBytes w
    let b := (p / 32) % 128
    (u + b * 4 * w + ((p % 32) * w) / 8, ceilDiv w 8, some (u + 512 * w + b), none)
  else if fmt = 0x21 then
    let u := (p / 1024) * 2176
    let b := (p / 32) % 32
    (u + 64 * b + 2 * (p % 32), 2, some (u + 2048 + b), some (u + 2080 + b))
  else (p * eltBytes fmt, eltBytes fmt, none, none)
/-- Reads the element at dense position p, `base` bytes into the space. -/
def denseRaw (fmt : Nat) (rd : Rd) (base p : Nat) : Raw :=
  let a := denseAddr fmt p
  let v := rd.nat (base + a.1) a.2.1
  let poi := orBad (rd.bad (base + a.1) a.2.1) (orBad (match a.2.2.1 with | some x => rd.bad (base + x) 1 | none => none)
    (match a.2.2.2 with | some x => rd.bad (base + x) 1 | none => none))
  let w := blkW fmt
  { val := if isBlk fmt then sextNat ((v / 2 ^ (((p % 32) * w) % 8)) % 2 ^ w) w
           else if fmt = 0x21 then sextNat v 16
           else if fmt = 0x20 then sextNat v 32
           else (v : Int)
    exp := match a.2.2.1 with | some x => (rd.byte (base + x)).toNat | none => 0
    fl := match a.2.2.2 with | some x => (rd.byte (base + x)).toNat | none => 0
    bad := poi
    mp := decide (rd.bad (base + a.1) a.2.1 = some stPoisonConsumed)
    ep := match a.2.2.1 with | some x => decide (rd.bad (base + x) 1 = some stPoisonConsumed) | none => false }
/-- Reads the element at position q of a tile's dense form. -/
def tileRaw (fmt : Nat) (d : List Byte) (q : Nat) : Raw :=
  let rd : Rd := { byte := nth 0 d, pois := fun _ => false, taint := fun _ => false }
  let w := blkW fmt
  let blk := q / 32
  if isBlk fmt then
    let v := rd.nat (blk * 4 * w + ((q % 32) * w) / 8) (ceilDiv w 8)
    { val := sextNat ((v / 2 ^ (((q % 32) * w) % 8)) % 2 ^ w) w, exp := (rd.byte (4096 + blk)).toNat, fl := 0, bad := none }
  else if fmt = 0x21 then
    { val := sextNat (rd.nat (2 * q) 2) 16, exp := (rd.byte (4096 + blk)).toNat, fl := (rd.byte (4160 + blk)).toNat, bad := none }
  else { val := (rd.nat (q * eltBytes fmt) (eltBytes fmt) : Int), exp := 0, fl := 0, bad := none }

/-- Byte where a tensor's storage counts from: region start for XC, else 0 (SPACE 0, 1) or 32 x OFFSET (SPACE 2). -/
def Ten.base (t : Ten) : Nat :=
  if t.space = 2 then 32 * t.off else if t.xc then 512 * t.off else 0
/-- Dense position of linear index i, counted from `base`. -/
def Ten.pos (t : Ten) (i : Nat) : Int := if t.xc || t.space = 2 then t.elemAt i - t.off else t.elemAt i
def Ten.posLo (t : Ten) : Int := if t.xc || t.space = 2 then t.lo - t.off else t.lo
def Ten.posHi (t : Ten) : Int := if t.xc || t.space = 2 then t.hi - t.off else t.hi
/-- Tiles of a coded tensor (R229). -/
def Ten.tiles (t : Ten) : Nat := t.posHi.toNat / (xcFmt t.fmt).n + 1
/-- Address of a tile's slot. -/
def Ten.slotAt (t : Ten) (k : Nat) : Nat := t.base + xcIndexBytes t.tiles + k * (xcFmt t.fmt).slot

/-- One tile of a coded tensor: dense form, or why it is undefined (R242, R243). -/
def Ten.tile (t : Ten) (rd : Rd) (k : Nat) : Except (BitVec 16) (List Byte) :=
  let ea := t.base + 32 + 4 * k
  let entry := rd.nat ea 4
  let grans := bitsOf entry 25 18
  if (rd.byte t.base).toNat ≠ t.fmt then .error stXcIndex else
  match orBad (rd.bad ea 4) (rd.bad (t.slotAt k) (32 * grans)) with
  | some st => .error st
  | none => match xcExpand t.fmt entry fun n => rd.bytes (t.slotAt k) n with
    | some d => .ok d
    | none => .error stXcIndex
/-- Reads element i of a tensor (R73: AUTO reads as A16). -/
def Ten.raw (t : Ten) (rd : Rd) (i : Nat) : Raw :=
  let p := (t.pos i).toNat
  if t.xc then
    let n := (xcFmt t.fmt).n
    match t.tile rd (p / n) with
    | .ok d => tileRaw t.fmt d (p % n)
    | .error st => { val := 0, exp := 0, fl := 0, bad := some st, mp := decide (st = stPoisonConsumed), ep := decide (st = stPoisonConsumed) }
  else denseRaw t.fmt rd t.base p
/-- All elements in linear order. -/
def Ten.raws (t : Ten) (rd : Rd) : List Raw := (List.range t.count).map (t.raw rd)

/-- An element as a float (R92): BF16 widens to FP32. -/
def rawFv (fmt : Nat) (r : Raw) : Fv := fvRead (fracBits fmt) r.val.toNat
/-- An element as a pair (R42, R56, R70, R103). -/
def rawPx (fmt : Nat) (r : Raw) : Px :=
  if r.bad.isSome then .undef
  else if isBlk fmt ∨ fmt = 0x21 then .val r.val r.exp
  else match rawFv fmt r with
    | .num n m e => .val (if n then -(m : Int) else m) (e + bias)
    | .inf n => .inf n
    | _ => .val 0 0

/-! ### Bytes that a descriptor addresses -/

/-- Lowest byte and end of the bytes addressed (R71, R116, R229, R246), in the tensor's own space. -/
def Ten.span (t : Ten) : Int × Int :=
  if t.xc then ((t.base : Int), (t.base + xcRegion t.fmt t.tiles : Nat))
  else if isBlk t.fmt then
    let u : Int := unitBytes (blkW t.fmt)
    ((t.base : Int) + (t.posLo / 4096) * u, (t.base : Int) + (t.posHi / 4096 + 1) * u)
  else if t.fmt = 0x21 then ((t.base : Int) + (t.posLo / 1024) * 2176, (t.base : Int) + (t.posHi / 1024 + 1) * 2176)
  else if t.fmt = 0x02 then ((t.base : Int) + (t.posLo / 32) * 28, (t.base : Int) + (t.posHi / 32 + 1) * 28)
  else if t.fmt = 0x40 ∨ t.fmt = 0x41 then
    let u : Int := if t.fmt = 0x40 then 160 else 288
    ((t.base : Int) + (t.posLo / 160) * u, (t.base : Int) + (t.posHi / 160 + 1) * u)
  else
    let n : Int := eltBytes t.fmt
    ((t.base : Int) + t.posLo * n, (t.base : Int) + (t.posHi + 1) * n)
/-- Bytes of the span. -/
def Ten.spanLen (t : Ten) : Nat := (t.span.2 - t.span.1).toNat

/-! ### Writing -/

/-- Bytes at addresses of the tensor's own space. -/
abbrev Plan := List (Nat × List Byte)

/-- Packs mantissas of width w, little-endian in the byte. -/
def packMants (w : Nat) (ms : List Int) : List Byte :=
  if 8 ≤ w then ms.flatMap fun m => leBytes (w / 8) (m % 2 ^ w).toNat
  else (chunksOf (8 / w) ms).map fun c =>
    BitVec.ofNat 8 ((List.range c.length).foldl (fun n i => n + (nth 0 c i % 2 ^ w).toNat * 2 ^ (w * i)) 0)
/-- Stores plain elements: bits by linear index. -/
def planPlain (t : Ten) (vals : List Nat) : Plan :=
  (List.range t.count).map fun i => (t.base + (t.pos i).toNat * eltBytes t.fmt, leBytes (eltBytes t.fmt) (nth 0 vals i))
/-- Rows of a tensor: dimension 0 is the row. -/
def Ten.rowsOf (t : Ten) : Nat := if t.e 0 = 0 then 0 else t.count / t.e 0
/-- Joins stores to adjacent bytes. -/
def coalesce : Plan → Plan
  | [] => []
  | (a, bs) :: rest => match coalesce rest with
    | (b, cs) :: more => if a + bs.length = b then (a, bs ++ cs) :: more else (a, bs) :: (b, cs) :: more
    | [] => [(a, bs)]
/-- Stores the blocks of a dense block-scaled tensor, row by row: whole mantissa areas, then the exponents. -/
def planBlocks (t : Ten) (rows : List (List Blk)) : Plan :=
  let w := blkW t.fmt
  let each : (Nat → Blk → Nat × List Byte) → Plan := fun f =>
    (List.range t.rowsOf).flatMap fun r =>
      let bs := nth [] rows r
      (List.range bs.length).map fun b =>
        f ((t.pos (r * t.e 0)).toNat + 32 * b) (nth { mant := [], exp := 0, clips := 0, sat := false } bs b)
  each (fun p k => (t.base + (denseAddr t.fmt p).1, packMants w k.mant))
    ++ each fun p k => (t.base + (match (denseAddr t.fmt p).2.2.1 with | some x => x | none => 0), [BitVec.ofNat 8 k.exp])
/-- One PS16 block to store: dense position of its first element, the mantissas by position, EXP and flag byte. -/
structure PsOut where
  pos  : Nat
  mant : List (Nat × Int)
  exp  : Nat
  fl   : Nat
  deriving DecidableEq, Repr
/-- What storing PS16 blocks writes: mantissas, EXP and flag bytes (R57); the reserved bytes of the unit stay as they were.
(log 77, DESIGN CHOICE) -/
def planPs16 (t : Ten) (bs : List PsOut) : Plan :=
  let at_ : Option Nat → Nat := fun o => t.base + (match o with | some x => x | none => 0)
  (bs.flatMap fun b => b.mant.map fun m => (t.base + (denseAddr 0x21 m.1).1, leBytes 2 (m.2 % 2 ^ 16).toNat))
    ++ (bs.map fun b => (at_ (denseAddr 0x21 b.pos).2.2.1, [BitVec.ofNat 8 b.exp]))
    ++ (bs.map fun b => (at_ (denseAddr 0x21 b.pos).2.2.2, [BitVec.ofNat 8 b.fl]))

/-- Header, index entries and used granules of a region from the dense forms of its tiles (R230 to R233). `e` is the E bit of
the writer and `ctrl` the CTRL byte found in the header. -/
def planXc (t : Ten) (e : Bool) (ctrl : Byte) (force : Bool) (tiles : List (List Byte)) : Plan × Nat :=
  let keep := if e then ctrl else 0
  let pin := if e && bitOf ctrl.toNat 7 then some (ctrl.toNat % 16) else none
  let ts := tiles.map (xcEncode t.fmt pin force)
  let hdr := [BitVec.ofNat 8 t.fmt, keep, 0, 0] ++ leBytes 4 tiles.length ++ List.replicate 24 0
  ([(t.base, hdr ++ ts.flatMap fun x => leBytes 4 x.entry)]
    ++ (List.range ts.length).map fun k => (t.slotAt k, (nth { entry := 0, bytes := [], raw := false } ts k).bytes),
   (ts.filter (·.raw)).length)
/-- Dense forms of the tiles of a coded tensor from bytes placed by dense position (and exponents by block). -/
def xcTiles (t : Ten) (elem : Map Nat) (exps : Map Nat) (fls : Map Nat) : List (List Byte) :=
  let f := xcFmt t.fmt
  (List.range t.tiles).map fun k =>
    if isBlk t.fmt ∨ t.fmt = 0x21 then
      let w := if t.fmt = 0x21 then 16 else blkW t.fmt
      packMants w ((List.range f.n).map fun q => ((mget 0 elem (k * f.n + q) : Nat) : Int))
        ++ (List.range f.syms).map (fun b => BitVec.ofNat 8 (mget 0 exps (k * f.syms + b)))
        ++ (if t.fmt = 0x21 then (List.range 64).map fun b => BitVec.ofNat 8 (mget 0 fls (k * 64 + b)) else [])
    else (List.range f.n).flatMap fun q => leBytes (eltBytes t.fmt) (mget 0 elem (k * f.n + q))

/-- A tensor's new contents, before it is laid out. -/
inductive Out where
  /-- Bits by linear index (BF16, FP32, I32). -/
  | plain (vals : List Nat)
  | blocks (rows : List (List Blk))
  | ps16 (bs : List PsOut)
  deriving DecidableEq, Repr

/-- The bytes that storing a tensor writes, and how many RAW tiles that makes. `rd` reads the header of a coded destination. -/
def Ten.plan (t : Ten) (rd : Rd) (e force : Bool) (o : Out) : Plan × Nat :=
  if t.xc then
    let maps : Map Nat × Map Nat × Map Nat := match o with
      | .plain vs => ((List.range t.count).foldl (fun m i => mset 0 m (t.pos i).toNat (nth 0 vs i)) [], [], [])
      | .blocks rows =>
        let w := blkW t.fmt
        (List.range t.rowsOf).foldl (fun (acc : Map Nat × Map Nat × Map Nat) r =>
          let bs := nth [] rows r
          (List.range bs.length).foldl (fun acc b =>
            let p := (t.pos (r * t.e 0)).toNat + 32 * b
            let blk := nth { mant := [], exp := 0, clips := 0, sat := false } bs b
            ((List.range 32).foldl (fun m i => mset 0 m (p + i) (nth 0 blk.mant i % 2 ^ w).toNat) acc.1,
             mset 0 acc.2.1 (p / 32) blk.exp, acc.2.2)) acc) ([], [], [])
      | .ps16 bs => bs.foldl (fun acc b =>
          (b.mant.foldl (fun m x => mset 0 m x.1 (x.2 % 2 ^ 16).toNat) acc.1,
           mset 0 acc.2.1 (b.pos / 32) b.exp, mset 0 acc.2.2 (b.pos / 32) b.fl)) ([], [], [])
    planXc t e (rd.byte (t.base + 1)) force (xcTiles t maps.1 maps.2.1 maps.2.2)
  else (match o with
    | .plain vs => planPlain t vs
    | .blocks rows => planBlocks t rows
    | .ps16 bs => planPs16 t bs, 0)

/-- Stores a plan in a window of a cluster's scratchpad, as unit u. -/
def State.spadPlan (s : State) (c u win : Nat) (pl : Plan) : State :=
  let w := mget 0 (s.cl c).win win
  (coalesce pl).foldl (fun s x => s.spadWrite c u (winPhys w x.1) x.2) s
/-- Stores an output tensor of SPACE 0, reading CTRL of a coded one first where E is set (R124, R233), and counts its RAW tiles (R235, Table 10.5). -/
def State.storeOut (s : State) (c u : Nat) (t : Ten) (e : Bool) (o : Out) : State :=
  let s0 := if t.xc && e then s.spadTouch c (winPhys (mget 0 (s.cl c).win t.win) (t.base + 1) / 8 * 8) 8 else s
  let pl := t.plan (spadRd (s0.cl c) t.win []) e false o
  (s0.spadPlan c u t.win pl.1).modCl c fun x => { x with rawTiles := satAdd x.rawTiles pl.2 }

/-! ### Touching what is read -/

/-- Bytes that hold element i, or its slice, in the tensor's space. -/
def Ten.cells (t : Ten) (i : Nat) : List (Nat × Nat) :=
  let p := (t.pos i).toNat
  if t.xc then [(t.span.1.toNat, t.spanLen)]
  else if t.fmt = 0x02 then [(t.base + 28 * (p / 32), 28)]
  else if t.fmt = 0x40 ∨ t.fmt = 0x41 then
    let n := if t.fmt = 0x40 then 5 else 9
    (List.range n).map fun q => (t.base + (p / 160) * 32 * n + 32 * q + (p % 160) / 5, 1)
  else
    let a := denseAddr t.fmt p
    (t.base + a.1, a.2.1) :: ((match a.2.2.1 with | some x => [(t.base + x, 1)] | none => [])
      ++ (match a.2.2.2 with | some x => [(t.base + x, 1)] | none => []))
/-- Two byte ranges meet. -/
def meets (a b : Nat × Nat) : Bool := decide (a.1 < b.1 + b.2) && decide (b.1 < a.1 + a.2)
/-- The bytes that reading all elements needs: cells (R71), or the header, the index entries and the used granules of the tiles
that hold an element (R230, R243). (log 38, DEDUCED) -/
def Ten.needs (t : Ten) (rd : Rd) : List (Nat × Nat) :=
  if t.xc then
    let n := (xcFmt t.fmt).n
    (t.base, 8) :: ((((List.range t.count).map fun i => (t.pos i).toNat / n).eraseDups).flatMap fun k =>
      let ea := t.base + 32 + 4 * k
      [(ea, 4), (t.slotAt k, 32 * bitsOf (rd.nat ea 4) 25 18)])
  else (List.range t.count).flatMap t.cells
/-- Of some 64-bit words of a window's scratchpad, those that reading a tensor needs. -/
def neededWords (x : Cluster) (t : Ten) (ks : List Nat) : List Nat :=
  if ks.isEmpty then [] else
  let w := mget 0 x.win t.win
  let rs := (t.needs (spadRd x t.win [])).map fun r => (winPhys w r.1, r.2)
  ks.filter fun k => rs.any (meets (8 * k, 8))
/-- The reads' effect on the cells of a scratchpad tensor: single errors corrected, uncorrectable words poisoned (R124). -/
def State.touchTen (s : State) (c : Nat) (t : Ten) : State :=
  let x := s.cl c
  let w := mget 0 x.win t.win
  let ks := (x.spadFlaw.map (·.1)).filter fun k => meets (8 * k, 8) (winPhys w t.span.1.toNat, t.spanLen)
  (neededWords x t ks).foldl (fun s k => s.spadTouch c (8 * k) 8) s
/-- Physical addresses of the poisoned words that reading a scratchpad tensor delivers, rising. -/
def poisonedWords (x : Cluster) (t : Ten) : List Nat :=
  (neededWords x t (x.spadPois (winPhys (mget 0 x.win t.win) t.span.1.toNat) t.spanLen)).map (8 * ·)

end Sys2Proof.Machine
end

