-- ==== Sys2Proof/Machine/Check.lean ====
section
/-! DEFINITION. Issue of tensor instructions: descriptor checks in the order of R491 (R72, R116, R132, R134 to R136, R285,
R286, R363), the unit queues (R137), completion and event counters (R138, R144). -/

namespace Sys2Proof.Machine

/-! ### Operands -/

/-- A descriptor that an instruction names, as bits and decoded. -/
structure Opd where
  d : BitVec 256
  t : Ten
  deriving DecidableEq, Repr
def mkOpd (d : BitVec 256) : Opd := { d := d, t := decDesc d }
def Job.opd (j : Job) (i : Nat) : Opd := mkOpd (nth 0 j.descs i)
def Job.ten (j : Job) (i : Nat) : Ten := (j.opd i).t

/-- A space 0x0 machine address of the own chip is a partition access (R286). -/
def State.own (s : State) (t : Ten) : Bool :=
  decide (t.space = 2) && decide (t.win = 0) && decide (s.lnk.chip ≠ 0x3FFF) && decide (t.chip = s.lnk.chip.toNat)
/-- A SPACE 1 tensor whose first byte lies at or above 2^40 is in host memory (R363). -/
def Ten.host (t : Ten) : Bool := decide (t.space = 1) && decide ((2 ^ 40 : Int) ≤ t.span.1)
/-- Partition memory of this device. -/
def State.local (s : State) (t : Ten) : Bool := (decide (t.space = 1) && !t.host) || s.own t
/-- Another chip's memory. -/
def State.remote (s : State) (t : Ten) : Bool := decide (t.space = 2) && !s.own t

/-! ### Checks of one descriptor -/

/-- Fields marked E of a descriptor (Table 7.6). -/
def descExpert (d : BitVec 256) : Bool :=
  let sp := dfld d 13 12
  (decide (sp < 2) && decide (dfld d 95 79 ≠ 0)) || (decide (sp = 0) && decide (dfld d 49 40 ≠ 0))
/-- Reserved SPACE, reserved bits, or fields above the rank (R134). (log 39, DEDUCED) -/
def descReserved (d : BitVec 256) : Bool :=
  let sp := dfld d 13 12
  let n := dfld d 11 10 + 1
  decide (sp = 3) || (decide (sp = 0) && decide (dfld d 63 50 ≠ 0))
    || (decide (sp = 1) && (decide (dfld d 63 58 ≠ 0) || decide (dfld d 15 14 ≠ 0)))
    || (decide (sp = 2) && decide (dfld d 95 64 ≠ 0))
    || (decide (n < 4) && decide (dfld d 255 (96 + 40 * n) ≠ 0))
/-- The codes of Table 7.7. -/
def fmtKnown (f : Nat) : Bool :=
  [0x01, 0x02, 0x10, 0x11, 0x12, 0x13, 0x20, 0x21, 0x30, 0x31, 0x40, 0x41, 0xF0].contains f

/-- Destination formats that reference mode bars for every instruction (R87). -/
def refBarred (f : Nat) : Bool := f == 0x10 || f == 0x11 || f == 0x12

/-- Steps of higher dimensions: 0, or the row length times the extents below with nonzero strides (R56, R72). -/
def stridesOk (t : Ten) (row : Nat) : Bool :=
  ((List.range (t.rank - 1)).foldl (fun (acc : Bool × Nat) i =>
    let d := i + 1
    (acc.1 && (decide (t.s d = 0) || decide (t.s d = (acc.2 : Int))), if t.s d = 0 then acc.2 else acc.2 * t.e d))
    (true, row)).1
/-- Layout of a descriptor: R72, R56, R246, R228, R229. `planes` applies R72 to plane formats too (R168). -/
def layoutBad (planes : Bool) (t : Ten) : Bool :=
  let blk := isBlk t.fmt || (planes && (t.fmt == 0x40 || t.fmt == 0x41))
  let unit := unitBytes (blkW t.fmt)
  (blk && (decide (t.s 0 ≠ 1) || !stridesOk t (32 * ceilDiv (t.e 0) 32)))
  || (decide (t.fmt = 0x21) && (decide (t.s 0 ≠ 1) || !stridesOk t (t.e 0)))
  || (!t.xc && blk && (if t.space = 2 then decide (32 * t.off % unit ≠ 0) else decide (t.off % 4096 ≠ 0)))
  || (!t.xc && decide (t.fmt = 0x21) && (if t.space = 2 then decide (32 * t.off % 2176 ≠ 0) else decide (t.off % 1024 ≠ 0)))
  || (decide (t.fmt = 0x02) && (decide (t.off % 32 ≠ 0) || decide (t.s 0 ≠ 1) || (List.range (t.rank - 1)).any fun i =>
        decide (t.s (i + 1) ≠ 0) && (decide (t.s (i + 1) % 32 ≠ 0) || decide (t.s (i + 1) < (32 * ceilDiv (t.e 0) 32 : Nat)))))
  || (t.xc && ((decide (t.space = 2) && decide (t.off % 16 ≠ 0)) || (!t.empty && decide (t.posLo < 0))))
/-- A destination that several indices would write at one place (R56, R94). -/
def strideZero (t : Ten) : Bool := (List.range t.rank).any fun d => decide (t.s d = 0) && decide (1 < t.e d)

/-- ADDR_RANGE and PROT_SPAN of one descriptor (R135, R285, R363). -/
def addrChecks (s : State) (p : Nat) (t : Ten) : List (Bool × BitVec 16) :=
  let lo := t.span.1
  let n := t.spanLen
  if t.space = 0 then []
  else if t.space = 2 && (decide (t.win = 1) || decide (t.chip = 0x3FFF)) then [(true, stAddrRange)]
  else if t.empty || s.remote t then []
  else if t.host then
    let j := (lo.toNat - 2 ^ 40) % 2 ^ 36
    let k := (lo.toNat - 2 ^ 40) / 2 ^ 36
    let len := bitsOf (mget 0 (s.pt p).hostWin k).toNat 11 0 * 2 ^ 24
    [(decide (2 ^ 41 < lo.toNat + n) || decide (2 ^ 36 < j + n) || decide (len < j + n), stAddrRange)]
  else
    let fl := (s.pt p).protFlags lo.toNat n
    [(decide (lo < 0) || !(s.pt p).mappedRange lo.toNat n, stAddrRange), (fl.contains true && fl.contains false, stProtSpan)]
/-- WINDOW_BOUND of one descriptor (R116). -/
def windowBad (x : Cluster) (t : Ten) : Bool :=
  decide (t.space = 0) && !t.empty && (decide (t.span.1 < 0) || !winOk (mget 0 x.win t.win) t.span.1.toNat t.spanLen)
/-- PROT of a descriptor as the sequencer sets it (R135). -/
def State.protOf (s : State) (p : Nat) (t : Ten) : Bool := s.local t && (s.pt p).prot t.span.1.toNat

/-! ### The checks in order -/

/-- What an operation adds to the common checks. -/
structure TChk where
  ill    : Bool := false
  priv   : Bool := false
  expert : Bool := false
  /-- Spaces that each descriptor may have; only DMOV may name host memory. -/
  space  : List Bool
  /-- FORMAT_CODE of something that is not a descriptor's format: step 5 of R491. -/
  codes  : List (Bool × BitVec 16) := []
  /-- Steps 7, 8, 10, 11, 12, 13 of R491, each in the order of R491. -/
  fmts   : List (Bool × BitVec 16) := []
  refs   : List (Bool × BitVec 16) := []
  shape  : List (Bool × BitVec 16) := []
  split  : Bool := false
  stream : Bool := false
  align  : Bool := false
  planes : Bool := false
  /-- Address and group checks that are not a descriptor's. -/
  addr   : List (Bool × BitVec 16) := []
  window : List Bool := []
  group  : List (Bool × BitVec 16) := []
  /-- Other issue faults, after these in ascending status code. -/
  other  : List (Bool × BitVec 16) := []
  /-- Nothing to do, so that it completes at once (R134, R167). -/
  nop    : Bool := false
  /-- Names host memory while the host is lost or detached: it stalls at issue (R376, R377). -/
  hold   : Bool := false

/-- All issue checks of a tensor instruction over its descriptors. -/
def tensorChecks (s : State) (c : Nat) (w : Word) (os : List Opd) (k : TChk) : List (Bool × BitVec 16) :=
  let p := (s.cl c).part.toNat
  [(k.ill, stIllegalInstr), (k.priv || os.any fun o => decide (o.t.space = 2) && decide (2 ≤ o.t.win), stPrivilege),
    (!wE w && (k.expert || os.any fun o => descExpert o.d), stExpertField)]
  ++ os.map (fun o => (descReserved o.d, stDescReserved))
  ++ os.map (fun o => (!fmtKnown o.t.fmt, stFormatCode)) ++ k.codes
  ++ k.space.map (fun b => (!b, stOperandSpace))
  ++ k.fmts ++ k.refs
  ++ os.map (fun o => (layoutBad k.planes o.t, stFormatLayout))
  ++ k.shape ++ [(k.split, stSplitList), (k.stream, stStreamUnclaimed), (k.align, stAlign)]
  ++ os.flatMap (fun o => addrChecks s p o.t) ++ k.addr
  ++ os.map (fun o => (windowBad (s.cl c) o.t, stWindowBound)) ++ k.window.map (fun b => (b, stWindowBound))
  ++ k.group ++ k.other

/-! ### Unit queues (R137) and completion (R138) -/

/-- Units in the order of R159's mask bits. -/
def TOp.unit : TOp → Nat
  | .tmm | .tmmp => 0
  | .vew _ | .vred _ | .varg _ | .vcvt => 1
  | .sfill | .scopy => 2
  | .dmov | .gath | .atom => 3
  | .kvapp | .attn | .kvstg => 4
  | .cred | .cbrd | .cgat => 5
  | .prune => 6

/-- A fresh job. -/
def mkJob (op : TOp) (w : Word) (ds : List (BitVec 256)) (sc : List Word) : Job :=
  { id := 0, op := op, word := w, pc := 0, descs := ds, scal := sc, ref := false, fmt := 0, isAuto := false, layer := 0, invoc := 0,
    record := false, esc := false, limit := 0, pin := 0, thresh := 0, waiting := false, pages := false, split := [], aliased := false, coreDone := [], runFmt := [],
    runReps := [], drained := 0, fmts := [], tstat := [], ents := [], undef := [], conts := [], status := 0, started := false, awaited := 0, phase := 0, rx := [],
    rxPoison := [], num := 0, segs := [], idx := [], taint := [], fault := 0, dead := false }

/-- Adds 1 to the event counter that a word names (R138). -/
def State.bumpEvent (s : State) (c : Nat) (w : Word) : State :=
  match wEvent w with
  | none => s
  | some e => s.modCl c fun x => { x with seq := { x.seq with e := mset 0 x.seq.e e (mget 0 x.seq.e e + 1) } }
/-- Puts a job at the end of its unit's queue. -/
def State.enqueue (s : State) (c : Nat) (j : Job) : State :=
  s.modCl c fun x =>
    { x.setUnit j.op.unit (x.unit j.op.unit ++ [{ j with id := x.nextJob, pc := x.seq.pc }]) with nextJob := x.nextJob + 1 }
/-- Task of a cluster is in reference mode. -/
def State.refMode (s : State) (c : Nat) : Bool := match s.taskOn c with | some t => t.ref | none => false

/-- Issues a tensor instruction on a ready sequencer: its checks, then room in the queue, then `act`, which answers the job
or an execution fault that shows at once. An instruction with an empty operand completes at once (R134). -/
def State.tensorIssue (s : State) (a : Agent) (code : Nat) (w : Word) (op : TOp) (os : List Opd) (sc : List Word) (k : TChk)
    (act : Nat → Job → State → State × Except (BitVec 16) Job) : State :=
  s.issue a code w fun s =>
    match a with
    | .core _ => s.faultAt a w stIllegalInstr
    | .seq c =>
      match firstFault (tensorChecks s c.val w os k) with
      | some st =>
        let s1 := if st = stSplitList then s.modCl c.val fun x => { x with splitFaults := satAdd x.splitFaults 1 } else s
        s1.faultAt a w st
      | none =>
        let q := (s.cl c.val).unit op.unit
        let empty := k.nop || os.any fun o => o.t.empty
        if k.hold then s.stall a .hostLost
        else if empty && q.isEmpty then (s.bumpEvent c.val w).advance a
        else if 16 ≤ q.length then s.stall a (.unitFull op.unit)
        else
          let j := { mkJob op w (os.map (·.d)) sc with ref := s.refMode c.val, dead := empty }
          if empty then (s.enqueue c.val j).advance a
          else match act c.val j s with
            | (s1, .ok j1) => (s1.enqueue c.val j1).advance a
            | (s1, .error st) => s1.faultAt a w st

/-- A tensor instruction as it stands at issue: its code, its operands, its checks, and what it does besides taking a place in
the queue. -/
structure TForm where
  code : Nat
  op   : TOp
  os   : List Opd
  sc   : List Word
  chk  : TChk
  act  : Nat → Job → State → State × Except (BitVec 16) Job
def State.formIssue (s : State) (a : Agent) (w : Word) (f : TForm) : State := s.tensorIssue a f.code w f.op f.os f.sc f.chk f.act

/-- The job of a unit with an id, as it stands. -/
def State.jobNow (s : State) (c u : Nat) (j : Job) : Job :=
  match ((s.cl c).unit u).find? fun y => decide (y.id = j.id) with | some y => y | none => j
/-- Changes the first job of a unit that meets a condition. -/
def modFirst (f : Job → Bool) (g : Job → Job) : List Job → List Job
  | [] => []
  | j :: js => if f j then g j :: js else j :: modFirst f g js
def State.modJob (s : State) (c u id : Nat) (g : Job → Job) : State :=
  s.modCl c fun x => x.setUnit u (modFirst (fun j => decide (j.id = id)) g (x.unit u))

/-- The descriptors of a job that name what it reads: all but the destinations, and a destination whose contents it goes on from. -/
def Job.readIdx (j : Job) : List Nat :=
  let all := List.range j.descs.length
  match j.op with
  | .kvapp | .attn => all
  | .tmm | .tmmp => if bitOf j.word.toNat 30 then all else all.drop 1
  | .vew _ => (if fld j.word 25 24 ≠ 0 then all.dropLast else all).drop 1
  | .varg _ | .cred => (all.drop 1).take 1
  | _ => all.drop 1
/-- An operand that the job reads is coded: its descriptor has XC, or the key-value pages that it reads are (R241, R258). -/
def Job.coded (j : Job) : Bool := j.pages || j.readIdx.any fun i => (j.ten i).xc
/-- A job leaves its unit, having worked in at least one cycle; waits for the expanders count (R241). Without a
fault its counter is incremented and its status merged (R138, R144). -/
def State.finish (s : State) (c u : Nat) (j0 : Job) (st : Word) : State :=
  let j := s.jobNow c u j0
  let s1 := s.modCl c fun x =>
    { x.setUnit u ((x.unit u).filter fun y => decide (y.id ≠ j.id)) with
      active := x.active + 1 + (Config.workCycles c j.id).setWidth 48
      expStalls := if j.coded then satAdd x.expStalls (Config.expWaits c j.id).toNat else x.expStalls }
  if j.fault ≠ 0 then s1
  else
    let s2 := s1.modCl c fun x => { x with seq := { x.seq with status := statMerge x.seq.status st } }
    s2.bumpEvent c j.word
/-- An execution fault of a job (R145): its sequencer faults and the job remembers it. -/
def State.jobFault (s : State) (c u : Nat) (j : Job) (st : BitVec 16) : State :=
  if j.fault ≠ 0 then s else
  let s1 := s.modJob c u j.id fun j => { j with fault := st }
  let s2 := if st = stXcIndex then s1.modCl c fun x => { x with indexFaults := satAdd x.indexFaults 1 } else s1
  s2.seqFault c st j.pc j.word
/-- Poison that an operand port of cluster c reads in scratchpad: the record and the fault (R464). -/
def State.jobPoison (s : State) (c u : Nat) (j : Job) (addrs : List Nat) : State :=
  match addrs with
  | [] => s
  | a :: rest =>
    if j.fault ≠ 0 then s else
    (s.poisonRec (s.partOf c) 2 c (rest.foldl (fun m x => if x < m then x else m) a) addrs.length 3).jobFault c u j
      stPoisonConsumed

/-- Physical scratchpad range of a tensor of SPACE 0. -/
def physSpan (x : Cluster) (t : Ten) : Nat × Nat := (winPhys (mget 0 x.win t.win) t.span.1.toNat, t.spanLen)
/-- Tensors that a job writes. -/
def Job.dests (j : Job) : List Ten :=
  (match j.op with
  | .sfill | .scopy | .atom | .kvapp => []
  | .vew _ => j.ten 0 :: if fld j.word 25 24 ≠ 0 then [j.ten (j.descs.length - 1)] else []
  | .varg _ => [j.ten 0, j.ten 2]
  | .attn => [j.ten 0, j.ten 3]
  | .tmm | .tmmp => if bitOf j.word.toNat 25 then [] else [j.ten 0]
  | .cred => j.ten 0 :: if 2 < j.descs.length then [j.ten 2] else []
  | _ => [j.ten 0]).filter fun t => !t.empty
/-- Scratchpad ranges that a job writes. -/
def Job.outs (x : Cluster) (j : Job) : List (Nat × Nat) :=
  if j.dead then [] else
  match j.op with
  | .sfill | .scopy =>
    [(winPhys (mget 0 x.win (fld j.word 30 29)) ((nth 0 j.scal 0).toNat % 2 ^ 32), (nth 0 j.scal 2).toNat % 2 ^ 32)]
  | _ => (j.dests.filter fun t => t.space = 0).map (physSpan x)
/-- The instructions of a unit that run: the oldest, and each that has begun (R40). -/
def runningJobs : List Job → List Job
  | [] => []
  | j :: js => j :: js.filter (·.started)
/-- Ranges that are undefined to job j: what others wrote while it ran, and what the other instructions that run are about to
write (R40, R95, R154). (log 37, DEDUCED) -/
def Job.taints (x : Cluster) (j : Job) : List (Nat × Nat) :=
  j.taint ++ x.units.flatMap fun kv => ((runningJobs kv.2).filter fun y => decide (y.id ≠ j.id)).flatMap fun y => y.outs x
/-- How a job reads a window. -/
def jobRd (x : Cluster) (j : Job) (win : Nat) : Rd := spadRd x win (j.taints x)

/-- Faults of a read of raw elements: the first status met, by kind (poison first). -/
def rawFault (rs : List Raw) : Option (BitVec 16) :=
  let bads := (rs.filterMap (·.bad)).filter (· ≠ 0)
  if bads.contains stPoisonConsumed then some stPoisonConsumed else bads.head?
/-- Reports what reading scratchpad operands met. -/
def State.readFault (s : State) (c u : Nat) (j : Job) (ts : List Ten) (rs : List Raw) : State :=
  match rawFault rs with
  | none => s
  | some st => if st = stPoisonConsumed then s.jobPoison c u j (ts.flatMap (poisonedWords (s.cl c)))
    else s.jobFault c u j st

end Sys2Proof.Machine
end

