-- ==== Sys2Proof/Machine/Egress.lean ====
section
/-! DEFINITION. Sending packets: routes (R297, R298), system messages (R294), and the completion of requests that this device
issued (R293). -/

namespace Sys2Proof.Machine

/-! ### Routes -/

/-- Reset value of a route entry (Table 13.11): not VALID, no port. -/
abbrev routeNone : BitVec 32 := 0x3FFFFFC0
/-- Tier of a route stage (R298). -/
def stageTier (i : Nat) : Nat := nth 0 [0, 1, 2, 1, 0] i
/-- Lowest permitted stage of a hop on a tier. -/
def hopStage (stage tier : Nat) : Option Nat := (List.range 5).find? fun i => decide (stage ≤ i) && decide (stageTier i = tier)
/-- Ports of an entry in the order that a channel tries them (R297). -/
def routePorts (e vc : Nat) : List Nat := (List.range 4).map fun k =>
  let i := (vc + k) % 4
  bitsOf e (6 * i + 11) (6 * i + 6)
/-- A port that routing may choose: ACTIVE, not about to go dark, and its peer has announced neither darkness nor withdrawal
(R283, R297, R406, R442). -/
def Port.usable (p : Port) : Bool := decide (p.st = .active) && decide (p.lit ≠ 0) && !p.withdrawn && !p.darkNote
/-- The port and the stage of the next hop, or the status with which the packet completes; chip number 0x3FFF is no device's (R3; the
spec names no status for it: log 47, DEDUCED). -/
def State.routeOf (s : State) (dst : BitVec 14) (vc stage : Nat) : Except (BitVec 16) (Nat × Nat) :=
  let e := (mget routeNone s.lnk.routes dst.toNat).toNat
  let cands := (routePorts e vc).filter (· < 39)
  let perm := cands.filter fun n => (hopStage stage (tierOf n)).isSome
  if dst = 0x3FFF || !bitOf e 31 || cands.isEmpty then .error stChipLost
  else if perm.isEmpty then .error stRouteOrder
  else match perm.find? fun n => (s.po n).usable with
    | none => .error stChipLost
    | some n => .ok (n, match hopStage stage (tierOf n) with | some i => i + 1 | none => stage)

/-! ### Sending -/

/-- Puts a packet on a port. -/
def State.push (s : State) (n : Nat) (k : Packet) : State := (s.modPo n fun p => { p with txq := p.txq ++ [k] }).pumpPort n false []
/-- Sends a packet that this device originates or forwards; a status says that it cannot go on (R287, R297). -/
def State.send (s : State) (k : Packet) : State × BitVec 16 :=
  if s.lnk.chip = 0x3FFF then (s, stChipLost)
  else match s.routeOf k.dst k.vc.toNat k.stage.toNat with
    | .error st => (s, st)
    | .ok (n, st) => (s.push n { k with stage := BitVec.ofNat 3 st }, 0)
/-- A message of a system channel to a chip (R294). -/
def State.sendSys (s : State) (dst : BitVec 14) (vc : BitVec 4) (ws : List Word) : State := (s.send (sysPacket s.lnk.chip dst vc ws)).1
/-- A message to the neighbour on each of some ports that are ACTIVE. (log 47, DEDUCED) -/
def State.tellPorts (s : State) (ns : List Nat) (vc : BitVec 4) (ws : List Word) : State :=
  ns.foldl (fun (s : State) n => if (s.po n).st = .active then s.push n (sysPacket s.lnk.chip (s.po n).foundChip vc ws) else s) s

/-! ### Requests of this device -/

/-- A response to a request of this device, or its end without one: its data, or the status of its failure (R293). The rows of a
GATHER come in packets of at most 16 granules, in order (R201). The Boolean says that the request was known. -/
def State.reqDone (s : State) (tag : BitVec 16) (st : BitVec 16) (data : List (BitVec 256)) (poison : BitVec 16) : State × Bool :=
  match s.lnk.reqs.find? fun r => decide (r.tag = tag) with
  | none => (s, false)
  | some r =>
    let more := if st = 0 then r.more - data.length else 0
    let next : Req → Req := fun x => match x.owner with
      | .job c u id off => { x with more := more, owner := .job c u id (off + data.length) }
      | _ => x
    let left := if more = 0 then s.lnk.reqs.filter (fun x => decide (x.tag ≠ tag)) else s.lnk.reqs.map (fun x => if x.tag = tag then next x else x)
    let s1 : State := s.setLnk { s.lnk with reqs := left }
    match r.owner with
    | .none => (s1, true)
    | .reshard p off => (s1.modPt p fun P => { P with reshPlan := P.reshPlan.map fun q => if !q.wait then q else { q with
        wait := false, status := if q.status = 0 then st else q.status
        rx := (List.range data.length).foldl (fun m i => mset 0 m (off + i) (nth 0 data i)) q.rx
        pois := q.pois ++ ((List.range data.length).filter fun i => poison.getLsbD i).map (off + ·) } }, true)
    | .job c u id off =>
      let s2 := s1.modJob c u id fun j => { j with
        awaited := if more = 0 then j.awaited - 1 else j.awaited
        rx := (List.range data.length).foldl (fun m i => mset 0 m (off + i) (nth 0 data i)) j.rx
        rxPoison := j.rxPoison ++ ((List.range data.length).filter fun i => poison.getLsbD i).map (off + ·) }
      match ((s2.cl c).unit u).find? fun j => decide (j.id = id) with
      | none => (s2, true)
      | some j => (if st = 0 then s2 else s2.jobFault c u j st, true)
/-- Issues a request for a job, in one or more packets of one tag; `off` is where its data belongs, `more` the granules of rows
that answer it. (log 11, DESIGN CHOICE) -/
def State.requestAll (s : State) (c u id off more : Nat) (chip : BitVec 14) (ks : List Packet) : State :=
  let tag := s.lnk.nextTag
  let s1 : State := s.setLnk { s.lnk with
      nextTag := tag + 1, reqs := s.lnk.reqs ++ [{ tag := tag, chip := chip, owner := .job c u id off, more := more }] }
  let s2 := s1.modJob c u id fun j => { j with awaited := j.awaited + 1 }
  let r := ks.foldl (fun (a : State × BitVec 16) k => if a.2 ≠ 0 then a else a.1.send { k with tag := tag }) (s2, 0)
  if r.2 = 0 then r.1 else (r.1.reqDone tag r.2 [] 0).1
/-- A request of one packet. -/
def State.request (s : State) (c u id off : Nat) (k : Packet) : State := s.requestAll c u id off 0 k.dst [k]

end Sys2Proof.Machine
end

