-- ==== Sys2Proof/Machine/Accum.lean ====
section
/-! DEFINITION. Accumulator entries: tags (Table 3.1), the addition of R44 with the saturation of R45, and the combining tree of
R67. -/

namespace Sys2Proof.Machine

def tagSat (t : BitVec 16) : Bool := t.getLsbD 15
def tagMix (t : BitVec 16) : Bool := t.getLsbD 14
def tagFmt (t : BitVec 16) : Nat := bitsOf t.toNat 13 12
def tagValid (t : BitVec 16) : Bool := t.getLsbD 11
def tagX (t : BitVec 16) : Int := sextNat t.toNat 10
def mkTag (sat mix : Bool) (fmt : Nat) (valid : Bool) (x : Int) : BitVec 16 :=
  BitVec.ofNat 16 (bool2 sat * 2 ^ 15 + bool2 mix * 2 ^ 14 + fmt * 2 ^ 12 + bool2 valid * 2 ^ 11 + (x % 2 ^ 10).toNat)

/-- Range of an entry, and the clamp value of a sign. -/
def fits32 (v : Int) : Bool := decide (-(2 ^ 31) ≤ v) && decide (v ≤ 2 ^ 31 - 1)
def clamp32 (v : Int) : Int := if v < 0 then -(2 ^ 31) else 2 ^ 31 - 1
def AccEntry.val (e : AccEntry) : Int := e.q.toInt
/-- Adds a contribution (c, y) of a format; the Boolean says that the entry saturated now (R44, R45). -/
def accAdd (e : AccEntry) (c y : Int) (fmt : Nat) : AccEntry × Bool :=
  if !tagValid e.tag then ({ q := BitVec.ofInt 32 c, tag := mkTag (tagSat e.tag) (tagMix e.tag) fmt true y }, false)
  else
    let f := tagFmt e.tag
    let mix := tagMix e.tag || decide (f ≠ fmt)
    let fm := if f < fmt then fmt else f
    let x := tagX e.tag
    let done : Int → Int → Bool → AccEntry × Bool := fun q x sat =>
      ({ q := BitVec.ofInt 32 q, tag := mkTag (tagSat e.tag || sat) mix fm true x }, sat)
    let cs := c * 2 ^ (y - x).toNat
    let qs := e.val * 2 ^ (x - y).toNat
    if x < y && !fits32 cs then done (clamp32 c) x true
    else if y < x && !fits32 qs then done (clamp32 e.val) y true
    else
      let sum := qs + cs
      let xx := if y < x then y else x
      if fits32 sum then done sum xx false else done (clamp32 sum) xx true
/-- The integer combine of R68: an entry with no value passes the other. -/
def accCombine (a b : AccEntry) : AccEntry × Bool :=
  if !tagValid b.tag then (a, false)
  else if !tagValid a.tag then (b, false)
  else
    let r := accAdd a b.val (tagX b.tag) (tagFmt b.tag)
    ({ r.1 with tag := r.1.tag ||| (b.tag &&& 0xC000) }, r.2)

/-- One level of the tree of R67. -/
def treeLevel {α : Type} (f : α → α → α) : List α → List α
  | a :: b :: rest => f a b :: treeLevel f rest
  | xs => xs
def treeFuel {α : Type} (f : α → α → α) : Nat → List α → List α
  | 0, xs => xs
  | n + 1, xs => match xs with
    | [] => []
    | [x] => [x]
    | _ => treeFuel f n (treeLevel f xs)
/-- Combines contributors in the fixed tree (R67). -/
def tree {α : Type} (f : α → α → α) (xs : List α) : Option α := (treeFuel f xs.length xs).head?

end Sys2Proof.Machine
end

