-- ==== Sys2Proof/Machine/Range.lean ====
section
/-! DEFINITION. The range table and monitor (R78 to R82), the stream registry (R64 to R66, R187). -/

namespace Sys2Proof.Machine

/-! ### Range table (R79 to R82) -/

/-- THRESH, KEEP, ESC_DIS and REF of PART_PREC_CTRL (Table 4.7). -/
def Part.precThresh (P : Part) : Nat := bitsOf P.precCtrl.toNat 20 16
def Part.precKeep (P : Part) : Bool := P.precCtrl.getLsbD 29
def Part.precEscDis (P : Part) : Bool := P.precCtrl.getLsbD 30
def Part.precRef (P : Part) : Bool := P.precCtrl.getLsbD 31
/-- Partition address of a layer's entry; `none` when it is not below ENTRIES (R79, R80). -/
def Part.rangeEntry (P : Part) (layer : Nat) : Option Nat :=
  if layer < bitsOf P.rangeBase.toNat 63 48 then some (bitsOf P.rangeBase.toNat 39 8 * 256 + 256 * layer) else none
/-- Control word of an entry (Table 4.5). -/
structure RangeCtrl where
  escOff : Bool
  pin    : Nat
  thresh : Nat
  limit  : Nat
  deriving DecidableEq, Repr
def rangeCtrl (w : Nat) : RangeCtrl :=
  { escOff := bitOf w 31, pin := bitsOf w 30 28, thresh := bitsOf w 23 16, limit := bitsOf w 15 0 }
/-- See log 34, DEDUCED. -/
def RangeCtrl.none : RangeCtrl := { escOff := false, pin := 0, thresh := 0, limit := 0 }
/-- CTRL of a layer as it stands in memory; zero without an entry. (log 34, DEDUCED) -/
def State.rangeCtrlOf (s : State) (p layer : Nat) : RangeCtrl :=
  match (s.pt p).rangeEntry layer with
  | some a => rangeCtrl (leNat (s.partRd p a 4))
  | none => RangeCtrl.none

/-- Nightwatch reads a field of a range-table entry; what it cannot read counts as zero (R459). (log 67, DEDUCED) -/
def State.entryRd (s : State) (p : Fin 64) (a n : Nat) : State × List Byte :=
  match s.structRd p a n with
  | (.ok b, s1) => (s1, b)
  | (.error _, s1) => (s1, List.replicate n 0)
/-- A task takes a layer's entry (R80, R81): OWNER, and with KEEP 0 NEXT and the VALID bits cleared. -/
def State.takeEntry (s : State) (T : Task) (layer a : Nat) : State :=
  let p := T.id.part
  let s1 := s.structWr p (a + 8) (leBytes 8 T.id.hnd.toNat)
  let s2 := if T.keep then s1 else
    (List.range 4).foldl (fun (s : State) j =>
      let va := a + 64 + 48 * j + 7
      let r := s.entryRd p va 1
      r.1.structWr p va [BitVec.ofNat 8 (leNat r.2 % 128)]) (s1.structWr p (a + 4) [0, 0, 0, 0])
  let r := s2.entryRd p (a + 4) 4
  r.1.modPt p.val fun P => { P with
    rangeOwner := mset 0 P.rangeOwner layer T.id.hnd
    rangeInv := mset LayerInv.none P.rangeInv layer { LayerInv.none with first := BitVec.ofNat 32 (leNat r.2) } }
/-- The number of the next invocation of a layer by cluster c (R79, R454): the n-th invocation of a layer on every cluster of a task,
counted from the last boundary, is one invocation, and NEXT moves on when the first cluster issues it. (log 34, DEDUCED) -/
def State.takeInvoc (s : State) (T : Task) (c layer a : Nat) : State × BitVec 32 :=
  let p := T.id.part
  let L := mget LayerInv.none (s.pt p.val).rangeInv layer
  let n := mget 0 L.issued c
  let k := L.first + BitVec.ofNat 32 n
  let fresh := L.issued.all fun kv => decide (kv.2 ≤ n)
  let L1 : LayerInv := { L with
    issued := mset 0 L.issued c (n + 1)
    pend := if fresh then L.pend ++ [(n, 0, 0, Mon.zero)] else L.pend }
  let s1 := s.modPt p.val fun P => { P with rangeInv := mset LayerInv.none P.rangeInv layer L1 }
  (if fresh then s1.structWr p (a + 4) (leBytes 4 (k + 1).toNat) else s1, k)
/-- The record of an invocation of the running task is still to come (R82). -/
def State.invocPending (s : State) (p layer : Nat) (k : BitVec 32) : Bool :=
  let L := mget LayerInv.none (s.pt p).rangeInv layer
  L.pend.any fun x => decide (L.first + BitVec.ofNat 32 x.1 = k)

/-- Clips allowed bins above S of a width format: 4, 2, 1 for A8, A4, A2 (Table 4.3). -/
def binS (f : Nat) : Nat := if f = 2 then 4 else if f = 1 then 2 else 1
/-- A history record as far as R82 reads it. -/
structure RangeRec where
  invoc : BitVec 32
  valid : Bool
  elems : Nat
  hist  : List Nat
  deriving DecidableEq, Repr
def State.rangeRecs (s : State) (p : Fin 64) (a : Nat) : State × List RangeRec :=
  let r := s.entryRd p (a + 64) 192
  (r.1, (List.range 4).map fun j =>
    let b := (r.2.drop (48 * j)).take 48
    { invoc := BitVec.ofNat 32 (fieldAt b 0 4), valid := bitOf (fieldAt b 4 4) 31, elems := fieldAt b 8 4
      hist := (List.range 16).map fun i => fieldAt b (16 + 2 * i) 2 })
/-- The automatic choice (R82): 0 A2 to 3 A16. -/
def chooseFmt (rs : List RangeRec) (thresh : Nat) : Nat :=
  if rs.isEmpty then 2 else
  [2, 1, 0].foldl (fun f g =>
    if rs.all fun r => decide ((r.hist.drop (binS g + 1)).foldl (· + ·) 0 * 2 ^ thresh < r.elems) then g else f) 3
/-- Format of invocation k of a layer, for the PIN and the threshold that its issue read. (log 34, DEDUCED) -/
def State.invocFmt (s : State) (p : Fin 64) (layer : Nat) (k : BitVec 32) (ref : Bool) (pin thresh : Nat) : State × Nat :=
  match (s.pt p.val).rangeEntry layer with
  | none => (s, if ref then 3 else 2)
  | some a =>
    if ref then (s, 3)
    else if pin ≠ 0 then (s, pin - 1)
    else
      let r := s.rangeRecs p a
      let rs := r.2.filter fun r => r.valid && decide (r.elems ≠ 0) &&
        [2, 3, 4].any fun d => decide (r.invoc = k - BitVec.ofNat 32 d)
      (r.1, chooseFmt rs thresh)

/-! ### The monitor (R78) -/

def capN (m n : Nat) : Nat := if m < n then m else n
/-- Merges two observations. -/
def Mon.merge (a b : Mon) : Mon :=
  let bigger := decide (a.maxExp < b.maxExp) || (decide (a.maxExp = b.maxExp) && decide (a.maxMant < b.maxMant))
  { elements := capN 0xFFFFFFFF (a.elements + b.elements), clips := capN 0xFFFFFFFF (a.clips + b.clips)
    maxExp := if bigger then b.maxExp else a.maxExp, maxMant := if bigger then b.maxMant else a.maxMant
    hist := (List.range 16).foldl (fun m j => mset 0 m j (capN 0xFFFF (mget 0 a.hist j + mget 0 b.hist j))) [] }
/-- Clipped positions of a row at a set of formats (bit f of the mask). -/
def rowClips (mask : Nat) (row : List Px) : Nat :=
  let marks := ((List.range 3).filter fun f => bitOf mask f).map fun f =>
    (List.range row.length).map fun i =>
      match nth (.val 0 0) row i with
      | .val q x =>
        let cap := ceilingOf (fmtW f) (((chunksOf 32 row).drop (5 * (i / 160))).take 5 |>.map (fitExp (fmtW f)))
        let fe := fitExp (fmtW f) ((row.drop (32 * (i / 32))).take 32)
        let eb : Int := match fe with
          | none => 0
          | some v => clampInt 0 255 (match cap with | some cc => if cc < v then cc else v | none => v)
        decide (q ≠ 0) && decide ((fmtW f : Int) < bitLen q + x - eb)
      | _ => false
  (List.range row.length).countP fun i => marks.any fun m => nth false m i
/-- What one row of an AUTO operand adds. -/
def monRow (mask : Nat) (row : List Px) : Mon :=
  let big := row.foldl (fun (b : Nat × Nat) x => match x with
    | .val q e => if q = 0 then b else
        let m := magOf q e
        if b.1 < m.1 ∨ (b.1 = m.1 ∧ b.2 < m.2) then m else b
    | _ => b) (0, 0)
  let bins := (chunksOf 5 (chunksOf 32 row)).flatMap winBins
  { elements := row.length, clips := rowClips mask row, maxExp := big.1, maxMant := big.2
    hist := bins.foldl (fun m b => mset 0 m b (mget 0 m b + 1)) [] }
/-- Bytes of a history record (Table 4.6); MAX_EXP stops at 255 (R78). -/
def recBytes (k : BitVec 32) (fmt : Nat) (m : Mon) : List Byte :=
  leBytes 4 k.toNat ++ leBytes 4 (2 ^ 31 + fmt * 2 ^ 24 + capN 255 m.maxExp * 2 ^ 16 + m.maxMant) ++ leBytes 4 m.elements
    ++ leBytes 4 m.clips ++ (List.range 16).flatMap fun j => leBytes 2 (mget 0 m.hist j)
/-- A pending invocation has finished (R79): every cluster that issued it has contributed, and every other cluster of the task has
ended or faulted, so that it will issue none. (log 34, DEDUCED) -/
def State.invocDone (s : State) (T : Task) (L : LayerInv) (x : Nat × Nat × Nat × Mon) : Bool :=
  let has : Nat → Bool := fun c => decide (x.1 < mget 0 L.issued c)
  decide (T.clusters.countP has ≤ x.2.1) &&
    T.clusters.all fun c => has c || decide ((s.cl c).seq.run = .ended) || decide ((s.cl c).seq.run = .faulted)
/-- Writes the records of some pending invocations of a layer, each once (R78, R79, R85). -/
def State.rangePut (s : State) (T : Task) (layer : Nat) (done : Nat × Nat × Nat × Mon → Bool) : State :=
  let p := T.id.part
  let L := mget LayerInv.none (s.pt p.val).rangeInv layer
  let out := L.pend.filter done
  if out.isEmpty then s else
  let s1 := s.modPt p.val fun P => { P with
    rangeInv := mset LayerInv.none P.rangeInv layer { L with pend := L.pend.filter fun x => !done x } }
  match (s.pt p.val).rangeEntry layer with
  | none => s1
  | some a => out.foldl (fun (s : State) x =>
      let k := L.first + BitVec.ofNat 32 x.1
      s.structWr p (a + 64 + 48 * (k.toNat % 4)) (recBytes k x.2.2.1 x.2.2.2)) s1
/-- Writes the records of a layer's invocations that have finished. -/
def State.rangeFlush (s : State) (T : Task) (layer : Nat) : State :=
  s.rangePut T layer (s.invocDone T (mget LayerInv.none (s.pt T.id.part.val).rangeInv layer))
/-- At a boundary every invocation issued has finished: the records are written, and the clusters count on from the same number. (log
34, DEDUCED) -/
def State.rangeClose (s : State) (T : Task) (layer : Nat) : State :=
  let p := T.id.part.val
  (s.rangePut T layer fun _ => true).modPt p fun P =>
    let L := mget LayerInv.none P.rangeInv layer
    let most := L.issued.foldl (fun m kv => if m < kv.2 then kv.2 else m) 0
    { P with rangeInv := mset LayerInv.none P.rangeInv layer { L with issued := T.clusters.foldl (fun m c => mset 0 m c most) L.issued } }
/-- Layers whose entry a task owns. -/
def State.rangeOwned (s : State) (T : Task) : List Nat :=
  ((s.pt T.id.part.val).rangeInv.map (·.1)).filter fun l => decide (mget 0 (s.pt T.id.part.val).rangeOwner l = T.id.hnd)
/-- What has finished is written, for every layer that a task owns. -/
def State.rangeFlushAll (s : State) (T : Task) : State := (s.rangeOwned T).foldl (fun (s : State) l => s.rangeFlush T l) s
/-- The same at a boundary. -/
def State.rangeCloseAll (s : State) (T : Task) : State := (s.rangeOwned T).foldl (fun (s : State) l => s.rangeClose T l) s
/-- A cluster's observations of an invocation are merged; with the last of them the record is written (R78, R79). (log 34, DEDUCED) -/
def State.rangeMerge (s : State) (T : Task) (layer : Nat) (k : BitVec 32) (fmt : Nat) (m : Mon) : State :=
  let p := T.id.part
  let L := mget LayerInv.none (s.pt p.val).rangeInv layer
  let wider : Nat → Nat := fun f => if f < fmt then fmt else f
  (s.modPt p.val fun P => { P with rangeInv := mset LayerInv.none P.rangeInv layer { L with
      pend := L.pend.map fun y => if L.first + BitVec.ofNat 32 y.1 = k then (y.1, y.2.1 + 1, wider y.2.2.1, y.2.2.2.merge m) else y } }).rangeFlush T layer

/-! ### The stream registry (R64 to R66) -/

/-- Two claims of one seed overlap. -/
def Claim.hits (c : Claim) (seed : Word) (lo hi : BitVec 32) : Bool :=
  decide (c.seed = seed) && decide (c.lo.toNat ≤ hi.toNat) && decide (lo.toNat ≤ c.hi.toNat)
/-- Adds a claim: overlap with another owner first, then capacity (R66). -/
def Part.claim (P : Part) (x : Claim) : Part × BitVec 16 :=
  let other : Claim → Bool := fun c => !(decide (c.task = x.task) && decide (c.handle = x.handle))
  if !x.permit && P.claims.any (fun c => other c && c.hits x.seed x.lo x.hi) then
    ({ P with rngFaults := satAdd P.rngFaults 1 }, stStreamAlias)
  else if 256 ≤ P.claims.length then (P, stStreamLimit)
  else ({ P with claims := P.claims ++ [x] }, 0)
/-- Identifiers that a destination of n elements draws at expert level. -/
def expertIds (field n : Nat) : List (BitVec 32) :=
  (List.range ((n - 1) / 2 ^ 20 + 1)).map fun i => streamId field 0 (i * 2 ^ 20)
/-- The claims of the task that hold an identifier. -/
def Part.claimsOf (P : Part) (T : Task) (id : BitVec 32) : List Claim :=
  P.claims.filter fun c => decide (c.task = T.id) && c.hits T.seed id id
/-- STREAM_UNCLAIMED of an instruction that rounds stochastically into n elements (R187). -/
def State.unclaimed (s : State) (c : Nat) (field n : Nat) : Bool :=
  bitOf field 31 && match s.taskOn c with
    | some T => (expertIds field n).any fun id => ((s.pt T.id.part.val).claimsOf T id).isEmpty
    | none => false
/-- Stochastic rounding of an instruction begins: basic-level claim or permit of the expert one. The Boolean is ALIASED. -/
def State.drawStream (s : State) (c : Nat) (field n : Nat) : State × Except (BitVec 16) Bool :=
  match s.taskOn c with
  | none => (s, .ok false)
  | some T =>
    let p := T.id.part.val
    if 2 ^ 32 < n then (s, .error stStreamRange)
    else if bitOf field 31 then
      (s, .ok ((expertIds field n).any fun id => ((s.pt p).claimsOf T id).any (·.permit)))
    else if (s.pt p).claims.any fun x => decide (x.task = T.id) && decide (x.handle = 0) then (s, .ok false)
    else
      let r := (s.pt p).claim { seed := T.seed, lo := 0, hi := 0x7FFFFFFF, task := T.id, handle := 0, permit := false }
      let s1 := s.setPt p r.1
      (s1, if r.2 = 0 then .ok false else .error r.2)
/-- Seed of a job's task. -/
def State.seedOf (s : State) (c : Nat) : Word := match s.taskOn c with | some T => T.seed | none => 0

end Sys2Proof.Machine
end

