-- ==== Sys2Proof/Machine/Convert.lean ====
section
/-! DEFINITION. Conversion of a tensor of pairs to a destination format (R53, R55 to R57, R74 to R76, R103), with the status
flags that it collects. -/

namespace Sys2Proof.Machine

/-- One element to be converted: pair, entry tag flags, and whether it is an entry that never received a value. -/
structure Src where
  px    : Px
  valid : Bool
  mix   : Bool
  sat   : Bool
  fmt   : Nat
  deriving DecidableEq, Repr
def Src.none : Src := { px := .val 0 0, valid := false, mix := false, sat := false, fmt := 0 }

/-- Where a conversion rounds and what stands for undefined elements. -/
structure Cv where
  rnd   : Nat → Rnd
  free  : Nat → Word
  /-- R55's rule for a float overflow: the largest finite value and SAT. -/
  satF  : Bool
  ox    : Int
  /-- The flag byte's MIX comes from the entries (R57) and not 0 (R103). -/
  drain : Bool

/-- Blocks of a destination, row by row (R70, R75). -/
def cvBlocks (k : Cv) (t : Ten) (xs : List Src) : List (List Blk) :=
  (List.range t.rowsOf).map fun r =>
    narrowRow (blkW t.fmt) (fun i => k.rnd (r * t.e 0 + i)) (fun i => k.free (r * t.e 0 + i))
      (((xs.drop (r * t.e 0)).take (t.e 0)).map (·.px))
/-- PS16 blocks: the elements by dense position (R56, R57). Where a block gathers elements of several formats, its FMT is the widest.
(log 77, DESIGN CHOICE) -/
def cvPs16 (k : Cv) (t : Ten) (xs : List Src) : List PsOut × Bool :=
  let idx := (List.range xs.length).map fun i => ((t.pos i).toNat, i)
  let blks := (idx.map fun x => x.1 / 32).eraseDups
  let outs := blks.map fun b =>
    let here := idx.filter fun x => decide (x.1 / 32 = b)
    let es := here.map fun x => nth Src.none xs x.2
    let r := ps16Blk (fun n => k.rnd (nth (0, 0) here n).2) (fun n => k.free (nth (0, 0) here n).2) (es.map (·.px))
    let vs := es.filter (·.valid)
    let fm := (if vs.isEmpty then es else vs).foldl (fun m e => if m < e.fmt then e.fmt else m) 0
    let sat := r.2.2 || vs.any (·.sat)
    let mix := k.drain && vs.any (·.mix)
    (({ pos := b * 32, mant := List.zip (here.map (·.1)) r.1, exp := r.2.1
        fl := if es.any (·.px.isUndef) then bitsOf (k.free (nth (0, 0) here 0).2).toNat 51 48 * 16
              else bool2 sat * 128 + bool2 mix * 64 + fm * 16 } : PsOut), r.2.2)
  (outs.map (·.1), outs.any (·.2))
/-- Converts all elements of a destination: what is stored, and the flags. An entry that saturated before is not counted again (R46). -/
def convert (k : Cv) (t : Ten) (xs : List Src) : Out × Stat :=
  if isBlk t.fmt then
    let rows := cvBlocks k t xs
    let n := (rows.flatMap fun r => r.map (·.clips)).foldl (· + ·) 0
    (.blocks rows, { clip := decide (0 < n), clips := n, sat := rows.any fun r => r.any (·.sat) })
  else if t.fmt = 0x21 then
    let r := cvPs16 k t xs
    (.ps16 r.1, { sat := r.2 })
  else if t.fmt = 0x20 then
    let r := (List.range xs.length).map fun i => pxI32 k.ox (k.free i) (nth Src.none xs i).px
    let n := (List.zip r xs).countP fun x => x.1.2 && !x.2.sat
    (.plain (r.map fun x => (x.1 % 2 ^ 32).toNat), { sat := r.any (·.2), satCnt := n })
  else
    let r := (List.range xs.length).map fun i =>
      pxFloat (fracBits t.fmt) k.satF (k.rnd i) (k.free i) (nth Src.none xs i).px
    (.plain (r.map (·.bits)), r.foldl (fun st x => st.or x.st) {})

end Sys2Proof.Machine
end

