-- ==== Sys2Proof/Machine/Vector.lean ====
section
/-! DEFINITION. The vector class (CLASS 0x05): VEW with its reduce tap, VRED, VARG and VCVT (R91 to R107, R165, R166). -/

namespace Sys2Proof.Machine

/-! ### Fields (Table 8.10) -/

def vSrcc (w : Word) : Nat := fld w 30 27
def vRnd (w : Word) : Bool := bitOf w.toNat 26
def vTap (w : Word) : Nat := fld w 25 24
def vTapd (w : Word) : Nat := fld w 23 20
def vDims (w : Word) : Nat := fld w 19 18 + 1
def vOx (w : Word) : Int := sextNat (fld w 17 8) 10
def vIdxd (w : Word) : Nat := fld w 7 4
def vTapOp (w : Word) : Option RedOp := if vTap w = 1 then some .sum else if vTap w = 2 then some .max else if vTap w = 3 then some .min else none

/-- Sources of an elementwise operation (Table 8.11). -/
def VewOp.arity : VewOp → Nat
  | .add | .sub | .max | .min | .mul | .div | .pow => 2
  | .muladd => 3
  | .abs | .neg | .sqrt | .rsqrt | .exp2 | .exp | .log2 | .log | .sigm | .silu => 1
/-- Operations that take I32 operands (R92). -/
def VewOp.intOk : VewOp → Bool
  | .add | .sub | .max | .min | .abs | .neg => true
  | _ => false

/-! ### Elements -/

/-- One written element with its flags; `bad` when it depends on undefined data. -/
structure VOut where
  bits : Nat
  st   : Stat
  bad  : Bool
  deriving DecidableEq, Repr

/-- An I32 result that saturates sets OVF (R100). -/
def i32Out (v : Int) : VOut :=
  let c := clampInt (-(2 ^ 31)) (2 ^ 31 - 1) v
  { bits := (c % 2 ^ 32).toNat, st := { ovf := decide (v ≠ c) }, bad := false }
/-- An elementwise operation on I32 operands. -/
def vewInt (o : VewOp) (a b : Int) : VOut :=
  match o with
  | .add => i32Out (a + b)
  | .sub => i32Out (a - b)
  | .max => i32Out (if b ≤ a then a else b)
  | .min => i32Out (if a ≤ b then a else b)
  | .abs => i32Out (if a < 0 then -a else a)
  | .neg => i32Out (-a)
  | _ => i32Out 0
/-- An elementwise operation on floats for a destination with p fraction bits: result and flags of the product step,
whose own FLUSH does not count (R101). (log 36, DEDUCED) -/
def vewFloat (o : VewOp) (p : Nat) (a b c : Fv) : Fr × Stat :=
  match o with
  | .add => (fAdd a b, {})
  | .sub => (fSub a b, {})
  | .max => (fMax a b, {})
  | .min => (fMin a b, {})
  | .abs => (fAbs a, {})
  | .neg => (fNeg a, {})
  | .mul => (fMul p a b, {})
  | .div => (fDiv p a b, {})
  | .muladd =>
    match firstNan [a, b, c] with
    | some x => (.nan x, {})
    | none => (let m := frWrite 23 .near 0 (fMul 23 a b); (fAdd (fvRead 23 m.bits) c, { m.st with flush := false }))
  | .sqrt => (fRoot false p a, {})
  | .rsqrt => (fRoot true p a, {})
  | .exp2 => (fExp false p a, {})
  | .exp => (fExp true p a, {})
  | .log2 => (fLog false p a, {})
  | .log => (fLog true p a, {})
  | .pow => (fPow p a b, {})
  | .sigm => (fSigm p a, {})
  | .silu => (fSilu p a, {})
/-- An undefined element of a format. (log 37, DEDUCED) -/
def vFree (fmt : Nat) (free : Word) : VOut :=
  if fmt = 0x20 then { bits := free.toNat % 2 ^ 32, st := { ovf := free.getLsbD 62 }, bad := true }
  else (let o := frWrite (fracBits fmt) .near free .free; { bits := o.bits, st := o.st, bad := true })
/-- Element of a VEW from its raw sources; `fs` are the sources' formats. -/
def vewElt (o : VewOp) (dfmt : Nat) (fs : List Nat) (free : Word) (rs : List Raw) : VOut :=
  if rs.any fun r => r.bad.isSome then vFree dfmt free
  else
    let r : Nat → Raw := fun i => nth { val := 0, exp := 0, fl := 0, bad := none } rs i
    if dfmt = 0x20 then vewInt o (r 0).val (r 1).val
    else
      let f : Nat → Fv := fun i => if i < rs.length then rawFv (nth 0 fs i) (r i) else .zero false false
      let p := fracBits dfmt
      let x := vewFloat o p (f 0) (f 1) (f 2)
      let y := frWrite p .near free x.1
      { bits := y.bits
        st := (x.2.or y.st).or { flush := (List.range rs.length).any fun i => (f i).isSub }
        bad := false }

/-! ### Reductions (R67 to R69, R105 to R107) -/

/-- A value to be reduced. -/
structure RElt where
  fv  : Fv
  int : Int
  bad : Bool
  deriving DecidableEq, Repr
def RElt.zero : RElt := { fv := .zero false false, int := 0, bad := false }

/-- A node of the tree: value, lowest index covered, flags. -/
structure RNode where
  fv  : Fv
  int : Int
  low : Nat
  st  : Stat
  deriving DecidableEq, Repr
/-- Combines two nodes of a sum (R68); FLUSH is that of the last combine (R101). -/
def sumNode (i32 : Bool) (rnd : Nat → Rnd) (a b : RNode) : RNode :=
  if i32 then
    let o := i32Out (a.int + b.int)
    { a with int := sextNat o.bits 32, st := (a.st.or b.st).or o.st }
  else
    let r := fvAdd32 (rnd b.low) a.fv b.fv
    { a with fv := r.1, st := { (a.st.or b.st).or r.2 with flush := r.2.flush } }
/-- Position of the winner (R69): the lowest-indexed NaN, else the best value with the lower index on a tie. -/
def winner (mx : Bool) (xs : List RElt) : Nat :=
  match xs.findIdx? fun x => match x.fv with | .nan _ => true | _ => false with
  | some i => i
  | none => (List.range xs.length).foldl (fun b i =>
      let x := (nth RElt.zero xs i).fv
      let y := (nth RElt.zero xs b).fv
      if mx then (if fvLe x y then b else i) else (if fvLe y x then b else i)) 0
/-- A finished sum in the destination format; `cvt` rounds a BF16 destination (R106). -/
def sumOut (dfmt : Nat) (cvt : Rnd) (n : RNode) : VOut :=
  if dfmt = 0x20 then { bits := (n.int % 2 ^ 32).toNat, st := n.st, bad := false }
  else if dfmt = 0x30 then
    let o := frWrite 7 cvt 0 n.fv.res
    { bits := o.bits, st := n.st.or o.st, bad := false }
  else { bits := fv32 n.fv, st := n.st, bad := false }
/-- How a sum rounds: additions by the source index, the conversion by the destination index. -/
structure SumRnd where
  add : Nat → Rnd
  cvt : Nat → Rnd
/-- One reduction result: element and winning index. `base` is the source index of its first element, `di` its own. -/
def redOne (o : RedOp) (dfmt : Nat) (k : SumRnd) (free : Word) (base di : Nat) (xs : List RElt) : VOut × Nat :=
  if xs.any (·.bad) then (vFree dfmt free, (free >>> 32).toNat)
  else
    let sub := xs.any fun x => x.fv.isSub
    match o with
    | .sum =>
      let ns := (List.range xs.length).map fun i =>
        let x := nth RElt.zero xs i
        ({ fv := x.fv, int := x.int, low := base + i, st := {} } : RNode)
      match tree (sumNode (decide (dfmt = 0x20)) k.add) ns with
      | none => (vFree dfmt free, 0)
      | some n => (let y := sumOut dfmt (k.cvt di) n; ({ y with st := y.st.or { flush := sub } }, 0))
    | _ =>
      let i := winner (decide (o = .max)) xs
      let y := frWrite (fracBits dfmt) .near free (nth RElt.zero xs i).fv.res
      ({ bits := y.bits, st := y.st.or { flush := sub }, bad := false }, i)
/-- Elements in one result: the lowest D extents. -/
def redLen (t : Ten) (d : Nat) : Nat := ((List.range d).map t.e).foldl (· * ·) 1
/-- All results of a reduction over elements in linear order. -/
def reduce (o : RedOp) (src : Ten) (d dfmt : Nat) (k : SumRnd) (free : Nat → Word) (xs : List RElt) : List (VOut × Nat) :=
  let n := redLen src d
  (List.range (xs.length / n)).map fun i => redOne o dfmt k (free i) (i * n) i ((xs.drop (i * n)).take n)
/-- The shape of a reduction's destination (R105). -/
def redShapeBad (src dst : Ten) (d : Nat) : Bool :=
  decide (src.rank ≠ dst.rank) || (List.range 4).any fun i => if i < d then decide (dst.e i ≠ 1) else decide (dst.e i ≠ src.e i)
/-- Reads an element for a reduction. -/
def rawElt (fmt : Nat) (r : Raw) : RElt :=
  { fv := if fmt = 0x20 then .zero false false else rawFv fmt r, int := r.val, bad := r.bad.isSome }
/-- An element as a VEW wrote it. -/
def outElt (fmt : Nat) (v : VOut) : RElt :=
  { fv := if fmt = 0x20 then .zero false false else fvRead (fracBits fmt) v.bits, int := sextNat v.bits 32, bad := v.bad }

/-! ### Stochastic rounding of the class (R103, R106, R165) -/

/-- Stream field and element count when the instruction rounds stochastically: VCVT to a format other than I32, or a
floating-point sum with RND. -/
def vDraw (op : TOp) (w : Word) (ref : Bool) (ts : List Ten) : Option (Nat × Nat) :=
  let t : Nat → Ten := fun i => nth (decDesc 0) ts i
  if !vRnd w || ref then none else
  match op with
  | .vcvt => if (t 0).fmt = 0x20 then none else some ((t 0).strm, (t 0).count)
  | .vred .sum => if (t 1).fmt = 0x20 then none else some ((t 0).strm, (t 1).count)
  | .vew _ => if vTap w = 1 && decide ((t 0).fmt ≠ 0x20) then some ((t (ts.length - 1)).strm, (t 0).count) else none
  | _ => none
/-- Rounding of a sum. -/
def sumRnd (s : State) (c : Nat) (on : Bool) (field : Nat) : SumRnd :=
  let sel : Nat → RndSel := fun site => { stoch := on, seed := s.seedOf c, field := field, site := site, pass := 0 }
  { add := (sel 3).at, cvt := (sel 4).at }

/-! ### Overlap (R96) -/

/-- Bytes that hold element i of a dense tensor, from the start of its space. -/
def Ten.foot (t : Ten) (i : Nat) : List (Nat × Nat) :=
  if t.xc then [(t.span.1.toNat, t.spanLen)] else
  let a := denseAddr t.fmt (t.pos i).toNat
  (t.base + a.1, a.2.1) :: ((match a.2.2.1 with | some x => [(t.base + x, 1)] | none => [])
    ++ (match a.2.2.2 with | some x => [(t.base + x, 1)] | none => []))
/-- Two tensors take the same bytes in the same way. -/
def Ten.inPlace (x : Cluster) (a b : Ten) : Bool :=
  decide (a.fmt = b.fmt) && decide (a.xc = b.xc) && decide (a.off = b.off) && decide (a.ext = b.ext) && decide (a.str = b.str)
    && decide (winBase (mget 0 x.win a.win) = winBase (mget 0 x.win b.win))
def rangesMeet (a b : Nat × Nat) : Bool := decide (a.1 < b.1 + b.2) && decide (b.1 < a.1 + a.2) && decide (0 < a.2) && decide (0 < b.2)
/-- Elements of the destination that overlap a source other than in place. (log 37, DEDUCED) -/
def overlapped (x : Cluster) (dst : Ten) (srcs : List Ten) (i : Nat) : Bool :=
  srcs.any fun b =>
    if dst.inPlace x b || !rangesMeet (physSpan x dst) (physSpan x b) then false
    else
      let w := mget 0 x.win b.win
      let fs := (dst.foot i).map fun r => (winPhys (mget 0 x.win dst.win) r.1, r.2)
      (List.range b.count).any fun k => (b.foot k).any fun r => fs.any fun f => rangesMeet f (winPhys w r.1, r.2)

/-! ### Completion -/

/-- Counts of CLS_VEC_STATUS (Table 5.3); every element that sets OVF counts, ABS and NEG of I32 too. (log 77, DESIGN CHOICE) -/
def State.vecCount (s : State) (c : Nat) (sts : List Stat) (inv : Bool) : State :=
  s.modCl c fun x => { x with
    flushes := satAdd x.flushes (sts.countP (·.flush))
    overflows := satAdd x.overflows (sts.countP (·.ovf))
    invalids := if inv then satAdd x.invalids (sts.countP (·.inv)) else x.invalids }
/-- Flags of elements, merged. -/
def statOf (sts : List Stat) : Stat := sts.foldl (fun a b => a.or b) {}
/-- Raw elements of a scratchpad tensor of a job. -/
def Job.rawsOf (x : Cluster) (j : Job) (t : Ten) : List Raw := t.raws (jobRd x j t.win)
/-- Touches the sources and reports what reading them met. -/
def State.readSrcs (s : State) (c u : Nat) (j : Job) (ts : List Ten) : State × List (List Raw) :=
  let s1 := ts.foldl (fun s t => s.touchTen c t) s
  let rs := ts.map fun t => j.rawsOf (s1.cl c) t
  (s1.readFault c u j ts rs.flatten, rs)

/-- Runs a VEW (R93 to R96, R104): DST is stored, then TAPD, over it where they overlap. (log 77, DESIGN CHOICE) -/
def runVew (o : VewOp) (c : Nat) (j : Job) (s : State) : State × Stat :=
  let w := j.word
  let dst := j.ten 0
  let srcs := (List.range o.arity).map fun i => j.ten (i + 1)
  let r := s.readSrcs c 1 j srcs
  let s1 := r.1
  let x := s1.cl c
  let n := dst.count
  let els := (List.range n).map fun i =>
    if overlapped x dst srcs i then vFree dst.fmt (s1.freeAt i)
    else vewElt o dst.fmt (srcs.map (·.fmt)) (s1.freeAt i) (r.2.map fun l => nth { val := 0, exp := 0, fl := 0, bad := none } l i)
  let s2 := s1.storeOut c 1 dst (wE w) (.plain (els.map (·.bits)))
  let tp : State × List Stat := match vTapOp w with
    | none => (s2, [])
    | some ro =>
      let td := j.ten (j.descs.length - 1)
      let k := sumRnd s2 c (vDraw j.op w j.ref (j.descs.map decDesc)).isSome td.strm
      let rs := reduce ro dst (vDims w) td.fmt k (fun i => s2.freeAt (n + i)) (els.map (outElt dst.fmt))
      (s2.storeOut c 1 td (wE w) (.plain ((List.range rs.length).map fun i =>
          if overlapped x td srcs i then (vFree td.fmt (s2.freeAt (n + i))).bits
          else (nth ({ bits := 0, st := {}, bad := false }, 0) rs i).1.bits)), rs.map fun y => y.1.st)
  let sts := els.map (·.st) ++ tp.2
  ((tp.1.vecCount c sts true).bump (2 * n), statOf sts)
/-- Runs a VRED or VARG: DST is stored, then IDXD, over it where they overlap. (log 77, DESIGN CHOICE) -/
def runRed (o : RedOp) (arg : Bool) (c : Nat) (j : Job) (s : State) : State × Stat :=
  let w := j.word
  let dst := j.ten 0
  let src := j.ten 1
  let r := s.readSrcs c 1 j [src]
  let s1 := r.1
  let x := s1.cl c
  let k := sumRnd s1 c (vDraw j.op w j.ref (j.descs.map decDesc)).isSome dst.strm
  let rs := reduce o src (vDims w) dst.fmt k (fun i => s1.freeAt i) ((nth [] r.2 0).map (rawElt src.fmt))
  let bits := (List.range rs.length).map fun i =>
    if overlapped x dst [src] i then (vFree dst.fmt (s1.freeAt i)).bits else (nth ({ bits := 0, st := {}, bad := false }, 0) rs i).1.bits
  let s2 := s1.storeOut c 1 dst (wE w) (.plain bits)
  let ix := j.ten 2
  let s3 := if arg then s2.storeOut c 1 ix (wE w) (.plain ((List.range rs.length).map fun i =>
      if overlapped x ix [src] i then (s1.freeAt i).toNat / 2 ^ 32
      else (nth ({ bits := 0, st := {}, bad := false }, 0) rs i).2 % 2 ^ 32)) else s2
  let sts := rs.map fun y => y.1.st
  ((s3.vecCount c sts true).bump rs.length, statOf sts)

/-- A source element of a VCVT as a pair (R103); the SAT bit of a PS16 source goes into no destination. (log 77, DESIGN CHOICE) -/
def cvtSrc (fmt : Nat) (bad : Bool) (r : Raw) : Src :=
  { px := if bad || r.bad.isSome then .undef else if fmt = 0x20 then .val r.val bias else rawPx fmt r
    valid := true, mix := false, sat := false
    fmt := if isBlk fmt then fmtNo fmt else if fmt = 0x21 then bitsOf r.fl 5 4 else 3 }
/-- Runs a VCVT (R103). (log 36, DEDUCED) -/
def runCvt (c : Nat) (j : Job) (s : State) : State × Stat :=
  let w := j.word
  let dst := j.ten 0
  let src := j.ten 1
  let r := s.readSrcs c 1 j [src]
  let s1 := r.1
  let x := s1.cl c
  let raws := nth [] r.2 0
  let n := dst.count
  let rnd : RndSel :=
    { stoch := (vDraw .vcvt w j.ref [dst, src]).isSome, seed := s1.seedOf c, field := dst.strm, site := 2, pass := 0 }
  let isF : Nat → Bool := fun f => f == 0x30 || f == 0x31
  let raw : Nat → Raw := nth { val := 0, exp := 0, fl := 0, bad := none } raws
  let bad : Nat → Bool := fun i => (raw i).bad.isSome || overlapped x dst [src] i
  let fv : Nat → Fv := fun i => if isF src.fmt && !bad i then rawFv src.fmt (raw i) else .zero false false
  let subs := (List.range n).map fun i => ({ flush := (fv i).isSub } : Stat)
  if isF dst.fmt then
    let p := fracBits dst.fmt
    let os := (List.range n).map fun i =>
      if isF src.fmt && !bad i then frWrite p (rnd.at i) (s1.freeAt i) (fv i).res
      else pxFloat p false (rnd.at i) (s1.freeAt i) (cvtSrc src.fmt (bad i) (raw i)).px
    let s2 := s1.storeOut c 1 dst (wE w) (.plain (os.map (·.bits)))
    let sts := (List.range n).map fun i => (nth { bits := 0, st := {} } os i).st.or (nth {} subs i)
    ((s2.vecCount c sts false).bump n, statOf sts)
  else
    let k := convert { rnd := rnd.at, free := fun i => s1.freeAt i, satF := false, ox := vOx w, drain := false } dst
      ((List.range n).map fun i => cvtSrc src.fmt (bad i) (raw i))
    let inv := (List.range n).any fun i => match fv i with | .nan _ => true | _ => false
    let s2 := s1.storeOut c 1 dst (wE w) k.1
    ((s2.vecCount c subs false).bump n, (statOf subs).or { k.2 with satCnt := 0, inv := inv })

/-- A vector instruction completes. -/
def vComplete (c : Nat) (j : Job) (s : State) : State :=
  if j.dead then s.finish c 1 j 0 else
  let r := match j.op with
    | .vew o => runVew o c j s
    | .vred o => runRed o false c j s
    | .varg o => runRed o true c j s
    | _ => runCvt c j s
  r.1.finish c 1 j (r.2.or { aliased := j.aliased }).word

/-! ### Issue -/

/-- Claims the stream of a job. -/
def drawAct (field n : Nat) (c : Nat) (j : Job) (s : State) : State × Except (BitVec 16) Job :=
  let r := s.drawStream c field n
  (r.1, match r.2 with | .error e => .error e | .ok al => .ok { j with aliased := al })
def vAct (c : Nat) (j : Job) (s : State) : State × Except (BitVec 16) Job :=
  match vDraw j.op j.word j.ref (j.descs.map decDesc) with
  | none => (s, .ok j)
  | some fn => drawAct fn.1 fn.2 c j s
/-- Cluster of an agent. -/
def agentCl (a : Agent) : Nat := match a with | .seq c => c.val | .core _ => 0
/-- BF16, FP32 or I32. -/
def vFmtOk (f : Nat) : Bool := f == 0x20 || f == 0x30 || f == 0x31
/-- XC_FORMAT (R227). -/
def xcBad (t : Ten) : Bool := t.xc && !xcAllowed t.fmt
def vForm (op : TOp) (code : Nat) (a : Agent) (w : Word) (os : List Opd) (k : TChk) (s : State) : TForm :=
  let ts := os.map (·.t)
  .mk code op os [] { k with
    space := ts.map fun t => decide (t.space = 0)
    stream := match vDraw op w (s.refMode (agentCl a)) ts with
      | some fn => s.unclaimed (agentCl a) fn.1 fn.2
      | none => false } vAct

/-- Checks of R92, R94 and R105 for a VEW. -/
def vewForm (o : VewOp) (code : Nat) (a : Agent) (w : Word) (s : State) : TForm :=
  let n := o.arity
  let tap := vTapOp w
  let dst := mkOpd (s.regD a (wDst w))
  let srcs := (List.range n).map fun i => mkOpd (s.regD a (if i = 0 then wA w else if i = 1 then wB w else vSrcc w))
  let td := mkOpd (s.regD a (vTapd w))
  let os := dst :: srcs ++ (if tap.isSome then [td] else [])
  let fs := os.map (·.t.fmt)
  let anyI := fs.contains 0x20
  let mixed := anyI && (!o.intOk || fs.any (· != 0x20) || (tap.isSome && decide (tap ≠ some .sum)))
  let tapBad := match tap with
    | some .sum => !vFmtOk td.t.fmt
    | some _ => decide (td.t.fmt ≠ dst.t.fmt)
    | none => false
  vForm (.vew o) code a w os {
    ill := badBits w ([fDst, fA, (35, 31), (25, 24)] ++ (if 2 ≤ n then [fB] else []) ++ (if n = 3 then [(30, 27)] else [])
        ++ (if tap.isSome then [(23, 20), (19, 18)] else []) ++ (if tap = some .sum then [(26, 26)] else []))
      || decide (15 < wDst w) || decide (15 < wA w) || decide (15 < wB w)
    space := []
    fmts := [(!vFmtOk dst.t.fmt || mixed, stOperandFormat), (xcBad dst.t, stXcFormat)]
      ++ srcs.flatMap (fun x => [(!vFmtOk x.t.fmt, stOperandFormat), (xcBad x.t, stXcFormat)])
      ++ (if tap.isSome then [(tapBad, stOperandFormat), (xcBad td.t, stXcFormat)] else [])
    shape := [(strideZero dst.t, stDestStride), (tap.isSome && decide (2 ^ 32 < redLen dst.t (vDims w)), stExtentRange)]
      ++ srcs.map (fun x => (decide (x.t.rank ≠ dst.t.rank) || !x.t.sameShape dst.t, stShapeMismatch))
      ++ (if tap.isSome then [(redShapeBad dst.t td.t (vDims w), stShapeMismatch), (strideZero td.t, stDestStride)] else []) } s
def vewIssue (o : VewOp) (code : Nat) (a : Agent) (w : Word) (s : State) : State := s.formIssue a w (vewForm o code a w s)

/-- Checks of a VRED. -/
def vredForm (o : RedOp) (code : Nat) (a : Agent) (w : Word) (s : State) : TForm :=
  let dst := mkOpd (s.regD a (wDst w))
  let src := mkOpd (s.regD a (wA w))
  let i32 := decide (src.t.fmt = 0x20)
  let dstBad := !vFmtOk dst.t.fmt || (match o with
    | .sum => decide (i32 ≠ decide (dst.t.fmt = 0x20))
    | _ => i32 || decide (dst.t.fmt ≠ src.t.fmt))
  vForm (.vred o) code a w [dst, src] {
    ill := badBits w ([fDst, fA, (35, 31), (19, 18)] ++ (if o = .sum then [(26, 26)] else []))
      || decide (15 < wDst w) || decide (15 < wA w)
    space := []
    fmts := [(dstBad, stOperandFormat), (xcBad dst.t, stXcFormat), (!vFmtOk src.t.fmt, stOperandFormat), (xcBad src.t, stXcFormat)]
    shape := [(redShapeBad src.t dst.t (vDims w), stShapeMismatch), (strideZero dst.t, stDestStride),
              (decide (2 ^ 32 < redLen src.t (vDims w)), stExtentRange)] } s
def vredIssue (o : RedOp) (code : Nat) (a : Agent) (w : Word) (s : State) : State := s.formIssue a w (vredForm o code a w s)

/-- Checks of a VARG (R107, R166). (log 36, DEDUCED) -/
def vargForm (o : RedOp) (code : Nat) (a : Agent) (w : Word) (s : State) : TForm :=
  let dst := mkOpd (s.regD a (wDst w))
  let src := mkOpd (s.regD a (wA w))
  let ix := mkOpd (s.regD a (vIdxd w))
  let fl : Nat → Bool := fun f => f == 0x30 || f == 0x31
  vForm (.varg o) code a w [dst, src, ix] {
    ill := badBits w [fDst, fA, (35, 31), (19, 18), (7, 4)] || decide (15 < wDst w) || decide (15 < wA w)
    space := []
    fmts := [(!fl dst.t.fmt || decide (dst.t.fmt ≠ src.t.fmt), stOperandFormat), (xcBad dst.t, stXcFormat),
             (!fl src.t.fmt, stOperandFormat), (xcBad src.t, stXcFormat), (decide (ix.t.fmt ≠ 0x20), stOperandFormat),
             (xcBad ix.t, stXcFormat)]
    shape := [(redShapeBad src.t dst.t (vDims w), stShapeMismatch), (strideZero dst.t, stDestStride),
              (decide (2 ^ 32 < redLen src.t (vDims w)), stExtentRange),
              (decide (ix.t.rank ≠ dst.t.rank) || !ix.t.sameShape dst.t, stShapeMismatch), (strideZero ix.t, stDestStride)] } s
def vargIssue (o : RedOp) (code : Nat) (a : Agent) (w : Word) (s : State) : State := s.formIssue a w (vargForm o code a w s)

/-- Checks of a VCVT (R87, R92, R103). -/
def vcvtForm (code : Nat) (a : Agent) (w : Word) (s : State) : TForm :=
  let dst := mkOpd (s.regD a (wDst w))
  let src := mkOpd (s.regD a (wA w))
  let no : Nat → Bool := fun f => f == 0x01 || f == 0x02 || f == 0x40 || f == 0x41
  vForm .vcvt code a w [dst, src] {
    ill := badBits w ([fDst, fA, (35, 31), (26, 26)] ++ (if dst.t.fmt = 0x20 then [(17, 8)] else []))
      || decide (15 < wDst w) || decide (15 < wA w)
    space := []
    fmts := [(no dst.t.fmt, stOperandFormat), (xcBad dst.t, stXcFormat), (no src.t.fmt, stOperandFormat), (xcBad src.t, stXcFormat)]
    refs := [(s.refMode (agentCl a) && refBarred dst.t.fmt, stRefFormat)]
    shape := [(strideZero dst.t, stDestStride), (decide (src.t.rank ≠ dst.t.rank) || !src.t.sameShape dst.t, stShapeMismatch)] } s
def vcvtIssue (code : Nat) (a : Agent) (w : Word) (s : State) : State := s.formIssue a w (vcvtForm code a w s)

def execVewAdd (a : Agent) (w : Word) (s : State) : Host.Outcome State Fault Refusal := .next (vewIssue .add 0x140 a w s)
def execVewSub (a : Agent) (w : Word) (s : State) : Host.Outcome State Fault Refusal := .next (vewIssue .sub 0x141 a w s)
def execVewMax (a : Agent) (w : Word) (s : State) : Host.Outcome State Fault Refusal := .next (vewIssue .max 0x142 a w s)
def execVewMin (a : Agent) (w : Word) (s : State) : Host.Outcome State Fault Refusal := .next (vewIssue .min 0x143 a w s)
def execVewAbs (a : Agent) (w : Word) (s : State) : Host.Outcome State Fault Refusal := .next (vewIssue .abs 0x144 a w s)
def execVewNeg (a : Agent) (w : Word) (s : State) : Host.Outcome State Fault Refusal := .next (vewIssue .neg 0x145 a w s)
def execVewMul (a : Agent) (w : Word) (s : State) : Host.Outcome State Fault Refusal := .next (vewIssue .mul 0x148 a w s)
def execVewDiv (a : Agent) (w : Word) (s : State) : Host.Outcome State Fault Refusal := .next (vewIssue .div 0x149 a w s)
def execVewMuladd (a : Agent) (w : Word) (s : State) : Host.Outcome State Fault Refusal := .next (vewIssue .muladd 0x14A a w s)
def execVewSqrt (a : Agent) (w : Word) (s : State) : Host.Outcome State Fault Refusal := .next (vewIssue .sqrt 0x14B a w s)
def execVewRsqrt (a : Agent) (w : Word) (s : State) : Host.Outcome State Fault Refusal := .next (vewIssue .rsqrt 0x14C a w s)
def execVewExp2 (a : Agent) (w : Word) (s : State) : Host.Outcome State Fault Refusal := .next (vewIssue .exp2 0x14D a w s)
def execVewExp (a : Agent) (w : Word) (s : State) : Host.Outcome State Fault Refusal := .next (vewIssue .exp 0x14E a w s)
def execVewLog2 (a : Agent) (w : Word) (s : State) : Host.Outcome State Fault Refusal := .next (vewIssue .log2 0x14F a w s)
def execVewLog (a : Agent) (w : Word) (s : State) : Host.Outcome State Fault Refusal := .next (vewIssue .log 0x150 a w s)
def execVewPow (a : Agent) (w : Word) (s : State) : Host.Outcome State Fault Refusal := .next (vewIssue .pow 0x151 a w s)
def execVewSigm (a : Agent) (w : Word) (s : State) : Host.Outcome State Fault Refusal := .next (vewIssue .sigm 0x152 a w s)
def execVewSilu (a : Agent) (w : Word) (s : State) : Host.Outcome State Fault Refusal := .next (vewIssue .silu 0x153 a w s)
def execVredSum (a : Agent) (w : Word) (s : State) : Host.Outcome State Fault Refusal := .next (vredIssue .sum 0x160 a w s)
def execVredMax (a : Agent) (w : Word) (s : State) : Host.Outcome State Fault Refusal := .next (vredIssue .max 0x161 a w s)
def execVredMin (a : Agent) (w : Word) (s : State) : Host.Outcome State Fault Refusal := .next (vredIssue .min 0x162 a w s)
def execVargMax (a : Agent) (w : Word) (s : State) : Host.Outcome State Fault Refusal := .next (vargIssue .max 0x164 a w s)
def execVargMin (a : Agent) (w : Word) (s : State) : Host.Outcome State Fault Refusal := .next (vargIssue .min 0x165 a w s)
def execVcvt (a : Agent) (w : Word) (s : State) : Host.Outcome State Fault Refusal := .next (vcvtIssue 0x168 a w s)

end Sys2Proof.Machine
end

