-- ==== Sys2Proof/Machine/Collective.lean ====
section
/-! DEFINITION. The collective class (CLASS 0x09): CRED, CBRD and CGAT at issue (R182 to R184, R314, R318, R320), the engine's
tree, segments, wire formats and node arithmetic (R315 to R325), aborts (R326), and the COLL rows. -/

namespace Sys2Proof.Machine

/-! ### Fields (Table 8.17) -/

def cGrp (w : Word) : Nat := fld w 30 26
def cRoot (w : Word) : Nat := fld w 25 21
def cAll (w : Word) : Bool := bitOf w.toNat 20
def cRop (w : Word) : Nat := fld w 19 18
def cIdxd (w : Word) : Nat := fld w 17 14
def cWire (w : Word) : Nat := fld w 13 11
def cVc (w : Word) : Nat := fld w 10 7

/-! ### Groups (R314) -/

/-- A participant record, Table 14.2. -/
structure CRec where
  chip  : Nat
  board : Nat
  group : Nat
  tag   : Word
  deriving DecidableEq, Repr
/-- ENTRIES and BASE of PART_COLL_BASE (Table 14.9). -/
def Part.collEntries (P : Part) : Nat := bitsOf P.collBase.toNat 63 48
def Part.collTable (P : Part) : Nat := bitsOf P.collBase.toNat 39 6 * 64
/-- The 64 bytes of a handle's entry, if it is below ENTRIES, mapped and VALID. -/
def State.collEntry (s : State) (p handle : Nat) : Option (List Byte) :=
  let P := s.pt p
  let a := P.collTable + 64 * handle
  if P.collEntries ≤ handle || !P.mappedRange a 64 then none else
  let e := s.partRd p a 64
  if bitOf (fieldAt e 4 4) 0 then some e else none
/-- COUNT and the participant list as bytes. -/
def State.collList (s : State) (p handle : Nat) : Option (Nat × List Byte) :=
  match s.collEntry p handle with
  | none => none
  | some e =>
    let n := fieldAt e 0 4
    let a := fieldAt e 8 8
    if n < 1 ∨ 8192 < n ∨ !(s.pt p).mappedRange a (16 * n) then none else some (n, s.partRd p a (16 * n))
def collRecs (n : Nat) (bs : List Byte) : List CRec :=
  (List.range n).map fun i =>
    { chip := fieldAt bs (16 * i) 2, board := fieldAt bs (16 * i + 2) 2, group := fieldAt bs (16 * i + 4) 2
      tag := BitVec.ofNat 64 (fieldAt bs (16 * i + 8) 8) }
/-- Chips strictly ascend. -/
def ascending : List CRec → Bool
  | a :: b :: rest => decide (a.chip < b.chip) && ascending (b :: rest)
  | _ => true
/-- The participants of a handle, or `none` where R314 faults with COLL_GROUP. -/
def State.collGroup (s : State) (p handle : Nat) : Option (List CRec) :=
  match s.collList p handle with
  | none => none
  | some (n, bs) =>
    let rs := collRecs n bs
    if ascending rs && rs.all (fun r => decide (r.chip < 0x3FFF)) && rs.any (fun r => decide (r.chip = s.lnk.chip.toNat)) then some rs
    else none

/-- The entry of a handle and its list are read as a structure of the partition: a closed group answers GROUP_OFF, and poison
contains the partition (R14, R410, R459). (log 67, DEDUCED) -/
def State.collTouch (s : State) (p : Fin 64) (handle : Nat) : State × BitVec 16 :=
  let P := s.pt p.val
  match s.collEntry p.val handle with
  | none => (s, 0)
  | some _ =>
    match s.structRd p (P.collTable + 64 * handle) 64 with
    | (.error st, s1) => (s1, if st = stGroupOff then st else stPartContained)
    | (.ok e, s1) =>
      if !P.mappedRange (fieldAt e 8 8) (16 * fieldAt e 0 4) then (s1, 0) else
      match s1.structRd p (fieldAt e 8 8) (16 * fieldAt e 0 4) with
      | (.error st, s2) => (s2, if st = stGroupOff then st else stPartContained)
      | (.ok _, s2) => (s2, 0)

/-! ### The tree (R316, R317) -/

/-- What selects a tree: participants, root and rotation. -/
structure CTree where
  recs : List CRec
  root : Nat
  j    : Nat
  deriving DecidableEq, Repr
/-- Member j mod n of a list of chips. -/
def rotPick (xs : List Nat) (j : Nat) : Nat := nth 0 xs (j % (if xs.length = 0 then 1 else xs.length))
def mkTree (recs : List CRec) (spread : Bool) (named j : Nat) : CTree :=
  { recs := recs, root := if spread then rotPick (recs.map (·.chip)) j else named, j := j }
def CTree.recOf (t : CTree) (x : Nat) : CRec :=
  match t.recs.find? fun r => decide (r.chip = x) with | some r => r | none => { chip := x, board := 0x10000, group := 0x10000, tag := 0 }
def CTree.lead (t : CTree) (b : Nat) : Nat :=
  let m := (t.recs.filter fun r => decide (r.board = b)).map (·.chip)
  if m.contains t.root then t.root else rotPick m t.j
def CTree.glead (t : CTree) (g : Nat) : Nat :=
  let bs := ((t.recs.filter fun r => decide (r.group = g)).map (·.board)).eraseDups
  if bs.contains (t.recOf t.root).board then t.root else t.lead (rotPick bs t.j)
def CTree.parent (t : CTree) (x : Nat) : Nat :=
  let r := t.recOf x
  if x ≠ t.lead r.board then t.lead r.board
  else if x ≠ t.glead r.group then t.glead r.group
  else t.root
/-- The nodes whose parent is x. -/
def CTree.children (t : CTree) (x : Nat) : List Nat :=
  (t.recs.map (·.chip)).filter fun y => decide (y ≠ t.root) && decide (y ≠ x) && decide (t.parent y = x)
/-- Whether the part of the tree under x covers y (the tree has three levels at most). -/
def CTree.covers (t : CTree) (x y : Nat) : Bool :=
  let up : Nat → Nat := fun z => if z = t.root then z else t.parent z
  decide (y = x) || decide (up y = x) || decide (up (up y) = x) || decide (up (up (up y)) = x)
/-- Lowest chip under x. -/
def CTree.lowest (t : CTree) (x : Nat) : Nat :=
  ((t.recs.map (·.chip)).filter fun y => t.covers x y).foldl (fun m y => if y < m then y else m) x

/-! ### Wire formats (R319 to R321) -/

/-- BF16 exponent-coded on the wire. -/
abbrev wfCoded : Nat := 0x130
/-- Stored format of a source: AUTO is read as A16. -/
def srcFmt (f : Nat) : Nat := if f = 0xF0 then 0x13 else f
/-- Row of Table 14.4 that WIRE selects (R320). -/
def wireRow (sum : Bool) (wire f : Nat) : Nat :=
  if wire ≠ 0 then wire
  else if !sum then 4
  else if f = 0x30 ∨ f = 0x31 then 3 else 2
/-- Wire format of a row. -/
def wireFmt (row f : Nat) : Nat := if row = 1 then 0x11 else if row = 2 then 0x12 else if row = 3 then wfCoded else srcFmt f
/-- Elements in a segment. -/
def wireSeg (wf : Nat) : Nat :=
  if wf = 0x11 then 896 else if wf = 0x12 then 448 else if wf = wfCoded ∨ wf = 0x30 then 240 else if wf = 0x10 then 1696
  else if wf = 0x13 then 224 else 120
/-- Bits of an element of a format, for the comparison of R320. -/
def wireBits (wf : Nat) : Nat := if isBlk wf then blkW wf else if wf = 0x30 ∨ wf = wfCoded then 16 else 32

/-- An element on its way: pair, and its floating-point value when it has one. -/
structure WElt where
  px : Px
  fv : Option Fv
  deriving DecidableEq, Repr
/-- A float as a pair (R103). -/
def fvPx : Fv → Px
  | .num n m e => .val (if n then -(m : Int) else m) (e + bias)
  | .inf n => .inf n
  | _ => .val 0 0
def WElt.undef (flt : Bool) : WElt := { px := .undef, fv := if flt then some (.zero false false) else none }
def rawWElt (fmt : Nat) (r : Raw) : WElt :=
  let flt := fmt == 0x30 || fmt == 0x31
  if r.bad.isSome then WElt.undef flt
  else if flt then { px := fvPx (rawFv fmt r), fv := some (rawFv fmt r) }
  else { px := if fmt = 0x20 then .val r.val bias else .val r.val r.exp, fv := none }
/-- Bits in a float format with p fraction bits, to nearest even. -/
def WElt.bits (p : Nat) (free : Word) (e : WElt) : Nat :=
  match e.fv with
  | some f => if e.px.isUndef then free.toNat % 2 ^ (p + 9) else (frWrite p .near free f.res).bits
  | none => (pxFloat p true .near free e.px).bits

/-- Data of a segment: bytes, XLEN and BOOK. -/
structure WSeg where
  data : List Byte
  xlen : Nat
  book : Nat
  deriving DecidableEq, Repr
/-- Blocks of a block wire format: each takes its exponent with no ceiling (R321). -/
def wireBlks (wf : Nat) (free : Nat → Word) (xs : List WElt) : List Blk :=
  let bs := (chunksOf 32 (xs.map (·.px))).map (padTo 32 (.val 0 0))
  (List.range bs.length).map fun b => narrowBlk (blkW wf) none (fun _ => .near) (fun i => free (32 * b + i)) (xs.length - 32 * b) (nth [] bs b)
/-- Clips of narrowing to the wire format, which set CLIP, count in CLIPS and may set SAT (R76). -/
def wireStat (wf : Nat) (free : Nat → Word) (xs : List WElt) : Stat :=
  if isBlk wf then
    let ks := wireBlks wf free xs
    let n := (ks.map (·.clips)).foldl (· + ·) 0
    { clip := decide (0 < n), clips := n, sat := ks.any (·.sat) }
  else {}
/-- Narrows elements to the wire format and lays them out (Table 14.4, R321). -/
def wireEnc (wf : Nat) (free : Nat → Word) (xs : List WElt) : WSeg :=
  if isBlk wf then
    let ks := wireBlks wf free xs
    { data := packMants (blkW wf) (ks.flatMap (·.mant)) ++ ks.map fun k => BitVec.ofNat 8 k.exp, xlen := 0, book := 0 }
  else if wf = wfCoded then
    let bits := (List.range xs.length).map fun i => (nth (WElt.undef false) xs i).bits 7 (free i)
    let sy := bits.map fun b => (b / 128) % 256
    let k := xcBest sy
    let n := xcLen k sy
    let raw := bits.map fun b => BitVec.ofNat 8 ((b / 2 ^ 15) * 128 + b % 128)
    if 240 < n then { data := raw ++ sy.map (BitVec.ofNat 8), xlen := 0, book := 0 }
    else { data := raw ++ xcStream k sy, xlen := n, book := k }
  else
    { data := (List.range xs.length).flatMap fun i =>
        let e := nth (WElt.undef false) xs i
        if wf = 0x30 then leBytes 2 (e.bits 7 (free i))
        else if wf = 0x31 then leBytes 4 (e.bits 23 (free i))
        else leBytes 4 (match e.px with | .val q _ => (q % 2 ^ 32).toNat | _ => (free i).toNat % 2 ^ 32)
      xlen := 0, book := 0 }
/-- Reads the elements of a segment back; a stream that does not decode gives undefined elements. -/
def wireDec (wf n : Nat) (g : WSeg) : List WElt :=
  let flt : Nat → Nat → WElt := fun p b => { px := fvPx (fvRead p b), fv := some (fvRead p b) }
  if isBlk wf then
    let w := blkW wf
    let nb := ceilDiv n 32
    (List.range n).map fun i =>
      let v := fieldAt g.data ((i * w) / 8) (ceilDiv w 8)
      { px := .val (sextNat ((v / 2 ^ ((i * w) % 8)) % 2 ^ w) w) (fieldAt g.data (nb * 4 * w + i / 32) 1), fv := none }
  else if wf = wfCoded then
    let sy : Option (List Nat) :=
      if g.xlen = 0 then some (((g.data.drop n).take n).map (·.toNat))
      else match (g.data.drop n).take g.xlen with
        | [] => none
        | r :: rest => xcDecode g.book r.toNat n (unpackBits rest)
    match sy with
    | none => List.replicate n (WElt.undef true)
    | some es => (List.range n).map fun i =>
      let b := fieldAt g.data i 1
      flt 7 ((b / 128) * 2 ^ 15 + nth 0 es i * 128 + b % 128)
  else (List.range n).map fun i =>
    if wf = 0x30 then flt 7 (fieldAt g.data (2 * i) 2)
    else if wf = 0x31 then flt 23 (fieldAt g.data (4 * i) 4)
    else { px := .val (sextNat (fieldAt g.data (4 * i) 4) 32) bias, fv := none }

/-! ### Node arithmetic (R322) -/

/-- An element with the machine-wide index of a MAX or MIN and the flags of its combines. -/
structure CElt where
  e  : WElt
  ix : Nat
  st : Stat
  deriving DecidableEq, Repr
def CElt.zero : CElt := { e := { px := .val 0 0, fv := none }, ix := 0, st := {} }
/-- A pair as an accumulator entry that holds a value. -/
def pxEntry : Px → AccEntry
  | .val q x => { q := BitVec.ofInt 32 q, tag := mkTag false false 3 true x }
  | _ => { q := 0, tag := mkTag false false 3 true 0 }
def celtSum (a b : CElt) : CElt :=
  if a.e.px.isUndef || b.e.px.isUndef then { a with e := WElt.undef a.e.fv.isSome }
  else match a.e.fv, b.e.fv with
    | some x, some y =>
      let r := fvAdd32 .near x y
      { e := { px := fvPx r.1, fv := some r.1 }, ix := 0, st := (a.st.or b.st).or r.2 }
    | _, _ =>
      let r := accCombine (pxEntry a.e.px) (pxEntry b.e.px)
      { e := { px := .val r.1.val (tagX r.1.tag), fv := none }, ix := 0, st := (a.st.or b.st).or { sat := r.2, satCnt := bool2 r.2 } }
/-- Value of an element in the order of R69. -/
def WElt.value (e : WElt) : Fv :=
  match e.fv with
  | some f => f
  | none => match e.px with
    | .val q x => if q = 0 then .zero false false else .num (decide (q < 0)) q.natAbs (x - bias)
    | _ => .zero false false
def Fv.isNan : Fv → Bool
  | .nan _ => true
  | _ => false
/-- MAX or MIN of two: the lowest-indexed NaN, else the winner, and on a tie the lower index (R69, R184). -/
def celtMax (mx : Bool) (a b : CElt) : CElt :=
  let lo := if b.ix < a.ix then b else a
  let hi := if b.ix < a.ix then a else b
  if a.e.px.isUndef || b.e.px.isUndef then { lo with e := WElt.undef a.e.fv.isSome }
  else if lo.e.value.isNan then lo
  else if hi.e.value.isNan then hi
  else if mx then (if fvLe hi.e.value lo.e.value then lo else hi)
  else (if fvLe lo.e.value hi.e.value then lo else hi)
/-- Combines the contributions of one segment in the tree of R67, element by element. -/
def combineSeg (rop n : Nat) (cs : List (List CElt)) : List CElt :=
  (List.range n).map fun i =>
    match tree (if rop = 0 then celtSum else celtMax (decide (rop = 1))) (cs.map fun c => nth CElt.zero c i) with
    | some r => r
    | none => CElt.zero

/-! ### One collective at this node -/

/-- A collective as its job copied it at issue. -/
structure Coll where
  p      : Nat
  c      : Nat
  me     : Nat
  recs   : List CRec
  handle : Nat
  rank   : Nat
  num    : Nat
  word   : Word
  op     : TOp
  rop    : Nat
  all    : Bool
  named  : Nat
  row    : Nat
  wf     : Nat
  vc     : Nat
  ext    : List Nat
  fmt    : Nat
  count  : Nat
  deriving DecidableEq, Repr
/-- Rank of a cluster in its task (s1, R140). -/
def State.rankOf (s : State) (c : Nat) : Nat := match s.taskOn c with | some t => t.clusters.findIdx (· = c) | none => 0
/-- Participants of a job: they follow handle and root among its scalars, four words a record. -/
def Job.collOf (s : State) (c : Nat) (j : Job) : Coll :=
  let src := j.ten 1
  let sc : Nat → Nat := fun i => (nth 0 j.scal i).toNat
  let row := wireRow (decide (j.op = .cred) && decide (cRop j.word = 0)) (cWire j.word) src.fmt
  { p := (s.cl c).part.toNat, c := c, me := s.lnk.chip.toNat
    recs := (List.range ((j.scal.length - 2) / 4)).map fun i =>
      { chip := sc (4 * i + 2), board := sc (4 * i + 3), group := sc (4 * i + 4), tag := nth 0 j.scal (4 * i + 5) }
    handle := sc 0, rank := s.rankOf c, num := j.num, word := j.word, op := j.op, rop := cRop j.word, all := cAll j.word, named := sc 1 % 2 ^ 14
    row := row, wf := wireFmt row src.fmt, vc := cVc j.word, ext := src.ext, fmt := src.fmt, count := src.count }
/-- Root rotation of R316. -/
def Coll.spread (k : Coll) : Bool := k.all && decide (k.op ≠ .cbrd)
def Coll.tree (k : Coll) (seg : Nat) : CTree := mkTree k.recs k.spread k.named (if k.op = .cred then seg + k.rank else k.rank)
def Coll.segs (k : Coll) : Nat := ceilDiv k.count (wireSeg k.wf)
/-- Elements of segment i. -/
def Coll.len (k : Coll) (i : Nat) : Nat := if k.count < (i + 1) * wireSeg k.wf then k.count - i * wireSeg k.wf else wireSeg k.wf
/-- Position of this chip in the sorted list. -/
def Coll.pos (k : Coll) : Nat := k.recs.findIdx fun r => decide (r.chip = k.me)
def opNo : TOp → Nat
  | .cred => 0 | .cbrd => 1 | _ => 2
/-- Operation, class-specific fields (Table 8.17) and extents (R182, R315): ROOT counts neither as a field nor as a chip where it is
ignored, IDXD only where it is read. -/
def Coll.items (k : Coll) : List Nat :=
  let w := k.word
  let wants := decide (k.op = .cred) && (decide (k.rop = 1) || decide (k.rop = 2))
  [opNo k.op, fld w 35 31, cGrp w] ++ (if k.all && decide (k.op ≠ .cbrd) then [] else [cRoot w, k.named])
    ++ [bool2 k.all, k.rop] ++ (if wants then [cIdxd w] else []) ++ [cWire w, k.vc] ++ k.ext
def Coll.check (k : Coll) : BitVec 32 := Config.collCheck k.items
/-- Whether this participant's destination receives the result (R183, R323). -/
def Coll.writes (k : Coll) : Bool := k.all || decide (k.op = .cbrd) || decide (k.me = (k.tree 0).root)

/-! ### Messages -/

def CollMsg.key : CollMsg → Nat × Nat × Nat × Nat
  | .setup m => (m.part.val, m.handle.toNat, m.rank.toNat, 0)
  | .contrib m => (m.part.val, m.handle.toNat, m.rank.toNat, m.num.toNat)
  | .result m => (m.part.val, m.handle.toNat, m.rank.toNat, m.num.toNat)
  | .stop m _ => (m.part.val, m.handle.toNat, m.rank.toNat, m.num.toNat)
def Coll.key (k : Coll) : Nat × Nat × Nat × Nat := (k.p, k.handle, k.rank, k.num)
/-- Messages that wait for this collective. -/
def State.collMsgs (s : State) (k : Coll) : List CollMsg := (s.pt k.p).collIn.filter fun m => decide (m.key = k.key)
def State.collDrop (s : State) (p : Nat) (f : CollMsg → Bool) : State := s.modPt p fun P => { P with collIn := P.collIn.filter fun m => !f m }
/-- Channel that a message comes on. -/
def CollMsg.vc : CollMsg → Nat
  | .setup _ => 12
  | .contrib m => m.vc.toNat
  | .result m => m.vc.toNat
  | .stop _ _ => 15
/-- Bytes that a message takes in a collective store: header granule and data granules. -/
def CollMsg.size : CollMsg → Nat
  | .contrib m => 32 * (1 + ceilDiv m.data.length 32)
  | .result m => 32 * (1 + ceilDiv m.data.length 32)
  | _ => 32

/-- First granule of a COLL payload, Table 14.5. -/
def collHeader (k : Coll) (kind seg n : Nat) (g : WSeg) (index : Nat) : List Byte :=
  leBytes 2 k.handle ++ leBytes 2 k.num ++ leBytes 4 seg ++ leBytes 2 k.rank ++ [BitVec.ofNat 8 kind, BitVec.ofNat 8 k.row]
    ++ leBytes 2 n ++ leBytes 2 g.xlen ++ [BitVec.ofNat 8 g.book, 0, 0, 0] ++ leBytes 4 k.check.toNat ++ leBytes 2 index ++ [0, 0, 0, 0, 0, 0]
/-- Bytes as granules, padded with zeros. -/
def granules (bs : List Byte) : List (BitVec 256) := (chunksOf 32 bs).map fun c => BitVec.ofNat 256 (leNat c)
def collPacket (k : Coll) (vc dst : Nat) (bs : List Byte) : Packet :=
  let gs := granules bs
  { mkPacket tyColl (BitVec.ofNat 4 vc) (BitVec.ofNat 14 k.me) (BitVec.ofNat 14 dst) with
    spart := BitVec.ofNat 6 k.p, len := BitVec.ofNat 5 gs.length, addr := machineAddr 0 dst 0, data := gs }
/-- Sends a segment to another participant; that of a MAX or MIN carries the machine-wide index of each element (R322). -/
def State.collSend (s : State) (k : Coll) (kind seg n index : Nat) (g : WSeg) (ix : List Nat) (dst : Nat) : State × BitVec 16 :=
  s.send { collPacket k k.vc dst (collHeader k kind seg n g index ++ g.data) with
    idx := if k.op = .cred ∧ k.rop ≠ 0 then ix.map (BitVec.ofNat 64) else [] }
/-- Sends one message to several, keeping the first failure. -/
def sendAll (f : State → Nat → State × BitVec 16) (s : State) (ds : List Nat) : State × BitVec 16 :=
  ds.foldl (fun acc d => let r := f acc.1 d; (r.1, if acc.2 = 0 then r.2 else acc.2)) (s, 0)
/-- A set-up segment on channel 12; the place of its items is not in the spec. -/
def State.setupSend (s : State) (k : Coll) (dst : Nat) : State × BitVec 16 :=
  let free := BitVec.ofNat 256 ((s.freeAt 0).toNat + (s.freeAt 1).toNat * 2 ^ 64 + (s.freeAt 2).toNat * 2 ^ 128 + (s.freeAt 3).toNat * 2 ^ 192)
  let pk := collPacket k 12 dst (collHeader k 2 0 0 { data := [], xlen := 0, book := 0 } 0)
  (s.bump 4).send { pk with len := 2, data := pk.data ++ [free] }
/-- Abort segments to every other participant (R326). -/
def State.abortSend (s : State) (k : Coll) (st : BitVec 16) : State :=
  ((k.recs.map (·.chip)).filter (· ≠ k.me)).foldl (fun s d =>
    (s.send { collPacket k 15 d (collHeader k 3 0 0 { data := [], xlen := 0, book := 0 } 0) with status := st }).1) s

/-! ### The collective store (R325) -/

/-- The cluster whose engine takes part for a rank of the task that a partition's list names for this chip. -/
def State.collTarget (s : State) (p handle rank : Nat) : Option Nat :=
  match s.collGroup p handle with
  | none => none
  | some rs => match rs.find? fun r => decide (r.chip = s.lnk.chip.toNat) with
    | none => none
    | some r => match s.tasks.find? fun t => decide (t.id.part.val = p) && decide (t.tag = r.tag) with
      | none => none
      | some t => if rank < t.clusters.length then some (nth 0 t.clusters rank) else none
/-- The collective at the head of a cluster's engine. (log 42, DEDUCED) -/
def State.collHead (s : State) (c : Nat) : Option (Job × Coll) :=
  match (s.cl c).unit 5 with | j :: _ => some (j, j.collOf s c) | [] => none
/-- Bytes of early segments in the collective store of an engine (R325): a cluster's, or before its task runs that of the rank that
the segments name. (log 42, DEDUCED) -/
def State.storeHeld (s : State) (p rank : Nat) (tgt : Option Nat) : Nat :=
  let cur := (tgt.bind s.collHead).map fun x => x.2.key
  (((s.pt p).collIn.filter fun m => decide (some m.key ≠ cur) && decide (s.collTarget p m.key.2.1 m.key.2.2.1 = tgt)
    && (tgt.isSome || decide (m.key.2.2.1 = rank))).map (·.size)).foldl (· + ·) 0
/-- Engine of a stop: the cluster plus 1, or 0 before its task runs, with the rank. -/
def engineNo (tgt : Option Nat) (rank : Nat) : Nat := match tgt with | some c => c + 1 | none => 1024 + rank
/-- Credits return again on the channels whose stores have space (R325). -/
def State.freeStops (s : State) : State :=
  if s.lnk.ports.all fun kv => kv.2.stops.isEmpty then s else
  let full : Nat × Nat × Nat → Bool := fun x =>
    decide (131072 < s.storeHeld x.1 (x.2.1 - 1024) (if 1024 ≤ x.2.1 then none else some (x.2.1 - 1)))
  (s.lnk.ports.map (·.1)).foldl (fun (s : State) n =>
    if (s.po n).stops.all full then s
    else (s.modPo n fun p => { p with stops := p.stops.filter full }).pumpPort n false []) s

/-! ### Ends -/

/-- Leaves the destination undefined (R326). -/
def State.collUndef (s : State) (c : Nat) (j : Job) : State :=
  let t := j.ten 0
  let n := t.count
  let o := convert { rnd := fun _ => .near, free := fun i => s.freeAt i, satF := true, ox := bias, drain := false } t
    (List.replicate n { Src.none with px := .undef })
  (s.storeOut c 5 t (wE j.word) o.1).bump n
/-- A collective ends with a fault: its own (the others are told) or one that an abort brought. (log 42, DEDUCED) -/
def State.collFail (s : State) (c : Nat) (j : Job) (told : Bool) (st : BitVec 16) : State :=
  let k := j.collOf s c
  let s1 := if told then s.collUndef c j else s.abortSend k st
  let s2 := (s1.modPt k.p fun P => { P with collFailed := satAdd P.collFailed 1 }).collDrop k.p fun m => decide (m.key = k.key)
  ((s2.jobFault c 5 (s2.jobNow c 5 j) st).finish c 5 j 0).freeStops

/-- What a participant stores: its results converted to the destination format (R323). -/
def collOut (k : Coll) (j : Job) (free : Nat → Word) : Out × Stat :=
  let t := j.ten 0
  let n := t.count
  let flt := isBlk k.wf = false && decide (k.wf ≠ 0x20)
  let fv : Nat → Fv := fun i => fvRead 23 (mget AccEntry.empty j.ents i).q.toNat
  if flt && (t.fmt == 0x30 || t.fmt == 0x31) then
    let os := (List.range n).map fun i =>
      if j.undef.contains i then ({ bits := (free i).toNat % 2 ^ (fracBits t.fmt + 9), st := {} } : Fo)
      else frWrite (fracBits t.fmt) .near (free i) (fv i).res
    (.plain (os.map (·.bits)), os.foldl (fun st o => st.or o.st) {})
  else
    let src : Nat → Src := fun i =>
      let e := mget AccEntry.empty j.ents i
      { px := if j.undef.contains i then .undef else if flt then fvPx (fv i) else .val e.val (tagX e.tag)
        valid := true, mix := false, sat := false, fmt := 3 }
    let r := convert { rnd := fun _ => .near, free := free, satF := true, ox := bias, drain := false } t ((List.range n).map src)
    (r.1, { r.2 with inv := flt && (List.range n).any fun i => (fv i).isNan })
/-- A collective completes at this participant. -/
def State.collDone (s : State) (c : Nat) (j0 : Job) : State :=
  let j := s.jobNow c 5 j0
  let k := j.collOf s c
  let s0 := s.modPt k.p fun P => { P with collDone := satAdd P.collDone 1 }
  if !k.writes then s0.finish c 5 j j.status else
  let r := collOut k j s0.freeAt
  let n := (j.ten 0).count
  let s1 := (s0.storeOut c 5 (j.ten 0) (wE j.word) r.1).bump n
  let s2 := if j.op = .cred && decide (j.descs.length = 3) then
      s1.storeOut c 5 (j.ten 2) (wE j.word) (.plain ((List.range n).flatMap fun i =>
        let v := mget 0 j.idx i
        [v % 2 ^ 32, v / 2 ^ 32 % 2 ^ 32]))
    else s1
  s2.finish c 5 j (statMerge j.status r.2.word)

/-! ### Progress -/

/-- Marks progress of a segment: 1 contribution sent, 2 result in hand. -/
def State.segMark (s : State) (c : Nat) (j : Job) (key bits : Nat) : State :=
  s.modJob c 5 j.id fun j => { j with segs := mset 0 j.segs key (mget 0 j.segs key ||| bits) }
/-- Keeps result elements from a place in the destination on. -/
def State.segKeep (s : State) (c : Nat) (j : Job) (base : Nat) (es : List CElt) : State :=
  let entry : WElt → AccEntry := fun e => match e.fv with
    | some f => { q := BitVec.ofNat 32 (fv32 f), tag := 0 }
    | none => pxEntry e.px
  s.modJob c 5 j.id fun j => { j with
    ents := (List.range es.length).foldl (fun m i => mset AccEntry.empty m (base + i) (entry (nth CElt.zero es i).e)) j.ents
    undef := j.undef ++ ((List.range es.length).filter fun i => (nth CElt.zero es i).e.px.isUndef).map (base + ·)
    idx := (List.range es.length).foldl (fun m i => mset 0 m (base + i) (nth CElt.zero es i).ix) j.idx }
/-- Adds what narrowing or combining a segment met to the status (R76, R321, R322). -/
def State.segStat (s : State) (c : Nat) (j : Job) (st : Stat) : State :=
  s.modJob c 5 j.id fun j => { j with status := statMerge j.status st.word }
/-- A segment's elements from its message. -/
def segElts (k : Coll) (m : Segment) : List CElt :=
  let n := m.count.toNat
  let xs := wireDec k.wf n { data := m.data, xlen := m.xlen.toNat, book := m.book.toNat % 16 }
  (List.range n).map fun i => { e := nth (WElt.undef false) xs i, ix := (nth 0 m.idx i).toNat, st := {} }
/-- This participant's contribution to a segment, narrowed once (R321), and what narrowing it met. -/
def ownSeg (k : Coll) (src : List Raw) (free : Nat → Word) (i : Nat) : WSeg × List CElt × Stat :=
  let n := k.len i
  let base := i * wireSeg k.wf
  let xs := (List.range n).map fun q => rawWElt k.fmt (nth { val := 0, exp := 0, fl := 0, bad := none } src (base + q))
  let g := wireEnc k.wf (fun q => free (base + q)) xs
  let ys := wireDec k.wf n g
  (g, (List.range n).map fun q => { e := nth (WElt.undef false) ys q, ix := k.me * 2 ^ 32 + (base + q), st := {} },
   wireStat k.wf (fun q => free (base + q)) xs)
/-- Indices of elements, and of a message's. -/
def idxOf (es : List CElt) : List Nat := es.map (·.ix)
def segIdx (m : Segment) : List Nat := m.idx.map (·.toNat)
/-- The message of a kind for segment i, index and source. -/
def findContrib (ms : List CollMsg) (i : Nat) (src : Nat) : Option Segment :=
  ms.findSome? fun m => match m with
    | .contrib g => if g.seg.toNat = i ∧ g.src.toNat = src then some g else none
    | _ => none
def findResult (ms : List CollMsg) (i index : Nat) : Option Segment :=
  ms.findSome? fun m => match m with
    | .result g => if g.seg.toNat = i ∧ g.index.toNat = index then some g else none
    | _ => none

/-- One segment of a CRED: combine when every child's contribution is in, send up, and take the result (R321 to R323). -/
def credSeg (k : Coll) (c : Nat) (j : Job) (src : List Raw) (s : State) (i : Nat) : State × BitVec 16 :=
  let t := k.tree i
  let kids := t.children k.me
  let n := k.len i
  let base := i * wireSeg k.wf
  let done := mget 0 (s.jobNow c 5 j).segs i
  let ms := s.collMsgs k
  let up : State × BitVec 16 :=
    if done % 2 = 1 then (s, 0)
    else
      let cs := kids.map fun d => (d, findContrib ms i d)
      if cs.any fun x => x.2.isNone then (s, 0)
      else
        let own := ownSeg k src s.freeAt i
        let parts := (k.me, own.2.1) :: cs.map fun x => (t.lowest x.1, match x.2 with | some m => segElts k m | none => [])
        let srt := (k.recs.map (·.chip)).filterMap fun y => (parts.find? fun x => decide (x.1 = y)).map (·.2)
        let sum := combineSeg k.rop n srt
        let wide := if k.me = t.root then k.all else !kids.isEmpty
        let st := (own.2.2.or (statOf (sum.map (·.st)))).or (if wide then wireStat k.wf s.freeAt (sum.map (·.e)) else {})
        let s1 := (((s.collDrop k.p fun m => match m with
          | .contrib g => decide (m.key = k.key) && decide (g.seg.toNat = i)
          | _ => false).segMark c j i 1)).segStat c j st
        if k.me = t.root then
          if k.all then
            let g := wireEnc k.wf s1.freeAt (sum.map (·.e))
            let ys := wireDec k.wf n g
            let res := (List.range n).map fun q => { nth CElt.zero sum q with e := nth (WElt.undef false) ys q }
            sendAll (fun s d => s.collSend k 1 i n 0 g (idxOf sum) d) (((s1.bump n).segKeep c j base res).segMark c j i 2) kids
          else ((s1.segKeep c j base sum).segMark c j i 2, 0)
        else
          let g := if kids.isEmpty then own.1 else wireEnc k.wf s1.freeAt (sum.map (·.e))
          ((if k.all then s1 else s1.segMark c j i 2).bump n).collSend k 0 i n 0 g (idxOf sum) (t.parent k.me)
  if up.2 ≠ 0 ∨ !k.all ∨ k.me = t.root ∨ 2 ≤ mget 0 (up.1.jobNow c 5 j).segs i then up
  else match findResult (up.1.collMsgs k) i 0 with
    | none => up
    | some m =>
      let s2 := ((up.1.collDrop k.p fun x => decide (x = .result m)).segKeep c j base (segElts k m)).segMark c j i 2
      sendAll (fun s d => s.collSend k 1 i n 0 { data := m.data, xlen := m.xlen.toNat, book := m.book.toNat } (segIdx m) d) s2 kids

/-- One segment of a CBRD: the root's source, narrowed once, goes down the tree. -/
def cbrdSeg (k : Coll) (c : Nat) (j : Job) (src : List Raw) (s : State) (i : Nat) : State × BitVec 16 :=
  let t := k.tree i
  let kids := t.children k.me
  let n := k.len i
  let base := i * wireSeg k.wf
  if mget 0 (s.jobNow c 5 j).segs i ≠ 0 then (s, 0)
  else if k.me = t.root then
    let own := ownSeg k src s.freeAt i
    sendAll (fun s d => s.collSend k 1 i n 0 own.1 [] d) ((((s.bump n).segKeep c j base own.2.1).segMark c j i 2).segStat c j own.2.2) kids
  else match findResult (s.collMsgs k) i 0 with
    | none => (s, 0)
    | some m =>
      let s2 := ((s.collDrop k.p fun x => decide (x = .result m)).segKeep c j base (segElts k m)).segMark c j i 2
      sendAll (fun s d => s.collSend k 1 i n 0 { data := m.data, xlen := m.xlen.toNat, book := m.book.toNat } [] d) s2 kids

/-- A segment of participant x in the concatenation of a CGAT reaches this node: the root keeps it (and sends it down with ALL
set), another node passes it on to its parent. -/
def cgatUp (k : Coll) (c : Nat) (j : Job) (s : State) (i x : Nat) (g : WSeg) (es : List CElt) : State × BitVec 16 :=
  let t := k.tree i
  let key := x * k.segs + i
  if k.me = t.root then
    let s1 := (s.segKeep c j (x * k.count + i * wireSeg k.wf) es).segMark c j key 3
    if k.all then sendAll (fun s d => s.collSend k 1 i (k.len i) x g [] d) s1 (t.children k.me) else (s1, 0)
  else (s.segMark c j key (if k.all then 1 else 3)).collSend k 0 i (k.len i) x g [] (t.parent k.me)
/-- One segment of participant x of a CGAT. -/
def cgatSeg (k : Coll) (c : Nat) (j : Job) (src : List Raw) (s : State) (key : Nat) : State × BitVec 16 :=
  let x := key / k.segs
  let i := key % k.segs
  let t := k.tree i
  let chip := nth 0 (k.recs.map (·.chip)) x
  let done := mget 0 (s.jobNow c 5 j).segs key
  let mine := t.covers k.me chip
  let up : State × BitVec 16 :=
    if done % 2 = 1 ∨ !mine then (s, 0)
    else if x = k.pos then
      let own := ownSeg k src s.freeAt i
      cgatUp k c j ((s.bump (k.len i)).segStat c j own.2.2) i x own.1 own.2.1
    else
      match (s.collMsgs k).findSome? fun m => match m with
        | .contrib g => if g.seg.toNat = i ∧ g.index.toNat = x then some g else none
        | _ => none with
      | none => (s, 0)
      | some m => cgatUp k c j (s.collDrop k.p fun y => decide (y = .contrib m)) i x
          { data := m.data, xlen := m.xlen.toNat, book := m.book.toNat } (segElts k m)
  if up.2 ≠ 0 ∨ k.me = t.root ∨ !k.all ∨ 2 ≤ mget 0 (up.1.jobNow c 5 j).segs key then up
  else match findResult (up.1.collMsgs k) i x with
    | none => up
    | some m =>
      let s2 := ((up.1.collDrop k.p fun y => decide (y = .result m)).segKeep c j (x * k.count + i * wireSeg k.wf)
        (segElts k m)).segMark c j key 2
      sendAll (fun s d => s.collSend k 1 i (k.len i) x { data := m.data, xlen := m.xlen.toNat, book := m.book.toNat } [] d) s2
        (t.children k.me)
/-- Segments that this node has to see through: all of them, but a CGAT without ALL ends with those that pass here. -/
def Coll.keys (k : Coll) : List Nat :=
  if k.op = .cgat then (List.range (k.recs.length * k.segs)).filter fun key =>
    k.all || (k.tree 0).covers k.me (nth 0 (k.recs.map (·.chip)) (key / k.segs))
  else List.range k.segs

/-! ### Set-up (R315) -/

/-- What this participant puts into the exchange. -/
def State.setupMsg (s : State) (k : Coll) : SetupMsg :=
  { part := ⟨k.p % 64, Nat.mod_lt _ (by decide)⟩, src := BitVec.ofNat 14 k.me, handle := BitVec.ofNat 16 k.handle
    rank := BitVec.ofNat 16 k.rank, items := k.items ++ [k.fmt]
    listCrc := match s.collList k.p k.handle with | some (n, bs) => crc32c (leBytes 4 n ++ bs) | none => 0
    tag := match s.taskOn k.c with | some t => t.tag | none => 0, lpl := s.fw.lpl }
/-- Set-up messages in hand, by source. -/
def setupsOf (ms : List CollMsg) : List SetupMsg := ms.filterMap fun m => match m with | .setup x => some x | _ => none
/-- The status of a comparison: LPL_MISMATCH, then COLL_GROUP for a list that differs or a task that is not the list's, then
SHAPE_MISMATCH. -/
def setupStatus (t : CTree) (own : SetupMsg) (xs : List SetupMsg) : BitVec 16 :=
  if xs.any fun x => decide (x.lpl ≠ own.lpl) then stLplMismatch
  else if (own :: xs).any fun x => decide (x.listCrc ≠ own.listCrc) || decide (x.tag ≠ (t.recOf x.src.toNat).tag) then stCollGroup
  else if xs.any fun x => decide (x.items ≠ own.items) then stShapeMismatch else 0
def State.setupAt (s : State) (k : Coll) : Nat := mget 0 (s.cl k.c).coll.setup k.handle
def State.setupPut (s : State) (k : Coll) (v : Nat) : State :=
  s.modCl k.c fun x => { x with coll := { x.coll with setup := mset 0 x.coll.setup k.handle v } }
def State.setupClear (s : State) (k : Coll) : State := s.collDrop k.p fun m => match m with | .setup _ => decide (m.key = { k with num := 0 }.key) | _ => false
/-- The exchange at this node: up the tree, the comparison at the root, and down again. -/
def State.setupStep (s : State) (k : Coll) : State × BitVec 16 :=
  if s.setupAt k = 2 then (s, 0) else
  let rd := s.collTouch (finPart k.p) k.handle
  if rd.2 ≠ 0 then rd else
  let s := rd.1
  let t := k.tree 0
  let kids := t.children k.me
  let own := s.setupMsg k
  let xs := setupsOf (s.collMsgs { k with num := 0 })
  if k.me = t.root then
    if (k.recs.map (·.chip)).all fun y => decide (y = k.me) || xs.any fun x => decide (x.src.toNat = y) then
      let st := setupStatus t own xs
      let s1 := s.setupClear k
      if st ≠ 0 then (s1, st)
      else sendAll (fun s d => s.setupSend k d) ((s1.setupPut k 2).trace .collSetup (BitVec.ofNat 8 k.p)) kids
    else (s.setupPut k 1, 0)
  else
    let r1 : State × BitVec 16 := if s.setupAt k = 0 then (s.setupPut k 1).setupSend k (t.parent k.me) else (s, 0)
    let r2 := if r1.2 ≠ 0 then r1 else
      sendAll (fun s _ => s.setupSend k (t.parent k.me)) (r1.1.setupClear k)
        ((xs.filter fun x => decide (x.src.toNat ≠ t.root)).map fun x => x.src.toNat)
    if r2.2 ≠ 0 ∨ !(xs.any fun x => decide (x.src.toNat = t.root)) then r2
    else sendAll (fun s d => s.setupSend k d) ((r2.1.setupPut k 2).trace .collSetup (BitVec.ofNat 8 k.p)) kids

/-! ### The engine -/

/-- One segment of the collective that k names. (log 42, DEDUCED) -/
def collSeg (k : Coll) (c : Nat) (j : Job) (src : List Raw) (s : State) (i : Nat) : State × BitVec 16 :=
  match k.op with
  | .cred => credSeg k c j src s i
  | .cbrd => cbrdSeg k c j src s i
  | _ => cgatSeg k c j src s i
/-- Everything that the head collective of a cluster can do now; it completes when its last segment is in. (log 42, DEDUCED) -/
def cStep (c : Nat) (j0 : Job) (s : State) : State :=
  if j0.dead then s.finish c 5 j0 0 else
  let j := s.jobNow c 5 j0
  let k := j.collOf s c
  let ms := s.collMsgs k
  let own := k.check
  if j.fault ≠ 0 then s.collFail c j false j.fault else
  match ms.findSome? fun m => match m with | .stop _ st => some st | _ => none with
  | some st => s.collFail c j true st
  | none =>
    if ms.any fun m => match m with
        | .contrib g => decide (g.check ≠ own)
        | .result g => decide (g.check ≠ own)
        | _ => false then s.collFail c j false stShapeMismatch
    else
      let r := s.setupStep k
      if r.2 ≠ 0 then r.1.collFail c j false r.2
      else if r.1.setupAt k ≠ 2 then r.1
      else
        let reads := decide (k.op ≠ .cbrd) || decide (k.me = (k.tree 0).root)
        let q := if reads then r.1.readSrcs c 5 j [j.ten 1] else (r.1, [])
        let raws := nth [] q.2 0
        if (q.1.jobNow c 5 j).fault ≠ 0 then q.1.collFail c j false (q.1.jobNow c 5 j).fault
        else
          let one := collSeg k c j raws
          let d := sendAll one q.1 k.keys
          if d.2 ≠ 0 then d.1.collFail c j false d.2
          else if k.keys.all fun key => decide (2 ≤ mget 0 (d.1.jobNow c 5 j).segs key) then d.1.collDone c j
          else d.1

/-- A collective message arrives at this device (R286, R319, R325, R326, R465). A segment that the store has no room for stays in the
receive buffer: its channel gets no credits back until there is space. (log 42, DEDUCED) -/
def State.collArrive (s : State) (n : Nat) (m : CollMsg) (src : BitVec 14) : State :=
  if !s.live || decide ((s.po n).st ≠ .active) then s else
  let p := m.key.1
  let h := m.key.2.1
  if (s.collEntry p h).isNone then
    s.noteSev .portState 3 (BitVec.ofNat 8 p) stAdmitDenied [src.setWidth 64, BitVec.ofNat 64 p, machineAddr 0 s.lnk.chip.toNat 0]
  else
    let s := if (s.pt p).contained then s else (s.collTouch (finPart p) h).1
    let tgt := s.collTarget p h m.key.2.2.1
    let head := tgt.bind s.collHead
    let cur := head.map fun x => x.2.key
    if (s.pt p).contained then
      match s.collGroup p h with
      | none => s
      | some rs =>
        let stop := match m with | .stop _ _ => true | _ => false
        if stop then s else
        s.abortSend { p := p, c := 0, me := s.lnk.chip.toNat, recs := rs, handle := h, rank := m.key.2.2.1, num := m.key.2.2.2, word := 0, op := .cred
                      rop := 0, all := false, named := 0, row := 0, wf := 0, vc := 0, ext := [], fmt := 0, count := 0 } stPartContained
    else
      let early := decide (some m.key ≠ cur)
      let full := early && decide (131072 < s.storeHeld p m.key.2.2.1 tgt + m.size)
      let s0 := s.modPt p fun P => { P with
        collIn := P.collIn ++ [m], collFull := if full then satAdd P.collFull 1 else P.collFull }
      let s1 := if full then s0.modPo n fun q => { q with stops := q.stops ++ [(p, engineNo tgt m.key.2.2.1, m.vc)] } else s0
      match tgt, head with
      | some c, some (j, _) => if early then s1 else (cStep c j s1).freeStops
      | _, _ => s1
/-- COLL_SETUP, COLL_CONTRIBUTION, COLL_RESULT and COLL_ABORT. (log 17, DEDUCED) -/
def execCollSetup (n : Fin 39) (m : SetupMsg) (s : State) : Host.Outcome State Fault Refusal := .next (s.collArrive n.val (.setup m) m.src)
/-- See log 17, DEDUCED. -/
def execCollContribution (n : Fin 39) (m : Segment) (s : State) : Host.Outcome State Fault Refusal :=
  .next (s.collArrive n.val (.contrib m) m.src)
def execCollResult (n : Fin 39) (m : Segment) (s : State) : Host.Outcome State Fault Refusal :=
  .next (s.collArrive n.val (.result m) m.src)
def execCollAbort (n : Fin 39) (m : Segment) (status : BitVec 16) (s : State) : Host.Outcome State Fault Refusal :=
  .next (s.collArrive n.val (.stop m (faultStatus status)) m.src)

/-- A chip is lost: every collective of this device that it takes part in ends with CHIP_LOST (R326). -/
def State.collChipLost (s : State) (chip : Nat) : State :=
  s.clusters.foldl (fun s kv => (s.cl kv.1).unit 5 |>.foldl (fun s j =>
    if !j.dead && ((j.collOf s kv.1).recs.any fun r => decide (r.chip = chip)) then s.collFail kv.1 j false stChipLost else s) s) s
/-- The collectives of a task end with a fault status: the other participants are told (R326). -/
def State.collTaskEnd (s : State) (cs : List Nat) (st : BitVec 16) : State :=
  (cs.foldl (fun s c => ((s.cl c).unit 5).foldl (fun s j =>
    if j.dead then s else
    let k := j.collOf s c
    ((s.abortSend k st).modPt k.p fun P => { P with collFailed := satAdd P.collFailed 1 }).collDrop k.p fun m => decide (m.key = k.key)) s) s).freeStops

/-! ### Issue -/

/-- Formats that a collective takes (R318). -/
def collFmt (f : Nat) : Bool := isBlk f || f == 0x20 || f == 0x30 || f == 0x31
/-- Numbers a collective and copies its participants (R315). -/
def collAct (handle root : Word) (c : Nat) (j : Job) (s : State) : State × Except (BitVec 16) Job :=
  let rd := s.collTouch (finPart (s.cl c).part.toNat) handle.toNat
  let s := rd.1
  if rd.2 ≠ 0 then (s, .error rd.2) else
  let rs := match s.collGroup (s.cl c).part.toNat handle.toNat with | some rs => rs | none => []
  let n := mget 0 (s.cl c).coll.nums handle.toNat
  (s.modCl c fun x => { x with coll := { x.coll with nums := mset 0 x.coll.nums handle.toNat ((n + 1) % 65536) } },
   .ok { j with
     num := n
     scal := [handle, root] ++ rs.flatMap fun r => [BitVec.ofNat 64 r.chip, BitVec.ofNat 64 r.board, BitVec.ofNat 64 r.group, r.tag] })
/-- Checks and issue of a collective; `own` are the fields of the operation alone. -/
def collForm (op : TOp) (code : Nat) (own : List (Nat × Nat)) (a : Agent) (w : Word) (s : State) : TForm :=
  let p := (s.cl (agentCl a)).part.toNat
  let handle := s.regS a (cGrp w)
  let root := s.regS a (cRoot w)
  let d := mkOpd (s.regD a (wDst w))
  let x := mkOpd (s.regD a (wA w))
  let wants := decide (op = .cred) && (decide (cRop w = 1) || decide (cRop w = 2))
  let ix := mkOpd (s.regD a (cIdxd w))
  let os := [d, x] ++ (if wants then [ix] else [])
  let grp := if handle.toNat < 65536 then s.collGroup p handle.toNat else none
  let n := match grp with | some rs => rs.length | none => 0
  let row := wireRow (decide (op = .cred) && decide (cRop w = 0)) (cWire w) x.t.fmt
  let wf := wireFmt row x.t.fmt
  let top := x.t.rank - 1
  let shapeBad := decide (d.t.rank ≠ x.t.rank) || (if op = .cgat then
      (List.range 4).any fun i => if i = top then grp.isSome && decide (d.t.e i ≠ n * x.t.e i) else decide (d.t.e i ≠ x.t.e i)
    else !d.t.sameShape x.t)
  .mk code op os [] {
    ill := badBits w ([fDst, fA, (35, 31), (30, 26), (25, 21), (20, 20), (13, 11), (10, 7)] ++ own ++ (if wants then [(17, 14)] else []))
      || decide (15 < wDst w) || decide (15 < wA w) || decide (5 ≤ cWire w) || (decide (op = .cred) && decide (cRop w = 3))
    priv := decide (12 ≤ cVc w)
    expert := decide (cWire w ≠ 0) || decide (cVc w ≠ 0)
    space := os.map fun o => decide (o.t.space = 0)
    fmts := [(!collFmt d.t.fmt, stOperandFormat), (xcBad d.t, stXcFormat), (!collFmt x.t.fmt, stOperandFormat), (xcBad x.t, stXcFormat)]
      ++ (if wants then [(decide (ix.t.fmt ≠ 0x20), stOperandFormat), (xcBad ix.t, stXcFormat)] else [])
    refs := [(s.refMode (agentCl a) && (refBarred d.t.fmt || decide (wireBits wf < wireBits (srcFmt x.t.fmt))), stRefFormat)]
    shape := [(shapeBad, stShapeMismatch), (strideZero d.t, stDestStride)]
      ++ (if wants then [(decide (ix.t.count ≠ 2 * x.t.count), stShapeMismatch), (strideZero ix.t, stDestStride)] else [])
    group := [(grp.isNone, stCollGroup)] } (collAct handle root)
def collIssue (op : TOp) (code : Nat) (own : List (Nat × Nat)) (a : Agent) (w : Word) (s : State) : State := s.formIssue a w (collForm op code own a w s)
def execCred (a : Agent) (w : Word) (s : State) : Host.Outcome State Fault Refusal := .next (collIssue .cred 0x240 [(19, 18)] a w s)
def execCbrd (a : Agent) (w : Word) (s : State) : Host.Outcome State Fault Refusal := .next (collIssue .cbrd 0x241 [] a w s)
def execCgat (a : Agent) (w : Word) (s : State) : Host.Outcome State Fault Refusal := .next (collIssue .cgat 0x242 [] a w s)

end Sys2Proof.Machine
end

