-- ==== Sys2Proof/Machine/Matrix.lean ====
section
/-! DEFINITION. The matrix class (CLASS 0x04): TMM and TMMP, tiles, banks, escalation and drains (R20 to R58, R77, R82 to R87,
R162 to R164, R244 to R252). -/

namespace Sys2Proof.Machine

/-! ### Fields (Table 8.9) -/

def mAcc (w : Word) : Bool := bitOf w.toNat 30
def mRnd (w : Word) : Bool := bitOf w.toNat 29
def mTr (w : Word) : Bool := bitOf w.toNat 28
def mBank (w : Word) : Nat := fld w 27 26
def mKeep (w : Word) : Bool := bitOf w.toNat 25
def mCont (w : Word) : Bool := bitOf w.toNat 24
def mOx (w : Word) : Int := sextNat (fld w 23 14) 10
def mPass (w : Word) : Nat := fld w 13 6
def mSplit (w : Word) : Nat := fld w 5 1

/-! ### Weights -/

/-- The five trits of a T5 code (R20); `none` for a reserved one. -/
def t5Trits (b : Nat) : Option (List Int) :=
  if 0xF3 ≤ b then none else
  let v : Int := if b ≤ 0x79 then b else (b : Int) - 243
  some ((List.range 5).foldl (fun (acc : List Int × Int) _ =>
    let d := (acc.2 + 1) % 3 - 1
    (acc.1 ++ [d], (acc.2 - d) / 3)) ([], v)).1
/-- Binomial coefficient. -/
def choose : Nat → Nat → Nat
  | _, 0 => 1
  | 0, _ + 1 => 0
  | n + 1, k + 1 => choose n k + choose n (k + 1)
/-- Subset j of size k in 0 … 7, rising (R245). -/
def subset (k j : Nat) : List Nat :=
  ((List.range k).foldl (fun (acc : List Nat × Nat) i =>
    let n := k - i
    let c := ((List.range 8).filter fun c => decide (choose c n ≤ acc.2)).foldl (fun m c => if m < c then c else m) 0
    (c :: acc.1, acc.2 - choose c n)) ([], j)).1
/-- The eight weights of a T48 code (Table 11.1); `none` for a reserved one. -/
def t48Trits (code : Nat) : Option (List Int) :=
  let p := code / 16
  let s := code % 16
  let put : List Nat → Nat → List Int := fun ps sg => (List.range 8).map fun i =>
    match ps.findIdx? (· == i) with
    | some n => if bitOf sg n then -1 else 1
    | none => 0
  if p = 0 then (if s = 0 then some (put [] 0) else none)
  else if p = 1 then some (put [s / 2] (s % 2))
  else if p ≤ 8 then some (put (subset 2 (4 * (p - 2) + s / 4)) (s % 4))
  else if p ≤ 36 then some (put (subset 3 (2 * (p - 9) + s / 8)) (s % 8))
  else if p ≤ 106 then some (put (subset 4 (p - 37)) s)
  else none

/-- Five trits, or why they are undefined. -/
abbrev Trits := Except (BitVec 16) (List Int)
/-- The group of five weights at position p of a T5 or T48 tensor (R22, R246). (log 66, DEDUCED) -/
def groupTrits (fmt : Nat) (rd : Rd) (p : Nat) : Trits :=
  if fmt = 0x01 then
    match rd.bad p 1 with
    | some st => .error st
    | none => match t5Trits (rd.byte p).toNat with | some t => .ok t | none => .error stWeightCode
  else
    let base := 28 * (p / 32)
    match rd.bad base 28 with
    | some st => .error st
    | none =>
      let v := rd.nat base 28
      let ws : List (Option Int) := (List.range 5).map fun i =>
        let x := 5 * (p % 32) + i
        (t48Trits (bitsOf v (11 * (x / 8) + 10) (11 * (x / 8)))).map fun t => nth 0 t (x % 8)
      if ws.all Option.isSome then .ok (ws.filterMap id) else .error stWeightCode
/-- The five digits of plane q at wide position p of a stored plane tensor (R38): the slice of a window holds P x 32 bytes.
(log 70, DEDUCED) -/
def planeTrits (planes : Nat) (rd : Rd) (p q : Nat) : Trits :=
  let a := (p / 160) * 32 * planes + 32 * q + (p % 160) / 5
  match rd.bad a 1 with
  | some st => .error st
  | none => match t5Trits (rd.byte a).toNat with | some t => .ok t | none => .error stWeightCode
/-- Non-adjacent form in n digits (R36). -/
def naf : Nat → Int → List Int
  | 0, _ => []
  | n + 1, x =>
    let d : Int := if x % 2 = 0 then 0 else 2 - x % 4
    d :: naf n ((x - d) / 2)

/-- The weight side of one output row in one window: digits of each plane, and the window exponent of a block-scaled side. -/
structure WSlice where
  planes : List (List Int)
  exp    : Option Int
  bad    : List (BitVec 16)
  deriving DecidableEq, Repr

def errsOf (ts : List Trits) : List (BitVec 16) := ts.filterMap fun t => match t with | .error e => some e | .ok _ => none
def tritsOf (ts : List Trits) : List Int := ts.flatMap fun t => match t with | .ok x => x | .error _ => [0, 0, 0, 0, 0]
/-- Windows of a list of block-scaled blocks: window exponent and aligned mantissas (R24). -/
def alignWin (ws : List Blk) : Option Int × List Int :=
  let nz := ws.filter fun b => b.mant.any (· != 0)
  match nz with
  | [] => (none, [])
  | _ =>
    let e : Int := nz.foldl (fun m b => if m < (b.exp : Int) then (b.exp : Int) else m) 0
    (some e, ws.flatMap fun b => b.mant.map fun m => shrRnd m (e - b.exp) .near)
/-- Blocks of a stored row. -/
def rawBlks (row : List Raw) : List Blk :=
  (chunksOf 32 row).map fun c =>
    { mant := padTo 32 0 (c.map (·.val)), exp := (match c with | r :: _ => r.exp | [] => 0), clips := 0, sat := false }
/-- Linear index of (n, x1, c2, c3) in a tensor whose dimensions 2 and 3 broadcast with extent 1. -/
def Ten.at (t : Ten) (i0 i1 c2 c3 : Nat) : Int :=
  t.elemAt 0 + (i0 : Int) * t.s 0 + (i1 : Int) * t.s 1 + ((if c2 < t.e 2 then c2 else 0 : Nat) : Int) * t.s 2
    + ((if c3 < t.e 3 then c3 else 0 : Nat) : Int) * t.s 3
/-- Row n of the weight side in window v, for an inner extent K; trits at K or beyond are ignored (R22),
so a group whose nonzero trits all lie there is a zero group. (log 70, DEDUCED) -/
def weightSlice (tmmp tr : Bool) (t : Ten) (rd : Rd) (k n c2 c3 v : Nat) : WSlice :=
  let lo := 160 * v
  let cnt := if k - lo < 160 then k - lo else 160
  let groups := ceilDiv cnt 5
  if !tmmp then
    let gs : List Trits :=
      if tr then (List.range cnt).map fun i =>
        match groupTrits t.fmt rd (t.at (n / 5) (lo + i) c2 c3).toNat with
        | .ok x => .ok [nth 0 x (n % 5)]
        | .error e => .error e
      else (List.range groups).map fun g => groupTrits t.fmt rd (t.at (lo / 5 + g) n c2 c3).toNat
    let ds := if tr then gs.map fun x => match x with | .ok y => nth 0 y 0 | .error _ => 0 else (tritsOf gs).take cnt
    { planes := [ds], exp := none, bad := errsOf gs }
  else if t.fmt = 0x40 ∨ t.fmt = 0x41 then
    let p := if t.fmt = 0x40 then 5 else 9
    let pl : List (List Trits) := (List.range p).map fun q =>
      (List.range groups).map fun g => planeTrits p rd (t.at (lo + 5 * g) n c2 c3).toNat q
    { planes := pl.map fun ts => (tritsOf ts).take cnt, exp := none, bad := pl.flatMap errsOf }
  else
    let row := (List.range cnt).map fun i =>
      if t.xc then
        let pos := (t.at (lo + i) n c2 c3 - t.off).toNat
        match t.tile rd (pos / (xcFmt t.fmt).n) with
        | .ok d => tileRaw t.fmt d (pos % (xcFmt t.fmt).n)
        | .error e => { val := 0, exp := 0, fl := 0, bad := some e }
      else denseRaw t.fmt rd t.base (t.at (lo + i) n c2 c3).toNat
    let al := alignWin (rawBlks row)
    let p := if t.fmt = 0x11 then 5 else 9
    let ds := al.2.map (naf p)
    { planes := (List.range p).map fun q => ds.map fun d => nth 0 d q, exp := al.1, bad := row.filterMap (·.bad) }
/-- The groups of one way: the others are zero (R251). -/
def wayDigits (w j : Nat) (ds : List Int) : List Int :=
  if w = 1 then ds else ((chunksOf 5 ds).zipIdx.map fun x => if x.2 % w = j then x.1 else x.1.map fun _ => 0).flatten
/-- Nonzero groups of a plane. -/
def liveGroups (ds : List Int) : Nat := (chunksOf 5 ds).countP fun g => g.any (· != 0)
/-- Queue entries of a row slice (R29, Table 2.5). -/
def sliceEntries (s : WSlice) : Nat := (s.planes.map fun p => ceilDiv (liveGroups p) 8).foldl (· + ·) 0
def dot (xs ys : List Int) : Int := (List.zipWith (· * ·) xs ys).foldl (· + ·) 0

/-! ### Activations -/

/-- An activation row at a format: its windows, and SAT of R76. -/
structure ARow where
  wins : List (Option Int × List Int)
  sat  : Bool
  deriving DecidableEq, Repr
def actRow (auto : Bool) (f : Nat) (row : List Raw) : ARow :=
  let bs := if auto then narrowRow (fmtW f) (fun _ => .near) (fun _ => 0) (row.map (rawPx 0x13)) else rawBlks row
  { wins := (chunksOf 5 bs).map alignWin, sat := bs.any (·.sat) }
/-- Row sums of one window for one batch row: (sum, tag exponent), the high pass of A16 first (R25, R31, R37, R43). (log
70, DEDUCED) -/
def contribs (f : Nat) (blockScaled : Bool) (ws : WSlice) (act : Option Int × List Int) : List (Int × Int) :=
  match act.1 with
  | none => []
  | some e =>
    if sliceEntries ws = 0 then [] else
    let wx : Int := if blockScaled then (match ws.exp with | some x => x - bias | none => 0) else 0
    let sum : List Int → Int := fun ms => (ws.planes.zipIdx.map fun p => dot p.1 ms * 2 ^ p.2).foldl (· + ·) 0
    if f = 3 then [(sum (act.2.map fun m => m / 256), e + wx + 8), (sum (act.2.map fun m => m % 256), e + wx)]
    else [(sum act.2, e + wx)]

/-! ### Tiles (R32, R251) -/

/-- Shape and placement of an instruction's tiles. -/
structure Geo where
  r    : Nat
  b    : Nat
  nr   : Nat
  nb   : Nat
  /-- Row, row block, row slots of its ways. -/
  rows : List (Nat × Nat × List Nat)
  deriving DecidableEq, Repr
def waysOf (split : List (Nat × Nat)) (n : Nat) : Nat := match split.find? fun x => decide (x.1 = n) with | some x => x.2 | none => 1
/-- Lowest row slot with w free lanes from the lowest multiple of w. -/
def freeSlots (r w : Nat) (used : List Nat) : Option (List Nat) :=
  ((List.range (16 * r / w)).map fun i => (List.range w).map fun j => i * w + j).find? fun ls => ls.all fun x => !used.contains x
def placeRows (r : Nat) (split : List (Nat × Nat)) (n : Nat) : List (Nat × Nat × List Nat) :=
  if split.isEmpty then (List.range n).map fun i => (i, i / (16 * r), [i % (16 * r)])
  else ((List.range n).foldl (fun (acc : List (Nat × Nat × List Nat) × Nat × List Nat) i =>
    let w := waysOf split i
    match freeSlots r w acc.2.2 with
    | some ls => (acc.1 ++ [(i, acc.2.1, ls)], acc.2.1, acc.2.2 ++ ls)
    | none => (acc.1 ++ [(i, acc.2.1 + 1, List.range w)], acc.2.1 + 1, List.range w)) ([], 0, [])).1
def minN (a b : Nat) : Nat := if a < b then a else b
/-- Tile shape of N rows and M batch rows (R32). -/
def geoOf (dst : Ten) (split : List (Nat × Nat)) (n m : Nat) : Geo :=
  let slots := n + (split.map fun x => x.2 - 1).foldl (· + ·) 0
  let b := if dst.hint then dst.batch + 1 else minN m 64
  let r := if dst.hint then dst.rows + 1 else minN (minN 8 (ceilDiv slots 256)) (256 / (if b = 0 then 1 else b))
  let rows := placeRows r split n
  { r := r, b := b, nr := (rows.foldl (fun x y => if x < y.2.1 then y.2.1 else x) 0) + 1, nb := ceilDiv m b, rows := rows }
/-- Extents of a job: K, N, M, dimension 2 and 3. -/
structure MDim where
  k  : Nat
  n  : Nat
  m  : Nat
  d2 : Nat
  d3 : Nat
  deriving DecidableEq, Repr
def Job.mdim (j : Job) : MDim :=
  let d := j.ten 0
  let a := j.ten 2
  { k := a.e 0, n := d.e 0, m := d.e 1, d2 := d.e 2, d3 := d.e 3 }
def Job.geo (j : Job) : Geo := geoOf (j.ten 0) j.split j.mdim.n j.mdim.m
/-- See log 32, DEDUCED. -/
def Job.tiles (j : Job) : Nat := if j.dead then 0 else j.geo.nr * j.geo.nb * j.mdim.d2 * j.mdim.d3
/-- Tiles of a core: t with t mod 16 = k. -/
def tilesOn (total k : Nat) : Nat := if k < total then (total - 1 - k) / 16 + 1 else 0
/-- Where tile t lies: (row block, batch block, c2, c3). (log 32, DEDUCED) -/
def tilePos (g : Geo) (d : MDim) (t : Nat) : Nat × Nat × Nat × Nat :=
  let per := g.nr * g.nb
  let u := t % per
  (u % g.nr, u / g.nr, (t / per) % d.d2, (t / per) / d.d2)
/-- Batch rows of batch block j. -/
def tileBats (g : Geo) (d : MDim) (j : Nat) : List Nat := (List.range g.b).map (j * g.b + ·) |>.filter (· < d.m)
/-- Linear index of output element (n, m, c2, c3). -/
def outIdx (d : MDim) (n m c2 c3 : Nat) : Nat := n + d.n * (m + d.m * (c2 + d.d2 * c3))
/-- Bank entry of a row slot and a batch row of the tile: 256 x lane + entry. (log 70, DEDUCED) -/
def entryKey (b slot i : Nat) : Nat := 256 * (slot % 16) + (slot / 16) * b + i

/-! ### Issue -/

/-- The split list at an address: the entries that lie in its window, or `none` where R250 refuses it. (log 66, DEDUCED) -/
def readSplit (x : Cluster) (addr : Word) (n : Nat) : Option (List (Nat × Nat)) :=
  let w := mget 0 x.win (fld addr 63 62)
  let a := fld addr 61 0
  let hdr := leNat (x.spadRd (winPhys w a) 8)
  let cnt := hdr % 2 ^ 16
  let es := ((List.range (cnt % 65)).filter fun i => winOk w a (12 + 4 * i)).map fun i => leNat (x.spadRd (winPhys w (a + 8 + 4 * i)) 4)
  let rows := es.map fun e => e % 2 ^ 20
  if cnt = 0 ∨ 64 < cnt ∨ hdr / 2 ^ 16 ≠ 0 then none
  else if es.any fun e => !(bitsOf e 31 30 == 1 || bitsOf e 31 30 == 2) || decide (n ≤ e % 2 ^ 20) || decide (bitsOf e 29 20 ≠ 0) then none
  else if rows.eraseDups.length ≠ rows.length then none
  else some (es.map fun e => (e % 2 ^ 20, if bitsOf e 31 30 = 1 then 2 else 4))
/-- The header of the list lies in its window. -/
def splitHeadIn (x : Cluster) (addr : Word) : Bool := winOk (mget 0 x.win (fld addr 63 62)) (fld addr 61 0) 8
/-- The list lies in its window. -/
def splitInWin (x : Cluster) (addr : Word) : Bool :=
  let w := mget 0 x.win (fld addr 63 62)
  let a := fld addr 61 0
  winOk w a 8 && winOk w a (8 + 4 * (leNat (x.spadRd (winPhys w a) 2) % 65))

/-- Formats of destination, weight side and activation (R38, R55, R163). -/
def mDstOk (f : Nat) : Bool := isBlk f || f == 0x21 || f == 0x30 || f == 0x31 || f == 0x20
def mWtOk (tmmp : Bool) (f : Nat) : Bool := if tmmp then f == 0x40 || f == 0x41 || f == 0x11 || f == 0x12 else f == 0x01 || f == 0x02
/-- The instruction rounds its output stochastically: it drains, in a rounding mode and to a format that round so (R49, R55, R57,
R76, R86). -/
def mStoch (ref : Bool) (w : Word) (dst : Ten) : Bool := mRnd w && !mKeep w && !ref && (isBlk dst.fmt || dst.fmt == 0x21)
/-- Shapes of R162. -/
def mShapeBad (tmmp tr : Bool) (d wt a : Ten) : Bool :=
  let k := a.e 0
  let n := d.e 0
  (if tr then decide (wt.e 1 ≠ k) || decide (wt.e 0 ≠ ceilDiv n 5)
   else decide (wt.e 0 ≠ if tmmp then k else ceilDiv k 5) || decide (wt.e 1 ≠ n))
  || decide (a.e 1 ≠ d.e 1) || decide (a.e 2 ≠ d.e 2) || decide (a.e 3 ≠ d.e 3)
  || [2, 3].any fun i => decide (wt.e i ≠ d.e i) && !(decide (wt.s i = 0))

/-- The checks of a matrix instruction. (log 32, DEDUCED; log 77, DESIGN CHOICE) -/
def mChk (s : State) (a : Agent) (tmmp : Bool) (w : Word) (d wt ac : Opd) : TChk :=
  let c := match a with | .seq c => c.val | .core _ => 0
  let x := s.cl c
  let ref := s.refMode c
  let p := x.part.toNat
  let auto := decide (ac.t.fmt = 0xF0)
  let ent := if auto then (s.pt p).rangeEntry (ac.t.strm % 2 ^ 15) else none
  let empty := d.t.empty || wt.t.empty || ac.t.empty
  let split := mSplit w ≠ 0
  let la := s.regS a (mSplit w)
  let readable := splitHeadIn x la
  let inWin := splitInWin x la
  { ill := badBits w [fDst, fA, fB, (35, 1)] || decide (15 < wDst w) || decide (15 < wA w) || decide (15 < wB w)
      || decide (mBank w = 3) || (mAcc w && mCont w) || (mTr w && tmmp)
    expert := decide (fld w 27 1 ≠ 0)
    space := [decide (d.t.space = 0), decide (wt.t.space = 0), decide (ac.t.space = 0)]
    fmts := [(!mDstOk d.t.fmt || (decide (d.t.fmt = 0x20) && !wE w)
                || (mAcc w && !(d.t.fmt == 0x21 || d.t.fmt == 0x20)), stOutFormat),
             (d.t.xc && !xcAllowed d.t.fmt, stXcFormat),
             (!mWtOk tmmp wt.t.fmt, stOperandFormat), (wt.t.xc && !xcAllowed wt.t.fmt, stXcFormat),
             (!isBlk ac.t.fmt, stOperandFormat)]
    refs := [(ref && (refBarred d.t.fmt || d.t.fmt == 0x21), stRefFormat)]
    shape := [(decide (d.t.fmt = 0x21) && strideZero d.t, stDestStride),
              (mShapeBad tmmp (mTr w) d.t wt.t ac.t, stShapeMismatch)]
    split := split && readable && (readSplit x la (d.t.e 0)).isNone
    stream := mStoch ref w d.t && s.unclaimed c d.t.strm d.t.count
    addr := [(match ent with | some e => !empty && !(s.pt p).mappedRange e 256 | none => false, stAddrRange)]
    window := [split && !inWin]
    group := [(match ent with | some e => !empty && !s.partOn p e 256 | none => false, stGroupOff)]
    codes := [(auto && !ref && !empty && decide (5 ≤ (s.rangeCtrlOf p (ac.t.strm % 2 ^ 15)).pin), stFormatCode)] }

/-- An instruction takes its invocation of a layer, and what its cluster need not wait for is merged. -/
def State.joinInvoc (s : State) (T : Task) (c layer a : Nat) : State × BitVec 32 :=
  let r := s.takeInvoc T c layer a
  (r.1.rangeFlush T layer, r.2)
/-- Issue reads the list (R124, R250): its words' errors are met; the poisoned words among them. -/
def State.splitTouch (s : State) (c : Nat) (addr : Word) : State × List Nat :=
  let w := mget 0 (s.cl c).win (fld addr 63 62)
  let a := fld addr 61 0
  let n := 8 + 4 * (leNat ((s.cl c).spadRd (winPhys w a) 2) % 65)
  let s1 := s.spadTouch c (winPhys w a) n
  (s1, (s1.cl c).spadPois (winPhys w a) n)
/-- What issue leaves to be decided: tile shape, the range-table entry, the stream claim (R32, R49, R64 to R66, R80, R82). (log 34, DEDUCED) -/
def mAct (c : Nat) (j : Job) (s0 : State) : State × Except (BitVec 16) Job :=
  let w := j.word
  let sp := if mSplit w = 0 then (s0, []) else s0.splitTouch c (nth 0 j.scal 0)
  let s := sp.1
  let d := j.ten 0
  let ac := j.ten 2
  let split := if mSplit w = 0 then [] else match readSplit (s.cl c) (nth 0 j.scal 0) (d.e 0) with | some l => l | none => []
  let j1 := { j with split := split }
  let g := j1.geo
  let shapeBad := d.hint && decide (256 < g.r * g.b)
  let many := (mKeep w || mCont w) && decide (16 < j1.tiles)
  if sp.2 ≠ [] then (s.poisonRec (s.partOf c) 2 c (8 * nth 0 sp.2 0) sp.2.length 3, .error stPoisonConsumed)
  else if shapeBad || many then (s, .error stTileShape)
  else
    let dr := if mStoch j.ref w d then s.drawStream c d.strm d.count else (s, .ok false)
    match dr.2 with
    | .error st => (dr.1, .error st)
    | .ok al =>
      let s1 := dr.1
      let j2 := { j1 with aliased := al }
      match s1.taskOn c with
      | none => (s1, .ok j2)
      | some T =>
        if ac.fmt ≠ 0xF0 then (s1, .ok { j2 with fmt := fmtNo ac.fmt })
        else
          let p := T.id.part.val
          let layer := ac.strm % 2 ^ 15
          let rd := match (s1.pt p).rangeEntry layer with
            | some a => s1.entryRd T.id.part a 4
            | none => (s1, [])
          let s1 := rd.1
          let ct := rangeCtrl (leNat rd.2)
          let th := if ct.thresh = 0 then (s1.pt p).precThresh else ct.thresh
          let esc := !j.ref && !(s1.pt p).precEscDis && !ct.escOff && !mKeep w && !mCont w
          match (s1.pt p).rangeEntry layer with
          | none => (s1, .ok { j2 with isAuto := true, layer := layer, fmt := if j.ref then 3 else 2, esc := esc })
          | some e =>
            let owner := mget 0 (s1.pt p).rangeOwner layer
            if owner ≠ 0 ∧ owner ≠ T.id.hnd then (s1, .error stLayerBusy)
            else
              let s2 := if owner = 0 then s1.takeEntry T layer e else s1
              let r := s2.joinInvoc T c layer e
              let wait := r.1.invocPending p layer (r.2 - 2)
              let f := if wait then (r.1, 0) else r.1.invocFmt T.id.part layer r.2 j.ref ct.pin th
              (f.1, .ok { j2 with
                isAuto := true, layer := layer, invoc := r.2, record := true, esc := esc, limit := ct.limit
                pin := ct.pin, thresh := th
                waiting := wait, fmt := f.2 })

def mForm (tmmp : Bool) (code : Nat) (a : Agent) (w : Word) (s : State) : TForm :=
  let d := mkOpd (s.regD a (wDst w))
  let wt := mkOpd (s.regD a (wA w))
  let ac := mkOpd (s.regD a (wB w))
  .mk code (if tmmp then .tmmp else .tmm) [d, wt, ac] [s.regS a (mSplit w)] (mChk s a tmmp w d wt ac) mAct
def mIssue (tmmp : Bool) (code : Nat) (a : Agent) (w : Word) (s : State) : State := s.formIssue a w (mForm tmmp code a w s)
def execTmm (a : Agent) (w : Word) (s : State) : Host.Outcome State Fault Refusal := .next (mIssue false 0x100 a w s)
def execTmmp (a : Agent) (w : Word) (s : State) : Host.Outcome State Fault Refusal := .next (mIssue true 0x101 a w s)

/-- The task of a cluster has met a fault: no record that its invocations wait for need come (R146). -/
def State.failing (s : State) (c : Nat) : Bool := match s.taskOn c with | some T => T.fault.isSome | none => false
/-- The oldest waiting invocation whose record of k - 2 is written chooses its format (R82). -/
def execInvocationRelease (c : Fin 768) (s : State) : Host.Outcome State Fault Refusal :=
  let p := (s.cl c.val).part.toNat
  .next (if !s.live then s else
    match ((s.cl c.val).unit 0).find? (·.waiting) with
    | none => s
    | some j =>
      if s.invocPending p j.layer (j.invoc - 2) && !s.failing c.val then s
      else
        let f := s.invocFmt (finPart p) j.layer j.invoc j.ref j.pin j.thresh
        f.1.modJob c.val 0 j.id fun j => { j with waiting := false, fmt := f.2 })

/-! ### Banks (R48 to R51) -/

def MCore.bank (m : MCore) (b : Nat) : Bank := if b = 0 then m.bank0 else m.bank1
def MCore.setBank (m : MCore) (b : Nat) (x : Bank) : MCore := if b = 0 then { m with bank0 := x } else { m with bank1 := x }
/-- Bank of a tile on a core, or `none` for BANK_STATE (R49). (log 8, DESIGN CHOICE; log 33, DEDUCED) -/
def pickBank (m : MCore) (bank : Nat) (cont : Bool) : Option Nat :=
  let held := (m.bank 0).held || (m.bank 1).held
  if cont then
    if !held then none
    else if bank = 0 then some (if (m.bank m.last).held then m.last else if (m.bank 0).held then 0 else 1)
    else if (m.bank (bank - 1)).held then some (bank - 1) else none
  else if bank ≠ 0 then (if (m.bank (bank - 1)).held then none else some (bank - 1))
  else
    let alt := 1 - m.last
    if !(m.bank alt).held then some alt else if !(m.bank (1 - alt)).held then some (1 - alt) else none

/-! ### Running a tile -/

/-- What one run of a tile gives. -/
structure TileRun where
  ents  : Map AccEntry
  sats  : Nat
  mix   : Bool
  psat  : Bool
  clips : Nat
  /-- Keys of entries, and output elements, whose value is undefined. -/
  bad   : List Nat
  undef : List Nat
  raws  : List Raw
  imbal : Nat
  deriving DecidableEq, Repr

/-- Initial value of an element under ACC (R54). -/
def accInit (d : Ten) (rd : Rd) (ox : Int) (f : Nat) (i : Nat) : AccEntry × Raw :=
  let r := d.raw rd i
  if d.fmt = 0x21 then
    ({ q := BitVec.ofInt 32 r.val, tag := mkTag (bitOf r.fl 7) (bitOf r.fl 6) (bitsOf r.fl 5 4) true r.exp }, r)
  else ({ q := BitVec.ofInt 32 r.val, tag := mkTag false false f true ox }, r)

/-- Entries that a lane issues against the table sets, summed as R249 does. -/
def imbalOf (slots : Nat) (lanes : List (List Nat)) (wins : Nat) : Nat :=
  slots * ((List.range wins).map fun v =>
    let ns := lanes.map fun l => nth 0 l v
    let top := ns.foldl (fun m n => if m < n then n else m) 2
    (ns.map fun n => top - (if n < 2 then 2 else n)).foldl (· + ·) 0).foldl (· + ·) 0
/-- Table sets per window of b batch rows at a format (Table 2.2, R25). -/
def setsPer (f b : Nat) : Nat := if f = 0 then ceilDiv b 4 else if f = 1 then ceilDiv b 2 else if f = 2 then b else 2 * b

/-- Runs tile t of a job at format f over a bank's entries, of which `oldBad` are undefined; ACC's initial value of a
split row goes to way 0. (log 70, DEDUCED) -/
def runTile (x : Cluster) (j : Job) (t f : Nat) (old : Map AccEntry) (oldBad : List Nat) : TileRun :=
  let w := j.word
  let tmmp := decide (j.op = .tmmp)
  let dst := j.ten 0
  let wt := j.ten 1
  let ac := j.ten 2
  let d := j.mdim
  let g := j.geo
  let pos := tilePos g d t
  let c2 := pos.2.2.1
  let c3 := pos.2.2.2
  let bats := tileBats g d pos.2.1
  let rows := g.rows.filter fun r => decide (r.2.1 = pos.1)
  let wins := ceilDiv d.k 160
  let auto := decide (ac.fmt = 0xF0)
  let arows : List (List Raw) := bats.map fun m => (List.range d.k).map fun k =>
    ac.raw (jobRd x j ac.win) (k + d.k * (m + d.m * (c2 + d.d2 * c3)))
  let acts := arows.map (actRow auto f)
  let blockScaled := tmmp && isBlk wt.fmt
  let wrd := jobRd x j wt.win
  let ws : List (List WSlice) := rows.map fun r =>
    (List.range wins).map fun v => weightSlice tmmp (mTr w) wt wrd d.k r.1 c2 c3 v
  let init : Nat → Nat → AccEntry × Option Raw := fun way i =>
    if mAcc w && decide (way = 0) then (let r := accInit dst (jobRd x j dst.win) (mOx w) f i; (r.1, some r.2))
    else (AccEntry.empty, none)
  -- one accumulator entry: (key, entry, saturated), and the raw initial value
  let one : Nat → (Nat × Nat × List Nat) → Nat → Nat → Nat × AccEntry × Bool × Option Raw := fun ri row way bi =>
    let m := nth 0 bats bi
    let key := entryKey g.b (nth 0 row.2.2 way) bi
    let st := init way (outIdx d row.1 m c2 c3)
    let e0 := if mCont w then mget AccEntry.empty old key else st.1
    let cs := (List.range wins).flatMap fun v =>
      let sl := nth { planes := [], exp := none, bad := [] } (nth [] ws ri) v
      contribs f blockScaled { sl with planes := sl.planes.map (wayDigits row.2.2.length way) }
        (nth (none, []) (nth { wins := [], sat := false } acts bi).wins v)
    let r := cs.foldl (fun (acc : AccEntry × Bool) cy =>
      let y := accAdd acc.1 cy.1 cy.2 f
      (y.1, acc.2 || y.2)) (e0, false)
    (key, if tagValid r.1.tag then r.1 else { q := 0, tag := mkTag false false f false 0 }, r.2, st.2)
  let all := (List.range rows.length).flatMap fun ri =>
    let row := nth (0, 0, []) rows ri
    (List.range row.2.2.length).flatMap fun way => (List.range bats.length).map fun bi => (row.1, bi, one ri row way bi)
  let badRow : Nat → Bool := fun n => (List.range rows.length).any fun ri =>
    decide ((nth (0, 0, []) rows ri).1 = n) && (nth [] ws ri).any fun sl => !sl.bad.isEmpty
  let badBat : Nat → Bool := fun bi => (nth [] arows bi).any fun r => r.bad.isSome
  let px : List (List Px) := arows.map fun row => row.map (rawPx 0x13)
  let bads := all.filter fun y => badRow y.1 || badBat y.2.1 || (mCont w && oldBad.contains y.2.2.1)
    || (match y.2.2.2.2.2 with | some r => r.bad.isSome | none => false)
  { ents := all.foldl (fun mp y => mset AccEntry.empty mp y.2.2.1 y.2.2.2.1) (if mCont w then old else [])
    sats := all.countP fun y => y.2.2.2.2.1
    mix := all.any fun y => tagMix y.2.2.2.1.tag
    psat := auto && acts.any (·.sat)
    clips := if auto && decide (f < 3) then (px.map (rowClips (2 ^ f))).foldl (· + ·) 0 else 0
    bad := bads.map fun y => y.2.2.1
    undef := bads.map fun y => outIdx d y.1 (nth 0 bats y.2.1) c2 c3
    raws := arows.flatten ++ ws.flatMap (fun r => r.flatMap fun sl => sl.bad.map fun b => { val := 0, exp := 0, fl := 0, bad := some b })
      ++ all.filterMap fun y => y.2.2.2.2.2
    imbal := imbalOf (setsPer f bats.length) ((List.range 16).map fun l => (List.range wins).map fun v =>
      (((List.range rows.length).flatMap fun ri =>
        let row := nth (0, 0, []) rows ri
        (List.range row.2.2.length).map fun way =>
          if nth 0 row.2.2 way % 16 = l then
            let sl := nth { planes := [], exp := none, bad := [] } (nth [] ws ri) v
            sliceEntries { sl with planes := sl.planes.map (wayDigits row.2.2.length way) }
          else 0)).foldl (· + ·) 0) wins }

/-- A tile status word (Table 3.2). -/
def tileWord (sat al mix esc : Bool) (f n : Nat) : BitVec 32 :=
  BitVec.ofNat 32 (bool2 sat * 2 ^ 31 + bool2 al * 2 ^ 30 + bool2 mix * 2 ^ 29 + bool2 esc * 2 ^ 28 + f * 2 ^ 26 + cap16 n)
/-- What a tile status word merges into the instruction's status: its flags and its count (R47). -/
def tileStat (w : BitVec 32) : Stat :=
  { sat := w.getLsbD 31, aliased := w.getLsbD 30, mix := w.getLsbD 29, esc := w.getLsbD 28, satCnt := w.toNat % 2 ^ 16 }
/-- Where the format of a tile's final run is kept: by batch block and index of dimensions 2 and 3. -/
def fmtKey (g : Geo) (d : MDim) (pos : Nat × Nat × Nat × Nat) : Nat := pos.2.1 + g.nb * (pos.2.2.1 + d.d2 * pos.2.2.2)

/-- Adds to the count of a task's escalation repeats (R85). (log 35, DEDUCED) -/
def State.countRepeat (s : State) (c : Nat) : State :=
  match s.taskOn c with
  | none => s
  | some T => (s.modTask T.id fun T => { T with esc := T.esc + 1, escStep := T.escStep + 1 }).modPt T.id.part.val
      fun P => { P with repeats := satAdd P.repeats 1 }
/-- An instruction that cannot go on writes nothing: the banks that it fills are freed, and what it has in the output buffers is
dropped. (log 33, DEDUCED) -/
def State.killJob (s : State) (c : Nat) (j : Job) (st : BitVec 16) : State :=
  let s1 := s.jobFault c 0 j st
  (s1.modJob c 0 j.id fun j => { j with dead := true }).modCl c fun x =>
    { x with cores := x.cores.map fun kv =>
        let fr : Bank → Bank := fun b => if b.job = j.id && decide (b.st ≠ .free) then Bank.reset else b
        (kv.1, { kv.2 with bank0 := fr kv.2.bank0, bank1 := fr kv.2.bank1, buf := kv.2.buf.filter fun b => b.job ≠ j.id }) }

/-- A run of the next tile of core k ends: the tile repeats at the next wider format or takes its place in its bank (R84); the
imbalance of the last run alone counts. (log 70, DEDUCED) -/
def tileEnd (c k : Nat) (s : State) : State :=
  let x := s.cl c
  match (x.unit 0).find? fun j => decide (mget 0 j.coreDone k < tilesOn j.tiles k) with
  | none => s
  | some j =>
    if j.waiting then s else
    let m := x.mcore k
    match pickBank m (mBank j.word) (mCont j.word) with
    | none => s.killJob c j stBankState
    | some b =>
      let bk := m.bank b
      if bk.st ≠ .free && !(mCont j.word && bk.held) then s
      else
        let t := k + 16 * mget 0 j.coreDone k
        let f := if mget 0 j.runFmt k = 0 then j.fmt else mget 0 j.runFmt k - 1
        let s1 := ((s.touchTen c (j.ten 1)).touchTen c (j.ten 2))
        let s2 := if mAcc j.word then s1.touchTen c (j.ten 0) else s1
        let x2 := s2.cl c
        let r := runTile x2 j t f bk.ents bk.undef
        if j.esc && (decide (0 < r.sats) || decide (j.limit < r.clips)) && decide (f < 3) then
          (s2.modJob c 0 j.id fun j => { j with
            runFmt := mset 0 j.runFmt k (f + 2), runReps := mset 0 j.runReps k (mget 0 j.runReps k + 1)
            status := statMerge j.status ({ repeats := 1 } : Stat).word }).countRepeat c
        else
          let st := tileWord (decide (0 < r.sats)) j.aliased r.mix (decide (0 < mget 0 j.runReps k)) f r.sats
          let jb := fmtKey j.geo j.mdim (tilePos j.geo j.mdim t)
          let s3 := s2.readFault c 0 j (if mAcc j.word then [j.ten 1, j.ten 2, j.ten 0] else [j.ten 1, j.ten 2]) r.raws
          let s4 := s3.modJob c 0 j.id fun j => { j with
            coreDone := mset 0 j.coreDone k (mget 0 j.coreDone k + 1), runFmt := mset 0 j.runFmt k 0
            conts := j.conts ++ if mCont j.word then bk.src else []
            runReps := mset 0 j.runReps k 0, tstat := mset 0 j.tstat t st, status := statMerge j.status ({ sat := r.psat } : Stat).word
            undef := j.undef ++ r.undef
            fmts := mset 0 j.fmts jb (mget 0 j.fmts jb ||| 2 ^ f), started := true }
          s4.modCl c fun x =>
            let x1 := x.setCore k ({ m with last := b }.setBank b
              { st := .active, held := mKeep j.word, due := !mKeep j.word, job := j.id, tile := t, fmt := f, word := j.word
                dst := nth 0 j.descs 0, ents := r.ents, undef := r.bad
                src := (if mCont j.word then bk.src else []) ++ [j.id] })
            { x1 with
              imbalance := satAdd x1.imbalance r.imbal
              worst := if x1.worst.toNat < cap16 (r.imbal / 16) then BitVec.ofNat 16 (cap16 (r.imbal / 16)) else x1.worst }
def execTileEnd (c : Fin 768) (k : Fin 16) (s : State) : Host.Outcome State Fault Refusal :=
  .next (if s.live && !s.issueHeld c.val then tileEnd c.val k.val s else s)

/-- Entries of a drained bank by output index; the ways of a row are combined in the tree of R67 (R252). -/
def drainEnts (j : Job) (bk : OutBuf) : List (Nat × AccEntry × Bool) :=
  let d := j.mdim
  let g := j.geo
  let pos := tilePos g d bk.tile
  let bats := tileBats g d pos.2.1
  (g.rows.filter fun r => decide (r.2.1 = pos.1)).flatMap fun row => (List.range bats.length).map fun bi =>
    let es := row.2.2.map fun sl => (mget AccEntry.empty bk.ents (entryKey g.b sl bi), false)
    let r := tree (fun (a b : AccEntry × Bool) => let y := accCombine a.1 b.1; (y.1, a.2 || b.2 || y.2)) es
    let e := match r with | some y => y | none => (AccEntry.empty, false)
    (outIdx d row.1 (nth 0 bats bi) pos.2.2.1 pos.2.2.2, e.1, e.2)
/-- The output stage empties the buffer of core k: each entry goes to the instruction that filled the bank (R52, R53, R252).
(log 70, DEDUCED) -/
def emptyBuf (c k : Nat) (s : State) : State :=
  match ((s.cl c).mcore k).buf with
  | none => s
  | some bk =>
    let s1 := s.modCl c fun x => x.setCore k { x.mcore k with buf := none }
    match ((s.cl c).unit 0).find? fun j => decide (j.id = bk.job) with
    | none => s1
    | some j =>
      let es := drainEnts j bk
      let n := es.countP fun y => y.2.2
      s1.modJob c 0 j.id fun j => { j with
        drained := j.drained + 1
        ents := es.foldl (fun mp y => mset AccEntry.empty mp y.1 y.2.1) j.ents
        status := statMerge j.status ({ sat := decide (0 < n), satCnt := n } : Stat).word }
/-- A due bank becomes DRAINING once the output buffer is empty (R51): no other bank fills it, and what it held is converted.
(log 70, DEDUCED) -/
def bankDrain (c k b : Nat) (s : State) : State :=
  let m := (s.cl c).mcore k
  let bk := m.bank b
  if bk.due && decide (bk.st = .active) && decide ((m.bank (1 - b)).st ≠ .draining) then
    (emptyBuf c k s).modCl c fun x => x.setCore k ((x.mcore k).setBank b { (x.mcore k).bank b with st := .draining, due := false })
  else s
def execBankDrain (c : Fin 768) (k : Fin 16) (b : Fin 2) (s : State) : Host.Outcome State Fault Refusal :=
  .next (if s.live then bankDrain c.val k.val b.val s else s)
/-- The drain ends: the bank is FREE and its entries are in the output buffer (R51, R52). A combine of split rows that saturates
counts beside its ways (R46). (log 70, DEDUCED) -/
def bankDrainEnd (c k b : Nat) (s : State) : State :=
  let m := (s.cl c).mcore k
  let bk := m.bank b
  if bk.st ≠ .draining then s else
  s.modCl c fun x => x.setCore k ({ m with buf := some { job := bk.job, tile := bk.tile, ents := bk.ents } }.setBank b Bank.reset)
def execBankDrainEnd (c : Fin 768) (k : Fin 16) (b : Fin 2) (s : State) : Host.Outcome State Fault Refusal :=
  .next (if s.live then bankDrainEnd c.val k.val b.val s else s)

/-! ### Completion -/

/-- Every tile of a job has drained, or is kept in its bank, or the job writes nothing. -/
def mDone (j : Job) : Bool :=
  j.dead || (if mKeep j.word then (List.range 16).all fun k => decide (mget 0 j.coreDone k = tilesOn j.tiles k)
             else decide (j.drained = j.tiles))
/-- The output stages of a cluster empty every buffer. -/
def emptyBufs (c : Nat) (s : State) : State := (List.range 16).foldl (fun s k => emptyBuf c k s) s
/-- The runs of the tiles of a job again, for what other instructions wrote to its operands up to its completion (R40): nothing
was written, no element depends on it. (log 37, DEDUCED) -/
def lateRuns (x : Cluster) (j : Job) : List (Nat × TileRun) :=
  if (j.taints x).isEmpty then [] else (List.range j.tiles).map fun t => (t, runTile x j t 0 [] [])
/-- What the output stage converts for element i. -/
def mSrc (j : Job) (i : Nat) : Src :=
  let e := mget AccEntry.empty j.ents i
  let v := tagValid e.tag
  { px := if j.undef.contains i || decide (j.fault = stWeightCode) then .undef
          else if v then .val e.val (tagX e.tag) else .val 0 0
    valid := v, mix := tagMix e.tag, sat := tagSat e.tag, fmt := tagFmt e.tag }
/-- The observations of an AUTO operand, with the clips of the formats at which its tiles ended (R78). -/
def mMon (x : Cluster) (j : Job) : Mon :=
  let a := j.ten 2
  let d := j.mdim
  let g := j.geo
  (List.range (d.m * d.d2 * d.d3)).foldl (fun acc i =>
    acc.merge (monRow (mget 0 j.fmts (fmtKey g d (0, (i % d.m) / g.b, (i / d.m) % d.d2, i / d.m / d.d2))) (((List.range d.k).map fun k => a.raw (jobRd x j a.win) (k + d.k * i)).map
      (rawPx 0x13)))) Mon.zero
/-- Output elements of an instruction that come from these entries of core k, where it runs one tile. -/
def keyOutputs (y : Job) (k : Nat) (keys : List Nat) : List Nat :=
  let d := y.mdim
  let g := y.geo
  let pos := tilePos g d k
  let bats := tileBats g d pos.2.1
  (g.rows.filter fun r => decide (r.2.1 = pos.1)).flatMap fun row => (List.range bats.length).filterMap fun bi =>
    if row.2.2.any fun sl => keys.contains (entryKey g.b sl bi) then some (outIdx d row.1 (nth 0 bats bi) pos.2.2.1 pos.2.2.2) else none
/-- The entries of the banks that an instruction keeps, and what others went on from under CONT, are undefined where its operands
were written meanwhile (R40, R49). -/
def keepBad (x : Cluster) (id : Nat) (late : List (Nat × TileRun)) : Cluster :=
  late.foldl (fun (x : Cluster) y =>
    let m := x.mcore (y.1 % 16)
    let add : Bank → Bank := fun b => if b.src.contains id then { b with undef := b.undef ++ y.2.bad } else b
    let x1 := x.setCore (y.1 % 16) { m with bank0 := add m.bank0, bank1 := add m.bank1 }
    x1.setUnit 0 ((x1.unit 0).map fun z =>
      if z.conts.contains id then { z with undef := z.undef ++ keyOutputs z (y.1 % 16) y.2.bad } else z)) x
/-- A matrix instruction completes: its output is stored, its record merged (R53, R79, R138). -/
def mComplete (c : Nat) (j0 : Job) (s : State) : State :=
  let d := j0.ten 0
  let w := j0.word
  let x := s.cl c
  let late := if j0.dead then [] else lateRuns x j0
  let j := { j0 with undef := j0.undef ++ late.flatMap fun y => y.2.undef }
  let mon := if j.isAuto && !j.dead then mMon x j else Mon.zero
  let sel : RndSel := { stoch := mStoch j.ref w d, seed := s.seedOf c, field := d.strm, site := if d.fmt = 0x21 then 1 else 0, pass := mPass w }
  let r := convert { rnd := sel.at, free := fun i => s.freeAt i, satF := true, ox := mOx w, drain := true } d
    ((List.range d.count).map (mSrc j))
  let wr := !j.dead && !mKeep w
  let s1 := if wr then (s.storeOut c 0 d (wE w) r.1).bump d.count else s
  let s2 := match s1.taskOn c with
    | some T => if j.record && !j.dead then s1.rangeMerge T j.layer j.invoc j.fmt mon else s1
    | none => s1
  let sb := if mKeep w then s2.modCl c fun x => keepBad x j.id late else s2
  let st := statMerge (j.tstat.foldl (fun a kv => statMerge a (tileStat kv.2).word) j.status) (statMerge ({ clip := decide (0 < mon.clips), clips := mon.clips } : Stat).word
    (if wr then r.2.word else 0))
  sb.finish c 0 j st

end Sys2Proof.Machine
end

