-- ==== Sys2Proof/Machine/DataMove.lean ====
section
/-! DEFINITION. The data movement class (CLASS 0x07): DMOV, GATH and ATOM over scratchpad, partition memory, host memory and other
chips (R168 to R176, R200 to R208, R237, R239, R285, R363, R410, R464), and the memory-side adders. -/

namespace Sys2Proof.Machine

/-! ### Where a tensor lies -/

/-- Host bus address of a byte at or above 2^40 (R363). -/
def State.hostAddr (s : State) (p a : Nat) : Nat :=
  (mget 0 (s.pt p).hostWin ((a - 2 ^ 40) / 2 ^ 36)).toNat / 2 ^ 24 * 2 ^ 24 + (a - 2 ^ 40) % 2 ^ 36
/-- How a job reads a tensor of any space. -/
def State.tenRd (s : State) (c : Nat) (j : Job) (t : Ten) : Rd :=
  let p := (s.cl c).part.toNat
  if t.space = 0 then jobRd (s.cl c) j t.win
  else if t.host then { byte := fun a => mget 0 s.mem.hostMem (s.hostAddr p a), pois := fun _ => false, taint := fun _ => false }
  else if s.local t then dramRd s p
  else { byte := fun a => BitVec.ofNat 8 ((mget 0 j.rx (a / 32)).toNat >>> (8 * (a % 32))), pois := fun a => j.rxPoison.contains (a / 32)
         taint := fun _ => false }
/-- Joins neighbouring ranges. -/
def joinRanges : List (Nat × Nat) → List (Nat × Nat)
  | [] => []
  | (a, n) :: rest => match joinRanges rest with
    | (b, m) :: more => if a + n = b then (a, n + m) :: more else if a = b ∧ n = m then (b, m) :: more else (a, n) :: (b, m) :: more
    | [] => [(a, n)]
/-- Header and index entries of a coded tensor. -/
def Ten.indexReach (t : Ten) : Nat × Nat := (t.base, 32 + 4 * t.tiles)
/-- The used granules of the tiles of a coded tensor: of every tile, or of those that hold an element (R230, R237). -/
def Ten.slotReach (t : Ten) (rd : Rd) (all : Bool) : List (Nat × Nat) :=
  let ks := if all then List.range t.tiles else ((List.range t.count).map fun i => (t.pos i).toNat / (xcFmt t.fmt).n).eraseDups
  (ks.map fun k =>
    let n := 32 * bitsOf (rd.nat (t.base + 32 + 4 * k) 4) 25 18
    (t.slotAt k, if n < (xcFmt t.fmt).slot then n else (xcFmt t.fmt).slot)).filter fun r => decide (r.2 ≠ 0)
/-- The byte ranges that an access to the whole tensor covers; of a coded one, what is used of the tiles (R230). -/
def Ten.reach (t : Ten) (rd : Rd) (units all : Bool) : List (Nat × Nat) :=
  if t.empty then []
  else if t.xc then t.indexReach :: t.slotReach rd all
  else if units then [(t.span.1.toNat, t.spanLen)] else joinRanges ((List.range t.count).flatMap t.cells)
/-- Reads of partition memory: cells are decoded; a closed group answers GROUP_OFF (R410). -/
def State.reachRead (s : State) (c : Nat) (t : Ten) (rs : List (Nat × Nat)) : State × BitVec 16 :=
  let p := (s.cl c).part.toNat
  if t.space = 0 then
    (if t.xc then s.touchTen c t else rs.foldl (fun s r => s.spadTouch c (winPhys (mget 0 (s.cl c).win t.win) r.1) r.2) s, 0)
  else if s.local t then
    if rs.all fun r => s.partOn p r.1 r.2 then (rs.foldl (fun s r => s.partTouch p r.1 r.2) s, 0) else (s, stGroupOff)
  else (if t.host then rs.foldl (fun s r => s.hostAsk p false (s.hostAddr p r.1) r.2) s else s, 0)

/-! ### Writing -/

/-- A plan without the granules that hold one of these bytes (R464). -/
def planDrop (pl : Plan) (ps : List Nat) : Plan :=
  if ps.isEmpty then pl else
  let gs := (ps.map (· / 32)).eraseDups
  pl.flatMap fun x => ((List.range x.2.length).filter fun i => !gs.contains ((x.1 + i) / 32)).map fun i => (x.1 + i, [nth 0 x.2 i])
/-- Stores a plan into a tensor of scratchpad, partition memory or host memory; `ps` are the bytes that are poisoned. A write to
a closed group is discarded and logged; a host write leaves out poisoned granules (R410, R464). -/
def State.tenWr (s : State) (c : Nat) (t : Ten) (pl0 : Plan) (ps : List Nat) : State × BitVec 16 :=
  let p := (s.cl c).part.toNat
  let pl := coalesce pl0
  if t.space = 0 then
    let w := mget 0 (s.cl c).win t.win
    ((s.spadPlan c 3 t.win pl).modCl c fun x => x.spadPoisonSet ((ps.map fun a => winPhys w a / 8).eraseDups), 0)
  else if t.host then ((planDrop pl ps).foldl (fun s x => s.hostWr p (s.hostAddr p x.1) x.2) s, 0)
  else
    let r := pl.foldl (fun (acc : State × BitVec 16) x =>
      if acc.1.partOn p x.1 x.2.length then (acc.1.partWr p x.1 x.2, acc.2)
      else (acc.1.groupOffLog (match (acc.1.pt p).dev x.1 with | some d => d | none => 0) (BitVec.ofNat 8 p) acc.1.lnk.chip, stGroupOff))
      (s, 0)
    (r.1.partPoisonSet p ((ps.map fun a => a / 32 * 32).eraseDups), r.2)

/-! ### Requests to another chip -/

/-- Granules of ranges in order, without repeats. -/
def granulesOf (rs : List (Nat × Nat)) : List Nat :=
  (rs.flatMap fun r => if r.2 = 0 then [] else (List.range ((r.1 + r.2 - 1) / 32 + 1 - r.1 / 32)).map (r.1 / 32 + ·)).eraseDups
/-- Runs of consecutive granules, at most 16 to a packet (R290). -/
def granuleRuns : List Nat → List (Nat × Nat)
  | [] => []
  | g :: gs => match granuleRuns gs with
    | (h, n) :: more => if g + 1 = h ∧ n < 16 then (g, n + 1) :: more else (g, 1) :: (h, n) :: more
    | [] => [(g, 1)]
/-- A request packet of a job to a chip's partition memory. -/
def jobPacket (s : State) (c : Nat) (typ : BitVec 8) (vc chip g : Nat) : Packet :=
  { mkPacket typ (BitVec.ofNat 4 vc) s.lnk.chip (BitVec.ofNat 14 chip) with
    spart := (s.cl c).part, addr := machineAddr 0 chip (32 * g) }
/-- Reads granules from another chip into the job. -/
def State.fetch (s : State) (c u : Nat) (j : Job) (vc : Nat) (t : Ten) (rs : List (Nat × Nat)) : State :=
  (granuleRuns (granulesOf rs)).foldl (fun s r =>
    s.request c u j.id r.1 { jobPacket s c tyRead vc t.chip r.1 with len := BitVec.ofNat 5 r.2 }) s
/-- 32 bytes of a plan at a granule, and the bytes that are written. -/
def planGranule (pl : Plan) (g : Nat) : List Byte × List Bool :=
  let hit : Nat → Option Byte := fun a => (pl.find? fun x => decide (x.1 ≤ a) && decide (a < x.1 + x.2.length)).map fun x => nth 0 x.2 (a - x.1)
  let bs := (List.range 32).map fun i => hit (32 * g + i)
  (bs.map fun b => match b with | some v => v | none => 0, bs.map Option.isSome)
def boolsNat (bs : List Bool) : Nat := ((List.range bs.length).map fun i => if nth false bs i then 2 ^ i else 0).foldl (· + ·) 0
/-- Writes a plan to another chip: byte enables hold for the first and the last granule of a packet (Table 13.8), so a packet
has partial granules at its ends only. -/
def State.sendWrites (s : State) (c u : Nat) (j : Job) (vc : Nat) (t : Ten) (pl0 : Plan) (ps : List Nat) : State :=
  let pl := coalesce pl0
  let bad : Nat → Bool := fun g => ps.any fun a => decide (a / 32 = g)
  pl.foldl (fun s x =>
    (granuleRuns (granulesOf [(x.1, x.2.length)])).foldl (fun s r =>
      let gs := (List.range r.2).map (r.1 + ·)
      let gr := gs.map fun g => planGranule [x] g
      let en : Nat → Nat := fun i => boolsNat (nth ([], []) gr i).2
      s.request c u j.id 0 { jobPacket s c tyWrite vc t.chip r.1 with
        len := BitVec.ofNat 5 r.2
        aux := BitVec.ofNat 64 (en 0 * 2 ^ 32 + en (r.2 - 1))
        poison := BitVec.ofNat 16 (boolsNat (gs.map bad))
        data := gr.map fun y => BitVec.ofNat 256 (leNat y.1) }) s) s

/-! ### DMOV -/

/-- Copies bytes: those that another instruction writes meanwhile are undefined, poison goes along. -/
def copyRange (rd : Rd) (free : Nat → Word) (sa da n : Nat) : List Byte × List Nat :=
  ((List.range n).map fun i => if rd.taint (sa + i) then (free i).setWidth 8 else rd.byte (sa + i),
   (List.range n).filterMap fun i => if rd.pois (sa + i) then some (da + i) else none)
/-- What a DMOV stores: bytes, poisoned bytes, RAW tiles made, and an execution fault. -/
structure Move where
  plan : Plan
  ps   : List Nat
  raws : Nat
  flt  : Option (BitVec 16)
  deriving DecidableEq, Repr
/-- Every element lies at one place of its storage unit on both sides, whatever the extents, so that whole units move (R71, R168). -/
def sameUnits (d a : Ten) : Bool :=
  (isBlk d.fmt || d.fmt == 0x21) && !d.xc && !a.xc && decide ((d.pos 0 - a.pos 0) % (if d.fmt = 0x21 then 1024 else 4096) = 0)
    && (List.range d.count).all fun i => decide (d.pos i - a.pos i = d.pos 0 - a.pos 0)
/-- An element as it is copied; an undefined one is a free value. -/
def rawOr (fmt : Nat) (free : Word) (r : Raw) : Raw :=
  match r.bad with
  | none => r
  | some st =>
    if st = stPoisonConsumed then r
    else if isBlk fmt ∨ fmt = 0x21 then
      { r with val := sextNat (free.toNat % 2 ^ blkW fmt) (blkW fmt), exp := bitsOf free.toNat 63 56, fl := bitsOf free.toNat 51 48 * 16 }
    else { r with val := ((free.toNat % 2 ^ 32 : Nat) : Int) }
/-- Elements as an output of a format, EXP as stored: a block takes that of the last element that goes into it. (log 38, DEDUCED) -/
def rawsOut (d : Ten) (rs : List Raw) : Out :=
  let z : Raw := { val := 0, exp := 0, fl := 0, bad := none }
  let last : List Raw → Raw := fun l => match l.getLast? with | some x => x | none => z
  if isBlk d.fmt then
    .blocks ((List.range d.rowsOf).map fun r => (chunksOf 32 ((rs.drop (r * d.e 0)).take (d.e 0))).map fun b =>
      { mant := padTo 32 0 (b.map (·.val)), exp := (last b).exp, clips := 0, sat := false })
  else if d.fmt = 0x21 then
    let idx := (List.range rs.length).map fun i => ((d.pos i).toNat, i)
    .ps16 (((idx.map fun x => x.1 / 32).eraseDups).map fun b =>
      let here := idx.filter fun x => decide (x.1 / 32 = b)
      let l := last (here.map fun x => nth z rs x.2)
      { pos := 32 * b, mant := here.map fun x => (x.1, (nth z rs x.2).val), exp := l.exp, fl := l.fl })
  else .plain (rs.map fun r => (r.val % 2 ^ 32).toNat)
/-- Cells of element i in what a move stores: those of its slot where a region is stored RAW (R239). (log 38, DEDUCED) -/
def Ten.rawCells (t : Ten) (i : Nat) : List (Nat × Nat) :=
  if t.xc then
    let f := xcFmt t.fmt
    let p := (t.pos i).toNat
    let a := t.slotAt (p / f.n)
    let q := p % f.n
    if isBlk t.fmt then
      let w := blkW t.fmt
      [(a + (q / 32) * 4 * w + ((q % 32) * w) / 8, ceilDiv w 8), (a + 4096 + q / 32, 1)]
    else if t.fmt = 0x21 then [(a + 2 * q, 2), (a + 4096 + q / 32, 1), (a + 4160 + q / 32, 1)]
    else [(a + q * eltBytes t.fmt, eltBytes t.fmt)]
  else t.cells i
/-- Bytes that element i stores poisoned: all of it where its tile was expanded from poison (R243), else each part of it that
was read poisoned (R463). (log 38, DEDUCED) -/
def movedCells (d a : Ten) (rd : Rd) (rs : List Raw) (i : Nat) : List Nat :=
  if (nth { val := 0, exp := 0, fl := 0, bad := none } rs i).bad = some stPoisonConsumed then
    ((List.zip (if a.xc then d.rawCells i else a.cells i) (d.rawCells i)).filter fun x =>
        a.xc || (List.range x.1.2).any fun b => rd.pois (x.1.1 + b)).flatMap fun x => (List.range x.2.2).map (x.2.1 + ·)
  else []
/-- Places of a byte or slice of a destination: position of the element there, source byte, position at the source. -/
abbrev Cuts := List (Nat × List (Nat × Nat × Nat))
def cutsOf (xs : List (Nat × Nat × Nat × Nat)) : Cuts :=
  ((xs.map (·.1)).eraseDups).map fun b => (b, (xs.filter fun x => decide (x.1 = b)).map (·.2))
/-- One byte or slice of n bytes at b: taken whole where one source holds it alike, else put together from parts of weights, the
rest staying as it was. `get` reads the parts at a place and `enc` encodes them; what cannot be read or encoded is undefined. -/
def moveCut (rd drd : Rd) (free : Nat → Word) (n parts : Nat) (get : Rd → Nat → Nat → Option (List Int)) (enc : List Int → Option (List Byte))
    (x : Nat × List (Nat × Nat × Nat)) : List Byte × List Nat :=
  match x.2 with
  | [] => ([], [])
  | (p, a, q) :: rest =>
    if p = q && rest.all fun y => decide (y.2.1 = a) && decide (y.1 = y.2.2) then copyRange rd free a x.1 n
    else
      let els := (List.range parts).map fun k => match x.2.find? fun y => decide (y.1 = k) with
        | some y => get rd y.2.1 y.2.2
        | none => get drd x.1 k
      let bs := if els.all Option.isSome then enc (els.flatMap fun e => e.getD []) else none
      (match bs with | some bs => bs | none => (List.range n).map fun i => (free i).setWidth 8,
       if x.2.any fun y => (List.range n).any fun i => rd.pois (y.2.1 + i) then (List.range n).map (x.1 + ·) else [])
/-- Five trits as a T5 byte (R20), and eight weights as a T48 code (Table 11.1); `none` where no code stands for them. -/
def t5Byte (ts : List Int) : Option (List Byte) := ((List.range 256).find? fun b => decide (t5Trits b = some ts)).map fun b => [BitVec.ofNat 8 b]
def t48Code (ts : List Int) : Option Nat := (List.range 2048).find? fun c => decide (t48Trits c = some ts)
def t48Slice (ts : List Int) : Option (List Byte) :=
  let cs := (chunksOf 8 ts).map t48Code
  if cs.all Option.isSome then some (leBytes 28 ((List.range cs.length).foldl (fun n i => n + ((nth none cs i).getD 0) * 2 ^ (11 * i)) 0)) else none
/-- Moves the weights of a T48 or plane tensor, by slices and bytes where both sides hold them alike, else weight by weight.
(log 38, DEDUCED) -/
def moveWeights (d a : Ten) (rd drd : Rd) (free : Nat → Word) : List (Nat × List Byte × List Nat) :=
  if d.fmt = 0x02 then
    let xs := (List.range d.count).map fun i =>
      let p := (d.pos i).toNat
      let q := (a.pos i).toNat
      (d.base + 28 * (p / 32), p % 32, a.base + 28 * (q / 32), q % 32)
    let get : Rd → Nat → Nat → Option (List Int) := fun r b k =>
      match groupTrits 0x02 { r with byte := fun x => r.byte (b + x), pois := fun _ => false, taint := fun x => r.taint (b + x) } k with
      | .ok ts => some ts
      | .error _ => none
    (cutsOf xs).map fun x => (x.1, moveCut rd drd free 28 32 get t48Slice x)
  else
    let n := if d.fmt = 0x40 then 5 else 9
    let xs := (List.range d.count).flatMap fun i =>
      let p := (d.pos i).toNat
      let q := (a.pos i).toNat
      (List.range n).map fun k => (d.base + (p / 160) * 32 * n + 32 * k + (p % 160) / 5, p % 5, a.base + (q / 160) * 32 * n + 32 * k + (q % 160) / 5, q % 5)
    let get : Rd → Nat → Nat → Option (List Int) := fun r b k =>
      if r.taint b then none else (t5Trits (r.byte b).toNat).map fun ts => [nth 0 ts k]
    (cutsOf xs).map fun x => (x.1, moveCut rd drd free 1 5 get t5Byte x)
/-- Plan of a DMOV (R168, R169, R237, R239). (log 38, DEDUCED) -/
def dmovPlan (d a : Ten) (rd drd : Rd) (free : Nat → Word) (e force : Bool) : Move :=
  if sameUnits d a then
    let r := copyRange rd free a.span.1.toNat d.span.1.toNat a.spanLen
    { plan := [(d.span.1.toNat, r.1)], ps := r.2, raws := 0, flt := none }
  else if d.xc && a.xc && !force then
    let n := minN' d.tiles a.tiles
    let parts := (a.base, d.base, minN' (32 + 4 * a.tiles) (xcIndexBytes d.tiles)) :: (List.range n).map fun k =>
      let g := bitsOf (rd.nat (a.base + 32 + 4 * k) 4) 25 18
      (a.slotAt k, d.slotAt k, if 32 * g < (xcFmt a.fmt).slot then 32 * g else (xcFmt a.fmt).slot)
    let rs := parts.map fun x => copyRange rd free x.1 x.2.1 x.2.2
    { plan := (List.range parts.length).map fun i => ((nth (0, 0, 0) parts i).2.1, (nth ([], []) rs i).1)
      ps := rs.flatMap (·.2), raws := 0, flt := none }
  else if d.fmt = 0x02 ∨ d.fmt = 0x40 ∨ d.fmt = 0x41 then
    let rs := moveWeights d a rd drd free
    { plan := rs.map fun x => (x.1, x.2.1), ps := rs.flatMap (·.2.2), raws := 0, flt := none }
  else
    let rs := a.raws rd
    let pl := d.plan drd e force (rawsOut d ((List.range rs.length).map fun i =>
      rawOr d.fmt (free i) (nth { val := 0, exp := 0, fl := 0, bad := none } rs i)))
    { plan := pl.1, ps := (List.range d.count).flatMap (movedCells d a rd rs), raws := pl.2
      flt := (rs.filterMap (·.bad)).find? fun st => decide (st = stXcIndex) }
where minN' (a b : Nat) : Nat := if a < b then a else b

def dVc (w : Word) : Nat := fld w 30 27
/-- Poison that a DMOV hands to the host is consumed (R464); what came from another chip is recorded under its machine address
there. (log 67, DEDUCED) -/
def State.dmovPoison (s : State) (c : Nat) (j : Job) (a : Ten) (units : Bool) : State :=
  let p := (s.cl c).part.toNat
  let rs := a.reach (s.tenRd c j a) units false
  if a.space = 0 then s.jobPoison c 3 j (if units then
      ((s.cl c).spadPois (winPhys (mget 0 (s.cl c).win a.win) a.span.1.toNat) a.spanLen).map (8 * ·) else poisonedWords (s.cl c) a)
  else if s.remote a then
    match j.rxPoison.filter fun g => rs.any (meets (32 * g, 32)) with
    | [] => s.jobFault c 3 j stPoisonConsumed
    | g :: gs => (s.poisonRec (BitVec.ofNat 8 p) 0 0 (machineAddr 0 a.chip (32 * gs.foldl (fun m x => if x < m then x else m) g)).toNat
        (gs.length + 1) 4).jobFault c 3 j stPoisonConsumed
  else
    match (s.partPoison p a.span.1.toNat a.spanLen).filter fun k => rs.any (meets (k, 32)) with
    | [] => s.jobFault c 3 j stPoisonConsumed
    | x :: xs =>
      let dev := match (s.pt p).dev x with | some d => d | none => 0
      (s.poisonRec (BitVec.ofNat 8 p) 3 (vaultOf dev) dev (xs.length + 1) 1).jobFault c 3 j stPoisonConsumed
/-- The next move of a DMOV: read from another chip, store here or there, complete when nothing is awaited (R138, R410). While the
host is lost or detached it neither reads nor writes host memory (R377). -/
def dmovStep (c : Nat) (j : Job) (s : State) : State :=
  if j.awaited ≠ 0 then s else
  let d := j.ten 0
  let a := j.ten 1
  let p := (s.cl c).part.toNat
  let units := sameUnits d a
  let vc := dVc j.word
  let force := d.xc && s.local d && (s.pt p).prot d.span.1.toNat
  let all := d.xc && !force
  let sent : Nat → State := fun n => s.modJob c 3 j.id fun j => { j with started := true, phase := n }
  if j.dead || decide (j.phase = 3) || decide (j.fault ≠ 0) then s.finish c 3 j 0
  else if (d.host || a.host) && s.hostHeld p then s
  else if s.remote a && a.xc && decide (j.phase = 0) then (sent 1).fetch c 3 j vc a [a.indexReach]
  else if s.remote a && decide (j.phase < 2) then
    (sent 2).fetch c 3 j vc a (if a.xc then a.slotReach (s.tenRd c j a) all else a.reach (s.tenRd c j a) units all)
  else
    let r := s.reachRead c a (a.reach (s.tenRd c j a) units all)
    if r.2 ≠ 0 then (r.1.jobFault c 3 j r.2).finish c 3 j 0
    else
      let s1 := r.1
      let m := dmovPlan d a (s1.tenRd c j a) (s1.tenRd c j d) (fun i => s1.freeAt i) (wE j.word) force
      let s2 := s1.bump d.count
      let s3 := match m.flt with | some st => s2.jobFault c 3 j st | none => s2
      let s4 := if d.host && !m.ps.isEmpty then s3.dmovPoison c j a units else s3
      if s1.remote d then
        (s4.modJob c 3 j.id fun j => { j with phase := 3 }).sendWrites c 3 j vc d m.plan m.ps
      else
        let w := s4.tenWr c d m.plan m.ps
        (if w.2 ≠ 0 then w.1.jobFault c 3 j w.2 else w.1).finish c 3 j 0

def dmovForm (a : Agent) (w : Word) (s : State) : TForm :=
  let c := match a with | .seq c => c.val | .core _ => 0
  let p := (s.cl c).part.toNat
  let d := mkOpd (s.regD a (wDst w))
  let x := mkOpd (s.regD a (wA w))
  .mk 0x1C0 .dmov [d, x] [] {
    ill := badBits w [fDst, fA, (35, 31), (30, 27)] || decide (15 < wDst w) || decide (15 < wA w)
    priv := decide (12 ≤ dVc w)
    expert := decide (dVc w ≠ 0)
    space := []
    planes := true
    fmts := [(decide (d.t.fmt ≠ x.t.fmt), stOperandFormat), (d.t.xc && !xcAllowed d.t.fmt, stXcFormat), (d.t.xc && !x.t.xc, stXcMismatch),
             (x.t.xc && !xcAllowed x.t.fmt, stXcFormat)]
    refs := [(s.refMode c && refBarred d.t.fmt, stRefFormat)]
    shape := [(decide (d.t.count ≠ x.t.count), stShapeMismatch), (decide (d.t.fmt = 0x21) && strideZero d.t, stDestStride)]
    hold := (d.t.host || x.t.host) && s.hostHeld p } fun _ j s => (s, .ok j)
def dmovIssue (a : Agent) (w : Word) (s : State) : State := s.formIssue a w (dmovForm a w s)
def execDmov (a : Agent) (w : Word) (s : State) : Host.Outcome State Fault Refusal := .next (dmovIssue a w s)

/-! ### GATH (R172 to R174, R200 to R203) -/

def gPool (w : Word) : Bool := bitOf w.toNat 30
def gIw (w : Word) : Bool := bitOf w.toNat 29
def gVc (w : Word) : Nat := fld w 28 25
/-- Rows of a table (R172). -/
def tabRows (t : Ten) : Nat := t.e 1 * t.e 2 * t.e 3
/-- Indices of a list: value, or why it is undefined. -/
def idxList (iw : Bool) (rs : List Raw) : List (Except (BitVec 16) Nat) :=
  let u : Raw → Nat := fun r => (r.val % 2 ^ 32).toNat
  if iw then (chunksOf 2 rs).map fun p => match p with
    | [a, b] => (match orBad a.bad b.bad with | some st => .error st | none => .ok (u a + u b * 2 ^ 32))
    | _ => .error 0
  else rs.map fun r => match r.bad with | some st => .error st | none => .ok (u r)
def emptyIdx (iw : Bool) : Nat := if iw then 2 ^ 64 - 1 else 2 ^ 32 - 1
/-- Linear indices of the elements of a row. -/
def rowElems (t : Ten) (r : Nat) : List Nat := (List.range (t.e 0)).map (· + t.e 0 * r)
/-- Adds a value to a pooled sum (R174, R202). -/
def poolAdd (fmt : Nat) (acc : Nat) (v : Nat) : Nat :=
  if fmt = 0x20 then (acc + v) % 2 ^ 32
  else fv32 (fvAdd32 .near (fvRead 23 acc) (fvRead (fracBits fmt) v)).1
/-- A pooled sum in the output format. -/
def poolOut (fmt : Nat) (acc : Nat) : Nat := if fmt = 0x30 then (frWrite 7 .near 0 (fvRead 23 acc).res).bits else acc
/-- One row of a GATH: element bits and whether each is poisoned. -/
structure GRow where
  vals : List Nat
  pois : List Bool
  flt  : BitVec 16
  deriving DecidableEq, Repr
/-- A row read by index; `free` stands for an undefined element. -/
def gathRow (iw : Bool) (t : Ten) (rd : Rd) (free : Nat → Word) (ix : Except (BitVec 16) Nat) : GRow :=
  let undef : BitVec 16 → GRow := fun st =>
    { vals := (List.range (t.e 0)).map fun k => (free k).toNat % 2 ^ 32, pois := List.replicate (t.e 0) false, flt := st }
  match ix with
  | .error st => undef st
  | .ok n =>
    if n = emptyIdx iw then { vals := List.replicate (t.e 0) 0, pois := List.replicate (t.e 0) false, flt := 0 }
    else if tabRows t ≤ n then undef stIndexRange
    else
      let rs := (rowElems t n).map (t.raw rd)
      { vals := rs.map fun r => (r.val % 2 ^ 32).toNat, pois := rs.map fun r => decide (r.bad = some stPoisonConsumed), flt := 0 }
/-- A pooled bag: sums in slot order from +0; an undefined or poisoned slot reaches the whole row. -/
def gathBag (iw : Bool) (t : Ten) (ofmt : Nat) (rd : Rd) (free : Nat → Word) (ixs : List (Except (BitVec 16) Nat)) : GRow :=
  let live := ixs.filter fun x => match x with | .ok n => decide (n ≠ emptyIdx iw) | .error _ => true
  let rows := live.map (gathRow iw t rd free)
  let flt := rows.foldl (fun st r => if st = 0 then r.flt else st) (0 : BitVec 16)
  let undef := live.any fun x => match x with | .ok n => decide (tabRows t ≤ n) | .error _ => true
  if undef then { vals := (List.range (t.e 0)).map fun k => (free k).toNat % 2 ^ 32, pois := List.replicate (t.e 0) false, flt := flt }
  else
    let sum : Nat → Nat := fun k => rows.foldl (fun acc r => poolAdd t.fmt acc (nth 0 r.vals k)) 0
    { vals := (List.range (t.e 0)).map fun k => if t.fmt = 0x20 then sum k else poolOut ofmt (sum k)
      pois := List.replicate (t.e 0) (rows.any fun r => r.pois.any id), flt := 0 }
/-- Table rows that a list reads. -/
def gathReach (iw : Bool) (t : Ten) (ixs : List (Except (BitVec 16) Nat)) : List (Nat × Nat) :=
  ixs.flatMap fun x => match x with
    | .ok n => if n = emptyIdx iw ∨ tabRows t ≤ n then [] else joinRanges ((rowElems t n).flatMap t.cells)
    | .error _ => []
/-- Slots of a bag as a GATHER names them: `none` for an empty or undefined one. -/
def gathSlots (iw : Bool) (t : Ten) (ixs : List (Except (BitVec 16) Nat)) : List (Option Nat) :=
  ixs.map fun x => match x with | .ok n => if n = emptyIdx iw ∨ tabRows t ≤ n then none else some n | .error _ => none
/-- Granules of an output row. -/
def gathRowGrans (d : Ten) : Nat := ceilDiv (d.e 0 * eltBytes d.fmt) 32
/-- Sends the bags of a table on another chip to its home gather units, which sum a pooled bag and return its row, or return the
rows by slot (R201, R293). A bag without a row to read is not sent. (log 73, DESIGN CHOICE) -/
def State.gathSend (s : State) (c : Nat) (j : Job) (t d : Ten) (bags : List (List (Except (BitVec 16) Nat))) : State :=
  let w := j.word
  let base := t.base + (t.pos 0).toNat * eltBytes t.fmt
  (List.range bags.length).foldl (fun s b =>
    let sl := gathSlots (gIw w) t (nth [] bags b)
    if sl.all Option.isNone then s else
    let n := ceilDiv (sl.length * (if gIw w then 8 else 4)) 32
    let rows := if gPool w then 1 else sl.length
    s.requestAll c 3 j.id (b * rows * gathRowGrans d) (rows * gathRowGrans d) (BitVec.ofNat 14 t.chip) ((List.range (ceilDiv n 16)).map fun i =>
      let m := if n - 16 * i < 16 then n - 16 * i else 16
      { jobPacket s c tyGather (gVc w) t.chip (base / 32) with
        len := BitVec.ofNat 5 m, op := BitVec.ofNat 8 (128 * bool2 (gPool w) + 64 * bool2 (gIw w)), aux := machineAddr 0 t.chip base
        data := (List.range m).map fun k => Config.gatherGranule (gIw w) (t.e 0) t.fmt d.fmt sl (16 * i + k) })) s
/-- Row r of what the home gather units returned. -/
def gathBack (j : Job) (d : Ten) (r : Nat) : GRow :=
  let m := eltBytes d.fmt
  let at_ : Nat → Nat := fun k => 32 * r * gathRowGrans d + m * k
  { vals := (List.range (d.e 0)).map fun k => ((mget 0 j.rx (at_ k / 32)).toNat >>> (8 * (at_ k % 32))) % 2 ^ (8 * m)
    pois := (List.range (d.e 0)).map fun k => j.rxPoison.contains (at_ k / 32), flt := 0 }
/-- GATH: rows are read where the table lies, then the output rows are written (R203: poison stays with its granule or row). -/
def gathStep (c : Nat) (j : Job) (s : State) : State :=
  if j.awaited ≠ 0 then s else
  let w := j.word
  let d := j.ten 0
  let il := j.ten 1
  let t := j.ten 2
  if j.dead || decide (j.fault ≠ 0) then s.finish c 3 j 0 else
  let s0 := s.touchTen c il
  let raws := il.raws (jobRd (s0.cl c) j il.win)
  let ixs := idxList (gIw w) raws
  let reach := gathReach (gIw w) t ixs
  let slots := if il.e 1 = 0 then 0 else ixs.length / il.e 1
  let bags := chunksOf (if slots = 0 then 1 else slots) ixs
  let far := s0.remote t
  if far && !j.started then (s0.modJob c 3 j.id fun j => { j with started := true }).gathSend c j t d bags
  else
    let r := s0.reachRead c t reach
    if r.2 ≠ 0 then (r.1.jobFault c 3 j r.2).finish c 3 j 0
    else
      let s1 := r.1
      let rd := s1.tenRd c j t
      let n := t.e 0
      -- rows formed here; of a table on another chip, those whose slots are empty or undefined
      let rows := if gPool w then (List.range bags.length).map fun b =>
          let here := gathBag (gIw w) t d.fmt rd (fun k => s1.freeAt (b * n + k)) (nth [] bags b)
          if far && decide (here.flt = 0) && (gathSlots (gIw w) t (nth [] bags b)).any Option.isSome then gathBack j d b else here
        else (List.range ixs.length).map fun i =>
          if far && (gathSlots (gIw w) t [nth (.ok 0) ixs i]).any Option.isSome then gathBack j d i
          else gathRow (gIw w) t rd (fun k => s1.freeAt (i * n + k)) (nth (.ok 0) ixs i)
      let m := (eltBytes d.fmt)
      let vals := rows.flatMap (·.vals)
      let ps := (List.range rows.length).flatMap fun i => (List.range n).flatMap fun k =>
        if nth false (nth { vals := [], pois := [], flt := 0 } rows i).pois k then
          (d.cells (i * n + k)).flatMap fun x => (List.range x.2).map (x.1 + ·) else []
      let flts := rows.filterMap fun x => if x.flt = 0 then none else some x.flt
      let w1 := s1.tenWr c d (planPlain d (vals.map (· % 2 ^ (8 * m)))) ps
      let s2 := w1.1.bump (rows.length * n)
      let s3 := if flts.contains stPoisonConsumed then s2.jobPoison c 3 j (poisonedWords (s2.cl c) il)
        else match flts with | st :: _ => s2.jobFault c 3 j st | [] => s2
      s3.finish c 3 j 0

def gathForm (a : Agent) (w : Word) (s : State) : TForm :=
  let d := mkOpd (s.regD a (wDst w))
  let il := mkOpd (s.regD a (wA w))
  let t := mkOpd (s.regD a (wB w))
  let slots := if gIw w then il.t.e 0 / 2 else il.t.e 0
  let rows := if gPool w then il.t.e 1 else slots * il.t.e 1
  let row := t.t.e 0 * eltBytes t.t.fmt
  let isF : Nat → Bool := fun f => f == 0x30 || f == 0x31
  .mk 0x1C1 .gath [d, il, t] [] {
    ill := badBits w [fDst, fA, fB, (35, 31), (30, 30), (29, 29), (28, 25)] || decide (15 < wDst w) || decide (15 < wA w) || decide (15 < wB w)
    priv := decide (12 ≤ gVc w)
    expert := decide (gVc w ≠ 0)
    space := [decide (d.t.space = 0), decide (il.t.space = 0), decide (t.t.space ≠ 0) && !t.t.host]
    fmts := [(if gPool w && isF t.t.fmt then !isF d.t.fmt else decide (d.t.fmt ≠ t.t.fmt), stOperandFormat),
             (d.t.xc && !xcAllowed d.t.fmt, stXcFormat), (d.t.xc, stXcMismatch),
             (decide (il.t.fmt ≠ 0x20), stOperandFormat), (il.t.xc, stXcFormat),
             (!(isF t.t.fmt || t.t.fmt == 0x20), stOperandFormat), (t.t.xc, stXcFormat)]
    shape := [(decide (d.t.e 0 ≠ t.t.e 0) || decide (d.t.e 1 * d.t.e 2 * d.t.e 3 ≠ rows), stShapeMismatch),
              (decide (1 < il.t.e 2 * il.t.e 3) || (gIw w && decide (il.t.e 0 % 2 ≠ 0)), stShapeMismatch)]
    other := [(decide (row % 32 ≠ 0) || decide ((t.t.base + t.t.off * (if t.t.space = 1 then eltBytes t.t.fmt else 0)) % 32 ≠ 0), stRowAlign)] }
    fun _ j s => (s, .ok j)
def gathIssue (a : Agent) (w : Word) (s : State) : State := s.formIssue a w (gathForm a w s)
def execGath (a : Agent) (w : Word) (s : State) : Host.Outcome State Fault Refusal := .next (gathIssue a w s)

/-! ### Memory-side adders (R175, R176, R204 to R207) -/

/-- Bytes of an element of an ATYPE. -/
def atomBytes (ty : Nat) : Nat := if ty = 1 then 8 else if ty = 3 then 2 else 4
/-- Updates one element: AOP 0 ADD, 1 MIN, 2 MAX; ATYPE 0 INT32, 1 INT64, 2 FP32, 3 BF16. -/
def atomVal (op ty old new : Nat) : Nat :=
  if ty < 2 then
    let b := 8 * atomBytes ty
    if op = 0 then (old + new) % 2 ^ b
    else if op = 1 then (if sextNat new b < sextNat old b then new else old)
    else if sextNat old b < sextNat new b then new else old
  else
    let p := if ty = 3 then 7 else 23
    let x := fvRead p old
    let y := fvRead p new
    (frWrite p .near 0 (if op = 0 then fAdd x y else if op = 1 then fMin x y else fMax x y)).bits
/-- Reads a value out of parts of memory, low part first. -/
def State.partsRd (s : State) (p : Nat) (at_ : List (Nat × Nat)) : Nat := leNat (at_.flatMap fun r => s.partRd p r.1 r.2)
/-- One update of an element at partition addresses: a poisoned target stays as it is, a poisoned value poisons the target
(R206, R207). -/
def State.atomElt (s : State) (p op ty : Nat) (at_ : List (Nat × Nat)) (v : Nat) (pois : Bool) : State :=
  let s1 := at_.foldl (fun s r => s.partTouch p (r.1 / 256 * 256) 256) s
  if at_.any fun r => !(s1.partPoison p r.1 r.2).isEmpty then s1
  else if pois then s1.partPoisonSet p (at_.map fun r => r.1 / 32 * 32)
  else
    let bs := leBytes (atomBytes ty) (atomVal op ty (s1.partsRd p at_) v)
    (at_.foldl (fun (acc : State × List Byte) r => (acc.1.partWr p r.1 (acc.2.take r.2), acc.2.drop r.2)) (s1, bs)).1

/-- Updates in an order that the spec does not fix (R176, R199): by free keys. (log 41, DESIGN CHOICE) -/
def byFree {α : Type} (key : Nat → Word) (xs : List α) : List α :=
  let ks := (List.range xs.length).map fun i => ((key i).toNat, i)
  let ins : Nat × Nat → List (Nat × Nat) → List (Nat × Nat) := fun x l =>
    l.takeWhile (fun y => decide (y.1 ≤ x.1)) ++ x :: l.dropWhile fun y => decide (y.1 ≤ x.1)
  (ks.foldl (fun l x => ins x l) []).filterMap fun x => xs[x.2]?

def aOp (w : Word) : Nat := fld w 24 23
def aTy (w : Word) : Nat := fld w 22 21
def aIdx (w : Word) : Bool := bitOf w.toNat 20
/-- An update: where, the value, whether the value is poisoned. -/
structure Upd where
  at_  : List (Nat × Nat)
  val  : Nat
  pois : Bool
  deriving DecidableEq, Repr
/-- The updates of an ATOM and the fault of an index out of range; a value that cannot be read is free (R40, R242). -/
def atomUpds (w : Word) (t v : Ten) (raws : List Raw) (ixs : List (Except (BitVec 16) Nat)) (free : Nat → Word) : List Upd × BitVec 16 :=
  let k := if aTy w = 1 then 2 else 1
  let n := t.e 0
  let z : Raw := { val := 0, exp := 0, fl := 0, bad := none }
  let upd : Nat → Nat → Upd := fun ti vi =>
    let rs := (List.range k).map fun q => nth z raws (vi + q)
    { at_ := (List.range k).flatMap fun q => (t.cells (ti + q)).take 1
      val := if rs.any fun r => (r.bad.getD stPoisonConsumed) ≠ stPoisonConsumed then (free vi).toNat % 2 ^ (8 * atomBytes (aTy w))
             else (rs.zipIdx.map fun r => (r.1.val % 2 ^ 32).toNat * 2 ^ (32 * r.2)).foldl (· + ·) 0
      pois := rs.any fun r => decide (r.bad = some stPoisonConsumed) }
  if aIdx w then
    ((List.range ixs.length).flatMap fun r => match nth (.error 0) ixs r with
      | .error _ => []
      | .ok i => if i = emptyIdx (gIw w) ∨ tabRows t ≤ i then [] else (List.range (n / k)).map fun q => upd (n * i + k * q) (v.e 0 * r + k * q),
     match ixs.find? fun x => match x with | .error st => decide (st ≠ 0) | .ok i => decide (i ≠ emptyIdx (gIw w)) && decide (tabRows t ≤ i) with
      | some (.error st) => st
      | some (.ok _) => stIndexRange
      | none => 0)
  else ((List.range (t.count / k)).map fun q => upd (k * q) (k * q), 0)
/-- What leaves an element as it is (the spec gives an ATOMIC packet no byte enables). -/
def atomNeutral (op ty : Nat) : Nat :=
  if ty < 2 then (let b := 8 * atomBytes ty; if op = 0 then 0 else if op = 1 then 2 ^ (b - 1) - 1 else 2 ^ (b - 1))
  else
    let p := if ty = 3 then 7 else 23
    if op = 0 then signBit p true else 255 * 2 ^ p + signBit p (decide (op = 2))
/-- One granule of values for an update at a byte address. -/
def atomGranule (op ty a v : Nat) : BitVec 256 :=
  let n := atomBytes ty
  BitVec.ofNat 256 (leNat ((List.range (32 / n)).flatMap fun i => leBytes n (if n * i = a % 32 then v else atomNeutral op ty)))
/-- The granules of an update that goes to another chip: each an element's place and its value. The two I32 elements of an INT64
target that do not make up one aligned slot have no place in a packet: the spec gives none, and each slot that holds one is updated
with a free value (R175). (log 41, DESIGN CHOICE) -/
def Upd.places (ty : Nat) (free : Nat → Word) (y : Upd) : List (Nat × Nat) :=
  match y.at_ with
  | [] => [(0, y.val)]
  | r :: rest =>
    if ty ≠ 1 ∨ (r.1 % 8 = 0 ∧ rest = [(r.1 + 4, 4)]) then [(r.1, y.val)]
    else y.at_.zipIdx.map fun x => (x.1.1 / 8 * 8, (free x.2).toNat)
/-- ATOM: updates are applied where the target lies. (log 41, DESIGN CHOICE) -/
def atomStep (c : Nat) (j : Job) (s : State) : State :=
  if j.awaited ≠ 0 then s else
  let w := j.word
  let t := j.ten 0
  let v := j.ten 1
  let p := (s.cl c).part.toNat
  if j.dead || j.started || decide (j.fault ≠ 0) then s.finish c 3 j 0 else
  let s0 := s.touchTen c v
  let s1 := if aIdx w then s0.touchTen c (j.ten 2) else s0
  let x := s1.cl c
  let il := j.ten 2
  let ixs := if aIdx w then idxList (gIw w) (il.raws (jobRd x j il.win)) else []
  let raws := v.raws (jobRd x j v.win)
  let u := atomUpds w t v raws ixs (fun i => s1.freeAt i)
  let order := if aOp w = 0 ∧ 2 ≤ aTy w then byFree (fun i => s1.freeAt (v.count + i)) u.1 else u.1
  let base := v.count + u.1.length
  let s2 := s1.bump (base + 2 * u.1.length)
  let s3 := if u.2 = stPoisonConsumed then s2.jobPoison c 3 j (poisonedWords (s2.cl c) il)
    else if u.2 ≠ 0 then s2.jobFault c 3 j u.2
    else if raws.any fun r => decide (r.bad = some stXcIndex) then s2.jobFault c 3 j stXcIndex else s2
  if s3.remote t then
    let sends := order.zipIdx.flatMap fun y => (y.1.places (aTy w) fun q => s1.freeAt (base + 2 * y.2 + q)).map fun x => (x, y.1.pois)
    sends.foldl (fun s y =>
      s.request c 3 j.id 0 { jobPacket s c tyAtomic (gVc w) t.chip (y.1.1 / 32) with
        len := 1, op := BitVec.ofNat 8 (aOp w * 64 + aTy w * 16), poison := if y.2 then 1 else 0
        data := [atomGranule (aOp w) (aTy w) y.1.1 y.1.2] }) (s3.modJob c 3 j.id fun j => { j with started := true })
  else
    let r := order.foldl (fun (acc : State × BitVec 16) y =>
      if y.at_.all fun r => acc.1.partOn p r.1 r.2 then (acc.1.atomElt p (aOp w) (aTy w) y.at_ y.val y.pois, acc.2)
      else (acc.1.groupOffLog (match y.at_ with | r :: _ => (match (acc.1.pt p).dev r.1 with | some d => d | none => 0) | [] => 0)
              (BitVec.ofNat 8 p) acc.1.lnk.chip, stGroupOff)) (s3, 0)
    (if r.2 ≠ 0 then r.1.jobFault c 3 j r.2 else r.1).finish c 3 j 0

def atomForm (a : Agent) (w : Word) (s : State) : TForm :=
  let c := match a with | .seq c => c.val | .core _ => 0
  let t := mkOpd (s.regD a (wDst w))
  let v := mkOpd (s.regD a (wA w))
  let il := mkOpd (s.regD a (wB w))
  let fl := decide (2 ≤ aTy w)
  let want := if aTy w < 2 then 0x20 else if aTy w = 2 then 0x31 else 0x30
  let n := if gIw w then il.t.e 0 / 2 else il.t.e 0
  .mk 0x1C2 .atom (t :: v :: if aIdx w then [il] else []) [] {
    ill := badBits w ([fDst, fA, (35, 31), (29, 29), (28, 25), (24, 23), (22, 21), (20, 20)] ++ if aIdx w then [fB] else [])
      || decide (15 < wDst w) || decide (15 < wA w) || decide (15 < wB w) || decide (aOp w = 3)
    priv := decide (12 ≤ gVc w)
    expert := decide (gVc w ≠ 0)
    space := [decide (t.t.space ≠ 0) && !t.t.host, decide (v.t.space = 0)] ++ if aIdx w then [decide (il.t.space = 0)] else []
    fmts := [(decide (t.t.fmt ≠ want), stOperandFormat), (t.t.xc, stXcFormat),
             (decide (v.t.fmt ≠ want), stOperandFormat), (v.t.xc && !xcAllowed v.t.fmt, stXcFormat)]
      ++ if aIdx w then [(decide (il.t.fmt ≠ 0x20), stOperandFormat), (il.t.xc, stXcFormat)] else []
    refs := [(fl && s.refMode c, stRefOrder)]
    shape := [((if aIdx w then decide (v.t.e 0 ≠ t.t.e 0) || decide (v.t.e 1 * v.t.e 2 * v.t.e 3 ≠ n * il.t.e 1 * il.t.e 2 * il.t.e 3)
                  || (gIw w && decide (il.t.e 0 % 2 ≠ 0))
                else !v.t.sameShape t.t) || (decide (aTy w = 1) && decide (t.t.e 0 % 2 ≠ 0)), stShapeMismatch)] }
    fun _ j s => (s, .ok j)
def atomIssue (a : Agent) (w : Word) (s : State) : State := s.formIssue a w (atomForm a w s)
def execAtom (a : Agent) (w : Word) (s : State) : Host.Outcome State Fault Refusal := .next (atomIssue a w s)

/-- A data movement job goes on. -/
def dStep (c : Nat) (j : Job) (s : State) : State :=
  match j.op with
  | .gath => gathStep c j s
  | .atom => atomStep c j s
  | _ => dmovStep c j s

end Sys2Proof.Machine
end

