-- ==== Sys2Proof/Machine/Attention.lean ====
section
/-! DEFINITION. The attention class (CLASS 0x08): KVAPP, ATTN and KVSTG (R108, R177 to R181, R256 to R267), and KVAPP_RESUME. -/

namespace Sys2Proof.Machine

/-! ### Layout descriptors and batches (R256 to R259) -/

structure KvLay where
  p  : Nat
  h  : Nat
  d  : Nat
  bf : Bool
  xc : Bool
  deriving DecidableEq, Repr
/-- Elements of a row: H x D. -/
def KvLay.row (l : KvLay) : Nat := l.h * l.d
def KvLay.w (l : KvLay) : Nat := if l.bf then 2 else 1
/-- Used span U of a page (R256). -/
def KvLay.used (l : KvLay) : Nat := 2 * l.p * l.row * l.w + (if l.bf then 0 else 2 * l.p * l.row / 32)
/-- Tiles of a coded region (R258). -/
def KvLay.tiles (l : KvLay) : Nat := ceilDiv (l.p * l.row) 2048
/-- The layout that a word describes, if it is valid (R256, R258). -/
def kvLayout (v : BitVec 32) : Option KvLay :=
  let n := v.toNat
  let l : KvLay := { p := 16 * 2 ^ bitsOf n 31 30, h := bitsOf n 29 25, d := 32 * (bitsOf n 24 22 + 1), bf := bitOf n 21, xc := bitOf n 20 }
  if bitsOf n 31 30 = 3 ∨ l.h = 0 ∨ 16 < l.h ∨ bitsOf n 19 0 ≠ 0 ∨ 65536 < l.used then none
  else if l.xc && (!l.bf || decide (32768 < 512 + 4096 * l.tiles)) then none
  else some l

/-- A batch as partition DRAM holds it (Table 12.3). -/
structure Batch where
  addr   : Nat
  count  : Nat
  lay    : Option KvLay
  layers : Nat
  qrows  : Nat
  look   : Nat
  deriving DecidableEq, Repr
def State.batchAt (s : State) (p : Nat) (h : Word) : Batch :=
  let b := s.partRd p h.toNat 12
  { addr := h.toNat, count := fieldAt b 0 4, lay := kvLayout (BitVec.ofNat 32 (fieldAt b 4 4)), layers := fieldAt b 8 2
    qrows := fieldAt b 10 1, look := fieldAt b 11 1 }
/-- What an attention instruction goes by lies in partition memory: it is read through the controllers; a closed group stops the
instruction, and poison is consumed (R14, R410, R464). (log 67, DEDUCED) -/
def State.kvLook (s : State) (p : Nat) (rs : List (Nat × Nat)) : State × Option (BitVec 16) :=
  if rs.any fun r => !s.partOn p r.1 r.2 then (s, some stGroupOff) else
  let s1 := rs.foldl (fun (s : State) r => s.partTouch p r.1 r.2) s
  match rs.flatMap fun r => s1.partPoison p r.1 r.2 with
  | [] => (s1, none)
  | a :: as =>
    let dev := match (s1.pt p).dev a with | some d => d | none => 0
    (s1.poisonRec (BitVec.ofNat 8 p) 3 (vaultOf dev) dev (as.length + 1) 1, some stPoisonConsumed)
/-- A handle names an entry of the partition's sequence-batch table (R177): some sequence joined it. -/
def Part.batchKnown (P : Part) (h : Word) : Bool := P.kvSeqs.any fun q => decide (q.batch = h)
/-- A sequence record (Table 12.4). -/
structure SeqRec where
  sid    : BitVec 32
  cursor : Nat
  stream : Nat
  gmax   : Nat
  deriving DecidableEq, Repr
def Batch.recAddr (b : Batch) (i : Nat) : Nat := b.addr + 64 + 256 * i
def State.seqRec (s : State) (p : Nat) (b : Batch) (i : Nat) : SeqRec :=
  let r := s.partRd p (b.recAddr i) 18
  { sid := BitVec.ofNat 32 (fieldAt r 0 4), cursor := fieldAt r 4 4, stream := fieldAt r 8 8, gmax := fieldAt r 16 2 }
/-- A[j] of a sequence record. -/
def State.seqAhead (s : State) (p : Nat) (b : Batch) (i j : Nat) : Nat := leNat (s.partRd p (b.recAddr i + 32 + 8 * j) 8)
/-- Page of a layer in a page list: its partition address. -/
def State.pageIn (s : State) (p list layer : Nat) : Nat := (leNat (s.partRd p (list + 4 * layer) 4)) % 2 ^ 24 * 2 ^ 16
/-- A page descriptor (Table 12.6). -/
structure PageDesc where
  page  : Nat
  first : Nat
  valid : Bool
  deriving DecidableEq, Repr
def descAddr (r : SeqRec) (layer g : Nat) : Nat := r.stream + 16 * (layer * r.gmax + g)
def State.pageDesc (s : State) (p : Nat) (r : SeqRec) (layer g : Nat) : PageDesc :=
  let v := leNat (s.partRd p (descAddr r layer g) 16)
  { page := bitsOf v 127 104 * 2 ^ 16, first := bitsOf v 103 72, valid := bitOf v 55 }
/-- Pages that a sequence's reads visit: descriptors 0 to ⌈c/P⌉ - 1 (R262). -/
def State.pageDescs (s : State) (p : Nat) (l : KvLay) (r : SeqRec) (layer : Nat) : List PageDesc :=
  (List.range (ceilDiv r.cursor l.p)).map fun g => s.pageDesc p r layer g

/-- Header and records of a batch as an instruction reads them (Tables 12.3, 12.4). -/
def Batch.reads (b : Batch) : List (Nat × Nat) :=
  (b.addr, 12) :: (List.range b.count).map fun i => (b.recAddr i, 168)
/-- The same with the descriptors of a layer (R262). -/
def State.streamReads (s : State) (p : Nat) (b : Batch) (l : KvLay) (layer : Nat) : List (Nat × Nat) :=
  b.reads ++ (List.range b.count).flatMap fun i =>
    let r := s.seqRec p b i
    (List.range (ceilDiv r.cursor l.p)).map fun g => (descAddr r layer g, 16)

/-! ### Where the rows of a page lie -/

/-- A page or a staged image: byte offsets of its areas, or of its regions. -/
structure KvSrc where
  k  : Nat
  v  : Nat
  ke : Nat
  ve : Nat
  deriving DecidableEq, Repr
/-- A page in memory (Table 12.2, R258). -/
def KvLay.page (l : KvLay) (a : Nat) : KvSrc :=
  if l.xc then { k := a, v := a + 32768, ke := 0, ve := 0 }
  else
    let n := l.p * l.row
    { k := a, v := a + n * l.w, ke := a + 2 * n, ve := a + 2 * n + n / 32 }
def up128 (n : Nat) : Nat := 128 * ceilDiv n 128
/-- Bytes of a region's index area, and of a region of a coded page with slots in full. -/
def KvLay.index (l : KvLay) : Nat := 512 * ceilDiv (32 + 4 * l.tiles) 512
def KvLay.region (l : KvLay) : Nat := l.index + 4096 * l.tiles
/-- An image of n rows in the staging area, and its length (R263). -/
def KvLay.image (l : KvLay) (n a : Nat) : KvSrc × Nat :=
  if l.xc then ({ k := a, v := a + up128 l.region, ke := 0, ve := 0 }, 2 * up128 l.region)
  else
    let m := up128 (n * l.row * l.w)
    let e := if l.bf then 0 else up128 (n * l.row / 32)
    ({ k := a, v := a + m, ke := a + 2 * m, ve := a + 2 * m + e }, 2 * m + 2 * e)
/-- Occupied rows of a page. -/
def KvLay.rows (l : KvLay) (cursor first : Nat) : Nat := if cursor - first < l.p then cursor - first else l.p
/-- Bytes of the images of a whole batch. -/
def State.stageBytes (s : State) (p : Nat) (b : Batch) (l : KvLay) (layer : Nat) : Nat :=
  ((List.range b.count).map fun i =>
    let r := s.seqRec p b i
    ((s.pageDescs p l r layer).map fun d => (l.image (l.rows r.cursor d.first) 0).2).foldl (· + ·) 0).foldl (· + ·) 0

/-- An element of a key or value row: (q, X), or why it is undefined. -/
abbrev KvEl := Except (BitVec 16) (Int × Int)
/-- A BF16 element as a pair; a NaN or an infinity has no stated meaning in a product. -/
def bfEl (bits : Nat) : KvEl :=
  match fvRead 7 bits with
  | .zero _ _ => .ok (0, 0)
  | .num n m e => .ok (if n then -(m : Int) else m, e + bias)
  | _ => .error 0
/-- Bytes of a tile's slot that are read for the first m elements of its region: the used granules (R230), of a RAW tile those
that hold the elements, which no append of the step touches (R17, R263). (log 70, DEDUCED) -/
def kvSlotBytes (entry m k : Nat) : Nat :=
  let used := 32 * bitsOf entry 25 18
  let rows := 2 * (m - 2048 * k)
  if bitOf entry 31 && decide (rows < used) then rows else used
/-- Dense bytes of a tile of a region of n tiles whose first m elements are read (R242). -/
def kvTile (rd : Rd) (base n m k : Nat) : Except (BitVec 16) (List Byte) :=
  let entry := rd.nat (base + 32 + 4 * k) 4
  let slot := base + 512 * ceilDiv (32 + 4 * n) 512 + 4096 * k
  if (rd.byte base).toNat ≠ 0x30 then .error stXcIndex else
  match orBad (rd.bad (base + 32 + 4 * k) 4) (rd.bad slot (kvSlotBytes entry m k)) with
  | some st => .error st
  | none => match xcExpand 0x30 entry fun m => rd.bytes slot m with | some d => .ok d | none => .error stXcIndex
/-- Row r of the keys (or values) of a page with n occupied rows: its H x D elements. -/
def KvLay.readRow (l : KvLay) (rd : Rd) (src : KvSrc) (val : Bool) (n r : Nat) : List KvEl :=
  let base := if val then src.v else src.k
  (List.range l.row).map fun e =>
    if l.xc then
      let q := r * l.row + e
      match kvTile rd base l.tiles (n * l.row) (q / 2048) with
      | .ok d => bfEl (fieldAt d (2 * (q % 2048)) 2)
      | .error st => .error st
    else
      let a := base + (r * l.row + e) * l.w
      match rd.bad a l.w with
      | some st => .error st
      | none =>
        if l.bf then bfEl (rd.nat a 2)
        else
          let x := (if val then src.ve else src.ke) + r * (l.row / 32) + e / 32
          match rd.bad x 1 with
          | some st => .error st
          | none => .ok (sextNat (rd.nat a 1) 8, (rd.byte x).toNat)
/-- A row of SRCB: keys in the first half of dimension 0, values in the second (R264). -/
def newRow (l : KvLay) (t : Ten) (rd : Rd) (val : Bool) (tok i : Nat) : List KvEl :=
  (List.range l.row).map fun e =>
    let r := t.raw rd ((if val then l.row else 0) + e + t.e 0 * (tok + t.e 1 * i))
    match r.bad with
    | some st => .error st
    | none => if l.bf then bfEl r.val.toNat else .ok (r.val, r.exp)

/-! ### The arithmetic of a page (R265, R266, R108) -/

/-- Aligns elements to their largest exponent (R24, R266). -/
def alignEls (xs : List (Int × Int)) : Option Int × List Int :=
  match (xs.filter fun x => decide (x.1 ≠ 0)).map (·.2) with
  | [] => (none, xs.map fun _ => 0)
  | e :: es =>
    let top := es.foldl (fun m x => if m < x then x else m) e
    (some top, xs.map fun x => shrRnd x.1 (top - x.2) .near)
def kvOk (xs : List KvEl) : List (Int × Int) := xs.map fun x => match x with | .ok v => v | .error _ => (0, 0)
def kvErr (xs : List KvEl) : List (BitVec 16) := xs.filterMap fun x => match x with | .ok _ => none | .error e => some e
/-- A sum of contributions as an accumulator entry, in FP32 with nearest rounding; the status says that the entry saturated
(R45, R46). -/
def entryFv (cs : List (Int × Int)) (f : Nat) : Fv × Stat :=
  let e := cs.foldl (fun a c => (accAdd a c.1 c.2 f).1) AccEntry.empty
  (fvRead 23 (pxFloat 23 true .near 0 (if tagValid e.tag then .val e.val (tagX e.tag) else .val 0 0)).bits,
   { sat := tagSat e.tag, satCnt := bool2 (tagSat e.tag) })
/-- Score of a query row (its aligned windows, format f) and a key row of one head: windows of 160 (R37, R43). -/
def score (f : Nat) (q : List (Option Int × List Int)) (key : List (Int × Int)) : Fv × Stat :=
  entryFv ((List.range q.length).flatMap fun v =>
    let k := alignEls ((key.drop (160 * v)).take 160)
    contribs f true { planes := [k.2], exp := k.1, bad := [] } (nth (none, []) q v)) f
/-- FP32 steps of the vector engine. -/
def mul32 (a b : Fv) : Fv := fStep (fMul 23 a b)
def add32 (a b : Fv) : Fv := fStep (fAdd a b)
def exp2f (a : Fv) : Fv := fStep (fExp false 23 a)
def sub32 (a b : Fv) : Fv := fStep (fSub a b)
def negInf : Fv := .inf true
/-- Softmax state of a row: maximum, sum, and the running output by element. -/
structure Soft where
  m   : Fv
  s   : Fv
  acc : List Fv
  /-- Saturations and clips of the pages so far (R45, R76). -/
  st  : Stat
  deriving DecidableEq, Repr
/-- The greater of two values by R69: a NaN wins, the earlier of two. -/
def fvMax (a b : Fv) : Fv :=
  match a, b with
  | .nan _, _ => a
  | _, .nan _ => b
  | _, _ => if fvLe b a then a else b
/-- Weights of a page's positions as one A8 window (R265 step 5), aligned, with the clips of R76. -/
def pageWeights (ps : List Fv) : (Option Int × List Int) × Stat :=
  let row := ps.map fun x => match x with
    | .num n m e => Px.val (if n then -(m : Int) else m) (e + bias)
    | _ => Px.val 0 0
  let bs := narrowRow 8 (fun _ => .near) (fun _ => 0) row
  let n := (bs.map (·.clips)).foldl (· + ·) 0
  (alignWin bs, { clip := decide (0 < n), clips := n, sat := bs.any (·.sat) })
/-- One page for one query row: scores by position, value rows of the head aligned across rows (R108, R265, R266). The product
of the weights is counted as a matrix instruction's: once per saturated entry. (log 70, DEDUCED) -/
def pageStep (l : KvLay) (xs : List Fv) (vals : List (List (Int × Int))) (st : Soft) : Soft :=
  let m2 := fvMax st.m (xs.foldl fvMax negInf)
  let dead := decide (m2 = negInf)
  let c := if dead then fOne else exp2f (sub32 st.m m2)
  let ps := if dead then xs.map fun _ => Fv.zero false false else xs.map fun x => exp2f (sub32 x m2)
  let sum : Fv := if dead then .zero false false else
    match tree (fun a b => (fvAdd32 .near a b).1) ps with
    | some t => add32 (mul32 st.s c) t
    | none => mul32 st.s c
  let a := pageWeights ps
  let outs := (List.range l.d).map fun e =>
    let b := 32 * (e / 32)
    -- the block's largest exponent among the rows
    let blk := vals.flatMap fun r => (r.drop b).take 32
    let top := (alignEls blk).1
    let ws := vals.map fun r => match top with
      | some t => shrRnd (nth (0, 0) r e).1 (t - (nth (0, 0) r e).2) .near
      | none => 0
    entryFv (contribs 2 true { planes := [ws], exp := top, bad := [] } a.1) 2
  { m := m2, s := sum
    acc := (List.range l.d).map fun e => add32 (mul32 (nth (.zero false false) st.acc e) c) (nth (.zero false false, {}) outs e).1
    st := outs.foldl (fun f o => f.or o.2) (st.st.or a.2) }

/-! ### Fields (Table 8.15) -/

def kLayer (w : Word) : Nat := fld w 30 20
def kHreg (w : Word) : Nat := fld w 19 15
def kState (w : Word) : Nat := fld w 14 11
def kStage (w : Word) : Nat := fld w 10 7
def kStg (w : Word) : Bool := bitOf w.toNat 6
def kCausal (w : Word) : Bool := bitOf w.toNat 5
def kFin (w : Word) : Bool := bitOf w.toNat 4

/-- Issue faults of a handle, after the others: KV_HANDLE, then KV_LAYOUT (R177, R256). -/
def kvOther (s : State) (p : Nat) (h : Word) (layer : Nat) (fmtBad : KvLay → Bool) : List (Bool × BitVec 16) :=
  let b := s.batchAt p h
  let known := (s.pt p).batchKnown h
  [(!known, stKvHandle),
   (match b.lay with | none => true | some l => fmtBad l || decide (b.layers ≤ layer), stKvLayout)]
/-- The batch and layout of a handle, when both are good. -/
def kvGood (s : State) (p : Nat) (h : Word) : Option (Batch × KvLay) :=
  if (s.pt p).batchKnown h then (let b := s.batchAt p h; b.lay.map fun l => (b, l)) else none
/-- Format of the tensors that hold a layout's rows. -/
def KvLay.fmt (l : KvLay) : Nat := if l.bf then 0x30 else 0x12

/-! ### KVAPP (R178, R258, R260) -/

/-- Prefetched-group entries that the tokens need: (sequence, index). -/
def kvNeeds (s : State) (p : Nat) (b : Batch) (l : KvLay) (t : Nat) : List (Nat × Nat) :=
  (List.range b.count).flatMap fun i =>
    let c := (s.seqRec p b i).cursor
    (List.range ((c + t - 1) / l.p - c / l.p + 1)).map fun k => (i, k)
/-- Every entry that the job needs is READY. -/
def kvReady (s : State) (c : Nat) (j : Job) : Bool :=
  let p := (s.cl c).part.toNat
  match kvGood s p (nth 0 j.scal 0) with
  | none => true
  | some (b, l) => (kvNeeds s p b l ((j.ten 0).e 1)).all fun x => bitOf (s.seqAhead p b x.1 x.2) 63
/-- The task serves a batch from the moment that one of its instructions names it. -/
def State.serveBatch (s : State) (c : Nat) (h : Word) : State :=
  match s.taskOn c with
  | none => s
  | some T => s.modTask T.id fun T => if T.batches.contains h then T else { T with batches := T.batches ++ [h] }
def kvappAct (c : Nat) (j : Job) (s : State) : State × Except (BitVec 16) Job :=
  let p := (s.cl c).part.toNat
  let h := nth 0 j.scal 0
  match kvGood s p h with
  | none => (s, .ok j)
  | some (b, l) =>
    match s.kvLook p b.reads with
    | (s0, some st) => (s0, .error st)
    | (s, none) =>
    let t := (j.ten 0).e 1
    let layer := kLayer j.word
    let tid : TaskId := match s.taskOn c with | some T => T.id | none => { part := finPart p, hnd := 0 }
    let far := (kvNeeds s p b l t).any fun x => decide (b.look < x.2)
    let twice := (List.range b.count).any fun i => (s.pt p).kvAppends.any fun a =>
      decide (a.batch = h) && decide (a.sid = (s.seqRec p b i).sid) && decide (a.layer = layer)
    if far || twice then (s, .error stKvCursor)
    else
      let s1 := (s.serveBatch c h).modPt p fun P => { P with kvAppends := P.kvAppends ++ (List.range b.count).map fun i =>
        { batch := h, sid := (s.seqRec p b i).sid, layer := layer, t := t, task := tid } }
      (s1, .ok { j with waiting := !kvReady s1 c j })
def kvappForm (a : Agent) (w : Word) (s : State) : TForm :=
  let c := match a with | .seq c => c.val | .core _ => 0
  let p := (s.cl c).part.toNat
  let h := s.regS a (wDst w)
  let k := mkOpd (s.regD a (wA w))
  let v := mkOpd (s.regD a (wB w))
  let g := kvGood s p h
  .mk 0x200 .kvapp [k, v] [h] {
    ill := badBits w [fDst, fA, fB, (35, 31), (30, 20)] || decide (15 < wA w) || decide (15 < wB w)
    space := [decide (k.t.space = 0), decide (v.t.space = 0)]
    fmts := [(k.t.xc && !xcAllowed k.t.fmt, stXcFormat), (v.t.xc && !xcAllowed v.t.fmt, stXcFormat)]
    shape := match g with
      | none => []
      | some (b, l) => [(decide (k.t.e 0 ≠ l.row) || decide (k.t.e 2 ≠ b.count) || decide (k.t.e 3 ≠ 1), stShapeMismatch),
                        (!v.t.sameShape k.t, stShapeMismatch)]
    other := kvOther s p h (kLayer w) fun l => decide (k.t.fmt ≠ l.fmt) || decide (v.t.fmt ≠ l.fmt) } kvappAct
def kvappIssue (a : Agent) (w : Word) (s : State) : State := s.formIssue a w (kvappForm a w s)
def execKvapp (a : Agent) (w : Word) (s : State) : Host.Outcome State Fault Refusal := .next (kvappIssue a w s)

/-- The oldest KVAPP that waits goes on once every entry that it needs is READY (R260). -/
def execKvappResume (c : Fin 768) (s : State) : Host.Outcome State Fault Refusal :=
  .next (if !s.live then s else
    match ((s.cl c.val).unit 4).find? fun j => j.waiting with
    | none => s
    | some j => if kvReady s c.val j then s.modJob c.val 4 j.id fun j => { j with waiting := false } else s)

/-- Header and index entries of a region whose tiles are all RAW (R230, R258). -/
def KvLay.rawHead (l : KvLay) : List Byte :=
  [0x30, 0, 0, 0] ++ leBytes 4 l.tiles ++ List.replicate 24 0 ++ (List.range l.tiles).flatMap fun _ => leBytes 4 (2 ^ 31 + 128 * 2 ^ 18)
/-- The dense positions of a region's last tile that no element of the page has: zero (R230, R258). -/
def KvLay.padTail (l : KvLay) : Plan :=
  let m := l.p * l.row % 2048
  if m = 0 then [] else [(l.index + 4096 * (l.tiles - 1) + 2 * m, List.replicate (2 * (2048 - m)) 0)]
/-- Bytes that one token of one sequence stores. The first row of a page begins its regions; later appends touch no byte that a
staging read of the step reads (R17). (log 70, DEDUCED) -/
def kvRowPlan (l : KvLay) (src : KvSrc) (val : Bool) (r : Nat) (els : List Raw) : Plan :=
  let base := if val then src.v else src.k
  if l.xc then
    let slot : Nat → Nat := fun k => base + l.index + 4096 * k
    (if r = 0 then (base, l.rawHead) :: l.padTail.map (fun x => (base + x.1, x.2)) else []) ++ ((List.range els.length).map fun e =>
      let q := r * l.row + e
      (slot (q / 2048) + 2 * (q % 2048), leBytes 2 (nth { val := 0, exp := 0, fl := 0, bad := none } els e).val.toNat))
  else
    (base + r * l.row * l.w, els.flatMap fun e => leBytes l.w (e.val % 2 ^ (8 * l.w)).toNat) ::
      (if l.bf then [] else
        [((if val then src.ve else src.ke) + r * (l.row / 32), (chunksOf 32 els).map fun b => match b with
          | e :: _ => BitVec.ofNat 8 e.exp
          | [] => 0)])
/-- Die-sectors that poisoned elements of a row reach, those of the block exponents among them (R463). -/
def kvRowPoison (l : KvLay) (src : KvSrc) (val : Bool) (r : Nat) (els : List Raw) : List Nat :=
  let base := if val then src.v else src.k
  ((List.range els.length).flatMap fun e =>
    let y := nth { val := 0, exp := 0, fl := 0, bad := none } els e
    let a := if l.xc then (let q := r * l.row + e; base + l.index + 4096 * (q / 2048) + 2 * (q % 2048))
             else base + (r * l.row + e) * l.w
    let x := (if val then src.ve else src.ke) + r * (l.row / 32) + e / 32
    (if y.mp then [a / 32 * 32] else []) ++ if y.ep && !l.bf then [x / 32 * 32] else []).eraseDups
/-- Where token `tok` of the batch's sequence i goes: its sequence record, its position and its page (R260). -/
def State.kvRowOf (s : State) (p : Nat) (b : Batch) (l : KvLay) (layer i tok : Nat) : SeqRec × Nat × KvSrc :=
  let r := s.seqRec p b i
  let pos := r.cursor + tok
  (r, pos, l.page (s.pageIn p (s.seqAhead p b i (pos / l.p - r.cursor / l.p) % 2 ^ 40) layer))
def kvappStep (c : Nat) (j : Job) (s : State) : State :=
  if j.dead then s.finish c 4 j 0 else
  if j.waiting then s else
  let p := (s.cl c).part.toNat
  match kvGood s p (nth 0 j.scal 0) with
  | none => s.finish c 4 j 0
  | some (b, l) =>
    let k := j.ten 0
    let v := j.ten 1
    let t := k.e 1
    let layer := kLayer j.word
    match s.kvLook p (b.reads ++ (kvNeeds s p b l t).map fun y => (s.seqAhead p b y.1 y.2 % 2 ^ 40 + 4 * layer, 4)) with
    | (s0, some st) => (s0.jobFault c 4 j st).finish c 4 j 0
    | (s0, none) =>
    let s1 := (s0.touchTen c k).touchTen c v
    let x := s1.cl c
    let z : Raw := { val := 0, exp := 0, fl := 0, bad := none }
    let kr := k.raws (jobRd x j k.win)
    let vr := v.raws (jobRd x j v.win)
    let n := l.row
    let elsOf : List Raw → Nat → Nat → List Raw := fun rs i tok =>
      (List.range n).map fun e => rawOr l.fmt (s1.freeAt (e + n * (tok + t * i))) (nth z rs (e + n * (tok + t * i)))
    let flt := ((kr ++ vr).filterMap (·.bad)).find? fun st => decide (st = stXcIndex)
    let one : State × BitVec 16 → Nat × Nat → State × BitVec 16 := fun acc it =>
      let (r, pos, src) := acc.1.kvRowOf p b l layer it.1 it.2
      let ke := elsOf kr it.1 it.2
      let ve := elsOf vr it.1 it.2
      let pl := kvRowPlan l src false (pos % l.p) ke ++ kvRowPlan l src true (pos % l.p) ve
      let ps := kvRowPoison l src false (pos % l.p) ke ++ kvRowPoison l src true (pos % l.p) ve
      let w := pl.foldl (fun (a : State × BitVec 16) x =>
        if a.1.partOn p x.1 x.2.length then (a.1.partWr p x.1 x.2, a.2)
        else (a.1.groupOffLog (match (a.1.pt p).dev x.1 with | some d => d | none => 0) (BitVec.ofNat 8 p) a.1.lnk.chip, stGroupOff)) acc
      let w1 := (w.1.partPoisonSet p ps, w.2)
      if l.xc && decide (pos % l.p = l.p - 1) then
        (w1.1.modPt p fun P => { P with kvSeals := P.kvSeals ++ [(r.sid.setWidth 64, layer, pos / l.p, c)] }, w1.2)
      else w1
    let r := ((List.range b.count).flatMap fun i => (List.range t).map fun tok => (i, tok)).foldl one (s1, 0)
    let s2 := r.1.bump (n * t * b.count)
    let s3 := match flt with | some st => s2.jobFault c 4 j st | none => s2
    (if r.2 ≠ 0 then s3.jobFault c 4 j r.2 else s3).finish c 4 j 0

/-- KVSTG and ATTN go into the queue: the issue has read the descriptors of the layer, and the task serves the batch. -/
def kvAct (c : Nat) (j : Job) (s : State) : State × Except (BitVec 16) Job :=
  let p := (s.cl c).part.toNat
  let h := nth 0 j.scal 0
  match kvGood s p h with
  | none => (s.serveBatch c h, .ok j)
  | some (b, l) => match s.kvLook p (s.streamReads p b l (kLayer j.word)) with
    | (s0, some st) => (s0, .error st)
    | (s1, none) => (s1.serveBatch c h, .ok { j with pages := decide (j.op = .attn) && l.xc })

/-! ### KVSTG (R181, R263) -/

def kvstgForm (a : Agent) (w : Word) (s : State) : TForm :=
  let c := match a with | .seq c => c.val | .core _ => 0
  let p := (s.cl c).part.toNat
  let h := s.regS a (kHreg w)
  let d := mkOpd (s.regD a (wDst w))
  .mk 0x202 .kvstg [d] [h] {
    ill := badBits w [fDst, (35, 31), (30, 20), (19, 15)] || decide (15 < wDst w)
    space := [decide (d.t.space = 0)]
    fmts := [(decide (d.t.fmt ≠ 0x20), stOperandFormat), (d.t.xc, stXcFormat)]
    shape := [(decide (d.t.rank ≠ 1) || (decide (d.t.s 0 ≠ 1) && decide (1 < d.t.e 0)) || (match kvGood s p h with
      | none => false
      | some (b, l) => decide (4 * d.t.e 0 < s.stageBytes p b l (kLayer w))), stShapeMismatch)]
    other := kvOther s p h (kLayer w) fun _ => false } kvAct
def kvstgIssue (a : Agent) (w : Word) (s : State) : State := s.formIssue a w (kvstgForm a w s)
def execKvstg (a : Agent) (w : Word) (s : State) : Host.Outcome State Fault Refusal := .next (kvstgIssue a w s)
/-- Pieces of a page that an image of n rows holds: (source, offset in the image, bytes). Of a page with XC these are, for each
region, header and index area and the used granules of every tile (R263). -/
def State.pieces (s : State) (p : Nat) (l : KvLay) (n page : Nat) : List (Nat × Nat × Nat) :=
  let src := l.page page
  let im := (l.image n 0).1
  if l.xc then
    [(src.k, im.k), (src.v, im.v)].flatMap fun x => (x.1, x.2, l.index) :: ((List.range l.tiles).map fun k =>
      let o := l.index + 4096 * k
      (x.1 + o, x.2 + o, kvSlotBytes (leNat (s.partRd p (x.1 + 32 + 4 * k) 4)) (n * l.row) k)).filter fun y => decide (y.2.2 ≠ 0)
  else [(src.k, im.k, n * l.row * l.w), (src.v, im.v, n * l.row * l.w)]
    ++ if l.bf then [] else [(src.ke, im.ke, n * l.row / 32), (src.ve, im.ve, n * l.row / 32)]
def kvstgStep (c : Nat) (j : Job) (s : State) : State :=
  if j.dead then s.finish c 4 j 0 else
  let p := (s.cl c).part.toNat
  let d := j.ten 0
  let layer := kLayer j.word
  match kvGood s p (nth 0 j.scal 0) with
  | none => s.finish c 4 j 0
  | some (b, l) => match s.kvLook p (s.streamReads p b l layer) with
    | (s0, some st) => (s0.jobFault c 4 j st).finish c 4 j 0
    | (s, none) =>
    let win := mget 0 (s.cl c).win d.win
    let one : State × BitVec 16 × Nat → SeqRec × PageDesc → State × BitVec 16 × Nat := fun acc x =>
      if acc.2.1 ≠ 0 then acc
      else if !x.2.valid then (acc.1, stKvStream, acc.2.2)
      else
        let n := l.rows x.1.cursor x.2.first
        let len := (l.image n 0).2
        let r := (acc.1.pieces p l n x.2.page).foldl (fun (a : State × BitVec 16) q =>
          if !a.1.partOn p q.1 q.2.2 then (a.1, stGroupOff)
          else
            let s1 := a.1.partTouch p q.1 q.2.2
            let dst := winPhys win (d.span.1.toNat + acc.2.2 + q.2.1)
            let ps := (s1.partPoison p q.1 q.2.2).flatMap fun k => (List.range 32).filterMap fun i =>
              if q.1 ≤ k + i ∧ k + i < q.1 + q.2.2 then some ((k + i - q.1 + dst) / 8) else none
            ((s1.spadWrite c 4 dst (s1.partRd p q.1 q.2.2)).modCl c fun x => x.spadPoisonSet ps.eraseDups, a.2)) (acc.1, (0 : BitVec 16))
        (r.1, r.2, acc.2.2 + len)
    let items := (List.range b.count).flatMap fun i =>
      let r := s.seqRec p b i
      (s.pageDescs p l r layer).map fun d => (r, d)
    let r := items.foldl one (s, 0, 0)
    (if r.2.1 ≠ 0 then r.1.jobFault c 4 j r.2.1 else r.1).finish c 4 j 0

/-! ### ATTN (R180, R264 to R267) -/

def attnForm (a : Agent) (w : Word) (s : State) : TForm :=
  let c := match a with | .seq c => c.val | .core _ => 0
  let p := (s.cl c).part.toNat
  let h := s.regS a (kHreg w)
  let d := mkOpd (s.regD a (wDst w))
  let q := mkOpd (s.regD a (wA w))
  let kv := mkOpd (s.regD a (wB w))
  let st := mkOpd (s.regD a (kState w))
  let sg := mkOpd (s.regD a (kStage w))
  let os := [d, q, kv, st] ++ if kStg w then [sg] else []
  let outOk := d.t.fmt == 0x31 || (kFin w && d.t.fmt == 0x30)
  let g := kvGood s p h
  .mk 0x201 .attn os [h] {
    ill := badBits w ([fDst, fA, fB, (35, 31), (30, 20), (19, 15), (14, 11), (6, 6), (5, 5), (4, 4)] ++ if kStg w then [(10, 7)] else [])
      || decide (15 < wDst w) || decide (15 < wA w) || decide (15 < wB w)
    space := os.map fun o => decide (o.t.space = 0)
    fmts := [(!outOk, stOperandFormat), (d.t.xc && !xcAllowed d.t.fmt, stXcFormat),
             (!(q.t.fmt == 0x12 || q.t.fmt == 0x13 || q.t.fmt == 0xF0), stOperandFormat), (q.t.xc && !xcAllowed q.t.fmt, stXcFormat),
             (kv.t.xc && !xcAllowed kv.t.fmt, stXcFormat), (decide (st.t.fmt ≠ 0x31), stOperandFormat), (st.t.xc && !xcAllowed st.t.fmt, stXcFormat)]
      ++ if kStg w then [(decide (sg.t.fmt ≠ 0x20), stOperandFormat), (sg.t.xc, stXcFormat)] else []
    shape := match g with
      | none => []
      | some (b, l) =>
        [(decide (d.t.e 0 ≠ l.d) || decide (d.t.e 1 ≠ b.qrows * l.h) || decide (d.t.e 3 ≠ b.count), stShapeMismatch),
         (strideZero d.t, stDestStride), (!q.t.sameShape d.t, stShapeMismatch),
         (decide (kv.t.e 0 ≠ 2 * l.row) || decide (kv.t.e 1 ≠ d.t.e 2) || decide (kv.t.e 2 ≠ b.count) || decide (kv.t.e 3 ≠ 1), stShapeMismatch),
         (decide (st.t.count ≠ 2 * d.t.e 1 * d.t.e 2 * d.t.e 3), stShapeMismatch)]
        ++ if kStg w then [(decide (sg.t.rank ≠ 1) || (decide (sg.t.s 0 ≠ 1) && decide (1 < sg.t.e 0))
              || decide (4 * sg.t.e 0 < s.stageBytes p b l (kLayer w)), stShapeMismatch)] else []
    other := kvOther s p h (kLayer w) fun l => decide (kv.t.fmt ≠ l.fmt) } kvAct
def attnIssue (a : Agent) (w : Word) (s : State) : State := s.formIssue a w (attnForm a w s)
def execAttn (a : Agent) (w : Word) (s : State) : Host.Outcome State Fault Refusal := .next (attnIssue a w s)

/-- Pages of a sequence as ATTN sees them: first position, reader, place, rows. -/
structure KvPage where
  first : Nat
  keys  : List (List KvEl)
  vals  : List (List KvEl)
/-- Every page of sequence i, then its new positions in pieces of P counted from the cursor (R264). `off` is where its images begin in
the stage. (log 77, DESIGN CHOICE) -/
def attnPages (s : State) (c : Nat) (j : Job) (b : Batch) (l : KvLay) (i off : Nat) : List KvPage × Nat :=
  let x := s.cl c
  let p := x.part.toNat
  let r := s.seqRec p b i
  let w := j.word
  let stage := j.ten 4
  let got := (s.pageDescs p l r (kLayer w)).foldl (fun (acc : List KvPage × Nat) d =>
    let n := l.rows r.cursor d.first
    let im := l.image n (stage.span.1.toNat + acc.2)
    let rd := if kStg w then jobRd x j stage.win else dramRd s p
    let src := if kStg w then im.1 else l.page d.page
    (acc.1 ++ [{ first := d.first, keys := (List.range n).map (l.readRow rd src false n), vals := (List.range n).map (l.readRow rd src true n) }],
     acc.2 + im.2)) ([], off)
  let kv := j.ten 2
  let t := kv.e 1
  let rd := jobRd x j kv.win
  let news := (List.range (ceilDiv t l.p)).map fun k =>
    let n := if t - k * l.p < l.p then t - k * l.p else l.p
    ({ first := r.cursor + k * l.p, keys := (List.range n).map fun y => newRow l kv rd false (k * l.p + y) i
       vals := (List.range n).map fun y => newRow l kv rd true (k * l.p + y) i } : KvPage)
  (got.1 ++ news, got.2)
/-- Runs all pages for one query row; `tok` is its token and h its head. -/
def attnRow (l : KvLay) (causal : Bool) (f : Nat) (cursor t tok h : Nat) (q : List (Option Int × List Int)) (pages : List KvPage) (st : Soft) : Soft :=
  pages.foldl (fun st pg =>
    let cut : List KvEl → List (Int × Int) := fun r => ((kvOk r).drop (h * l.d)).take l.d
    let xs := (List.range pg.keys.length).map fun r =>
      let pos := pg.first + r
      let x := score f q (cut (nth [] pg.keys r))
      (if cursor + t ≤ pos ∨ (causal ∧ cursor + tok < pos) then negInf else x.1, x.2)
    pageStep l (xs.map (·.1)) (pg.vals.map cut) { st with st := xs.foldl (fun f x => f.or x.2) st.st }) st
/-- Runs an ATTN (R108, R184, R264). A query row goes on from DST where the maximum that STATE holds is not minus infinity, and else begins
at zero. (log 77, DESIGN CHOICE) -/
def attnStep (c : Nat) (j : Job) (s : State) : State :=
  if j.dead then s.finish c 4 j 0 else
  let p := (s.cl c).part.toNat
  let w := j.word
  let d := j.ten 0
  let q := j.ten 1
  let stt := j.ten 3
  match kvGood s p (nth 0 j.scal 0) with
  | none => s.finish c 4 j 0
  | some (b, l) => match s.kvLook p (s.streamReads p b l (kLayer w)) with
    | (s0, some st) => (s0.jobFault c 4 j st).finish c 4 j 0
    | (s, none) =>
    let descs : List (SeqRec × PageDesc) := (List.range b.count).flatMap fun i =>
      (s.pageDescs p l (s.seqRec p b i) (kLayer w)).map fun d => (s.seqRec p b i, d)
    let ranges : List (Nat × Nat) := descs.flatMap fun x => (s.pieces p l (l.rows x.1.cursor x.2.first) x.2.page).map fun y => (y.1, y.2.2)
    if descs.any fun x => !x.2.valid then (s.jobFault c 4 j stKvStream).finish c 4 j 0
    else if !kStg w && ranges.any fun r => !s.partOn p r.1 r.2 then (s.jobFault c 4 j stGroupOff).finish c 4 j 0
    else
      let s0 := if kStg w then s.touchTen c (j.ten 4) else ranges.foldl (fun s r => s.partTouch p r.1 r.2) s
      let s1 := (((s0.touchTen c q).touchTen c (j.ten 2)).touchTen c stt).touchTen c d
      let x := s1.cl c
      let t := d.e 2
      let f := if q.fmt = 0x12 then 2 else 3
      let z : Raw := { val := 0, exp := 0, fl := 0, bad := none }
      let qr := q.raws (jobRd x j q.win)
      let sr := stt.raws (jobRd x j stt.win)
      let dr := d.raws (jobRd x j d.win)
      let seqs := (List.range b.count).foldl (fun (acc : List (List KvPage) × Nat) i =>
        let r := attnPages s1 c j b l i acc.2
        (acc.1 ++ [r.1], r.2)) ([], 0)
      let rows := b.qrows * l.h * t * b.count
      let per := b.qrows * l.h
      -- (softmax state, undefined) of query row n
      let res := (List.range rows).map fun n =>
        let i := n / (per * t)
        let tok := n / per % t
        let h := n % per / b.qrows
        let pages := nth [] seqs.1 i
        let qrow := (List.range l.d).map fun e => nth z qr (e + l.d * n)
        let m0 := rawFv 0x31 (nth z sr (2 * n))
        let cont := decide (m0 ≠ negInf)
        let orow := (List.range l.d).map fun e => nth z dr (e + l.d * n)
        let acc0 := if cont then orow.map fun r => rawFv 0x31 r else orow.map fun _ => Fv.zero false false
        let bad := qrow.filterMap (·.bad) ++ (nth z sr (2 * n)).bad.toList ++ (nth z sr (2 * n + 1)).bad.toList
          ++ (if cont && decide (d.fmt = 0x31) then orow.filterMap (·.bad) else [])
          ++ pages.flatMap fun pg => (pg.keys ++ pg.vals).flatMap kvErr
        let undef := !bad.isEmpty || (cont && decide (d.fmt ≠ 0x31))
        let st := attnRow l (kCausal w) f (s1.seqRec p b i).cursor t tok h ((chunksOf 5 (rawBlks qrow)).map alignWin) pages
          { m := m0, s := rawFv 0x31 (nth z sr (2 * n + 1)), acc := acc0, st := {} }
        (st, undef, bad)
      let fin : Soft → Nat → Fo := fun st e =>
        let v := nth (.zero false false) st.acc e
        if kFin w then frWrite (fracBits d.fmt) .near 0 (fDiv (fracBits d.fmt) v st.s) else frWrite 23 .near 0 v.res
      let zr : Soft × Bool × List (BitVec 16) := ({ m := negInf, s := negInf, acc := [], st := {} }, false, [])
      let outs := (List.range (rows * l.d)).map fun k =>
        let r := nth zr res (k / l.d)
        if r.2.1 then frWrite (fracBits d.fmt) .near (s1.freeAt k) .free else fin r.1 (k % l.d)
      let sts := (List.range (2 * rows)).map fun k =>
        let r := nth zr res (k / 2)
        if r.2.1 then (s1.freeAt (rows * l.d + k)).toNat % 2 ^ 32 else fv32 (if k % 2 = 0 then r.1.m else r.1.s)
      let bads := res.flatMap (·.2.2)
      let s2 := ((s1.storeOut c 4 d (wE w) (.plain (outs.map (·.bits)))).storeOut c 4 stt (wE w) (.plain sts)).bump (rows * l.d + 2 * rows)
      let s3 := match rawFault (bads.map fun e => { z with bad := some e }) with
        | none => s2
        | some e =>
          if e ≠ stPoisonConsumed then s2.jobFault c 4 j e
          else
            let sp := ([q, j.ten 2, stt] ++ if kStg w then [j.ten 4] else []).flatMap (poisonedWords (s2.cl c))
            if sp.isEmpty then
              match (ranges.flatMap fun (r : Nat × Nat) => s2.partPoison p r.1 r.2) with
              | [] => s2.jobFault c 4 j e
              | a :: as =>
                let dev := match (s2.pt p).dev a with | some y => y | none => 0
                (s2.poisonRec (BitVec.ofNat 8 p) 3 (vaultOf dev) dev (as.length + 1) 1).jobFault c 4 j e
            else s2.jobPoison c 4 j sp
      let fl := res.foldl (fun a r => if r.2.1 then a else a.or r.1.st) (outs.foldl (fun a o => a.or o.st) ({} : Stat))
      s3.finish c 4 j fl.word

/-- An attention job goes on. -/
def aStep (c : Nat) (j : Job) (s : State) : State :=
  match j.op with
  | .attn => attnStep c j s
  | .kvstg => kvstgStep c j s
  | _ => kvappStep c j s

end Sys2Proof.Machine
end

