-- ==== Sys2Proof/Machine/Scalar.lean ====
section
/-! DEFINITION. The scalar class (CLASS 0x00), Table 8.3, R150 to R155. -/

namespace Sys2Proof.Machine

/-! ### Two-operand arithmetic -/

/-- Second operand: IMM when IMMF is 1, else SRCB (R150). -/
def operandB (s : State) (a : Agent) (w : Word) : Word := if wImmf w then wImm w else s.regS a (wB w)
/-- Fields that a two-operand instruction may use: SRCB must be zero with IMMF 1, IMM with IMMF 0 (R150). -/
def aluFields (w : Word) (more : List (Nat × Nat)) : List (Nat × Nat) :=
  (if wImmf w then [fDst, fA, (35, 35), (31, 0)] else [fDst, fA, fB, (35, 35)]) ++ more
/-- d := f a b, one cycle. -/
def aluOp (f : Word → Word → Word) (a : Agent) (w : Word) (s : State) : State :=
  s.guarded a w [(badBits w (aluFields w []), stIllegalInstr)] fun s =>
    (s.setS a (wDst w) (f (s.regS a (wA w)) (operandB s a w))).advance a

def execAdd (a : Agent) (w : Word) (s : State) : Host.Outcome State Fault Refusal :=
  .next (s.issue a 0x000 w (aluOp (fun x y => x + y) a w))
def execSub (a : Agent) (w : Word) (s : State) : Host.Outcome State Fault Refusal :=
  .next (s.issue a 0x001 w (aluOp (fun x y => x - y) a w))
def execAnd (a : Agent) (w : Word) (s : State) : Host.Outcome State Fault Refusal :=
  .next (s.issue a 0x002 w (aluOp (fun x y => x &&& y) a w))
def execOr (a : Agent) (w : Word) (s : State) : Host.Outcome State Fault Refusal :=
  .next (s.issue a 0x003 w (aluOp (fun x y => x ||| y) a w))
def execXor (a : Agent) (w : Word) (s : State) : Host.Outcome State Fault Refusal :=
  .next (s.issue a 0x004 w (aluOp (fun x y => x ^^^ y) a w))
/-- Shift amount b[5:0]. -/
def shAmt (b : Word) : Nat := b.toNat % 64
def execShl (a : Agent) (w : Word) (s : State) : Host.Outcome State Fault Refusal :=
  .next (s.issue a 0x005 w (aluOp (fun x y => x <<< shAmt y) a w))
def execShr (a : Agent) (w : Word) (s : State) : Host.Outcome State Fault Refusal :=
  .next (s.issue a 0x006 w (aluOp (fun x y => x >>> shAmt y) a w))
def execSar (a : Agent) (w : Word) (s : State) : Host.Outcome State Fault Refusal :=
  .next (s.issue a 0x007 w (aluOp (fun x y => x.sshiftRight (shAmt y)) a w))

/-- CMP writes predicate DST (R151). -/
def cmpOp (a : Agent) (w : Word) (s : State) : State :=
  match condHolds (fld w 34 32) (s.regS a (wA w)) (operandB s a w) with
  | none => s.faultAt a w stIllegalInstr
  | some r => s.guarded a w
      [(badBits w (aluFields w [(34, 32)]) || decide (7 < wDst w), stIllegalInstr)] fun s => (s.setP a (wDst w) r).advance a
def execCmp (a : Agent) (w : Word) (s : State) : Host.Outcome State Fault Refusal := .next (s.issue a 0x008 w (cmpOp a w))

/-- SEL reads predicate PRED (R151). -/
def selOp (a : Agent) (w : Word) (s : State) : State :=
  s.guarded a w [(badBits w [fDst, fA, fB, (34, 32)], stIllegalInstr)] fun s =>
    (s.setS a (wDst w) (if s.regP a (fld w 34 32) then s.regS a (wA w) else s.regS a (wB w))).advance a
def execSel (a : Agent) (w : Word) (s : State) : Host.Outcome State Fault Refusal := .next (s.issue a 0x009 w (selOp a w))

/-- Low 64 bits of a times b[31:0] sign-extended (R152). -/
def mulsVal (x y : Word) : Word := x * BitVec.ofInt 64 (sextNat (y.toNat % 2 ^ 32) 32)
def execMuls (a : Agent) (w : Word) (s : State) : Host.Outcome State Fault Refusal :=
  .next (s.issue a 0x00A w (aluOp mulsVal a w))

def moviOp (a : Agent) (w : Word) (s : State) : State :=
  s.guarded a w [(badBits w [fDst, (35, 0)], stIllegalInstr)] fun s =>
    (s.setS a (wDst w) (BitVec.ofInt 64 (sextNat (fld w 35 0) 36))).advance a
def execMovi (a : Agent) (w : Word) (s : State) : Host.Outcome State Fault Refusal := .next (s.issue a 0x00B w (moviOp a w))

/-- d[63:36] := IMMH; d[35:0] unchanged. -/
def movhiOp (a : Agent) (w : Word) (s : State) : State :=
  s.guarded a w [(badBits w [fDst, (27, 0)], stIllegalInstr)] fun s =>
    (s.setS a (wDst w) (putBits (s.regS a (wDst w)) 63 36 (fld w 27 0))).advance a
def execMovhi (a : Agent) (w : Word) (s : State) : Host.Outcome State Fault Refusal := .next (s.issue a 0x00C w (movhiOp a w))

/-! ### Memory (R153, R154) -/

/-- Where a scalar access goes: a physical scratchpad byte, a partition address, or a control SRAM byte. -/
inductive ScalarLoc where
  | spad (phys : Nat)
  | dram (p : Nat) (pa : Nat)
  | sram (addr : Nat)
  deriving DecidableEq, Repr

/-- The address base + IMM in the space SP selects, checked in the order of R491. A control core has no windows and no
partition of its own. (log 30, DEDUCED) -/
def scalarLoc (s : State) (a : Agent) (w : Word) (base : Word) (align n : Nat) : Except (BitVec 16) ScalarLoc :=
  let ad := (base + wImm w).toNat
  let sp := fld w 35 34
  match a with
  | .seq c =>
    if sp = 2 then .error stPrivilege
    else if ad % align ≠ 0 then .error stAlign
    else if sp = 1 then
      let p := (s.cl c.val).part.toNat
      if !(s.pt p).mappedRange ad n then .error stAddrRange
      else if !s.partOn p ad n then .error stGroupOff
      else .ok (.dram p ad)
    else
      let win := mget 0 (s.cl c.val).win (fld w 33 32)
      if winOk win ad n then .ok (.spad (winPhys win ad)) else .error stWindowBound
  | .core _ =>
    if ad % align ≠ 0 then .error stAlign
    else if sp = 1 then .error stAddrRange
    else if sp = 0 then .error stWindowBound
    else if ad + n ≤ 2 ^ 22 then .ok (.sram ad)
    else .error stAddrRange

/-- Cluster number of an agent; a control core reaches no scratchpad. -/
def clusterOf (a : Agent) : Nat := match a with | .seq c => c.val | .core _ => 0

/-- The reads' effect on the cells, before the bytes are taken. -/
def scalarTouch (s : State) (a : Agent) (n : Nat) : ScalarLoc → State
  | .spad x => s.spadTouch (clusterOf a) x n
  | .dram p pa => s.partTouch p pa n
  | .sram _ => s
def scalarBytes (s : State) (a : Agent) (n : Nat) : ScalarLoc → List Byte
  | .spad x => (s.cl (clusterOf a)).spadRd x n
  | .dram p pa => s.partRd p pa n
  | .sram x => rdBytes s.mem.ctrlSram x n
/-- Partition memory that an instruction in flight writes: the target of a DMOV or an ATOM, and the rows of a KVAPP. -/
def State.memOuts (s : State) (c : Nat) (j : Job) : List (Nat × Nat) :=
  let p := (s.cl c).part.toNat
  let t := j.ten 0
  if j.dead then [] else
  match j.op with
  | .dmov | .atom => if t.space = 0 || t.host || s.remote t || t.empty then [] else [(t.span.1.toNat, t.spanLen)]
  | .kvapp => match kvGood s p (nth 0 j.scal 0) with
    | none => []
    | some (b, l) => (List.range b.count).flatMap fun i => (List.range (t.e 1)).flatMap fun tok =>
      let r := s.seqRec p b i
      let pos := r.cursor + tok
      let src := l.page (s.pageIn p (s.seqAhead p b i (pos / l.p - r.cursor / l.p) % 2 ^ 40) (kLayer j.word))
      let els := List.replicate l.row ({ val := 0, exp := 0, fl := 0, bad := none } : Raw)
      (kvRowPlan l src false (pos % l.p) els ++ kvRowPlan l src true (pos % l.p) els).map fun x => (x.1, x.2.length)
  | _ => []
/-- What instructions in flight write where a scalar load reads (R154): those of its own cluster in scratchpad, those of every
cluster of the partition in its memory. -/
def State.inFlight (s : State) (a : Agent) : ScalarLoc → List (Nat × Nat)
  | .spad _ => let x := s.cl (clusterOf a); x.units.flatMap fun kv => kv.2.flatMap fun j => j.outs x
  | .dram p _ => s.clusters.flatMap fun kv => if kv.2.part.toNat = p then kv.2.units.flatMap fun u => u.2.flatMap (s.memOuts kv.1) else []
  | .sram _ => []
/-- First address of a location. -/
def ScalarLoc.addr : ScalarLoc → Nat
  | .spad x => x
  | .dram _ pa => pa
  | .sram x => x
/-- Offsets of the bytes of a load that something in flight writes. -/
def State.racing (s : State) (a : Agent) (n : Nat) (l : ScalarLoc) : List Nat :=
  let w := s.inFlight a l
  if w.isEmpty then [] else (List.range n).filter fun i => w.any fun r => decide (r.1 ≤ l.addr + i) && decide (l.addr + i < r.1 + r.2)
/-- The bytes that a scalar load returns: one that something in flight writes is undefined (R154). -/
def scalarValue (s : State) (a : Agent) (n : Nat) (l : ScalarLoc) : List Byte :=
  let open_ := s.racing a n l
  let bs := scalarBytes s a n l
  if open_.isEmpty then bs else
  (List.range n).map fun i => if open_.contains i then (s.freeAt i).setWidth 8 else nth 0 bs i
/-- Poison that the read meets: record it when some word is poisoned (R464). (log 67, DEDUCED) -/
def scalarPoison (s : State) (a : Agent) (n : Nat) : ScalarLoc → Option State
  | .spad x =>
    match (s.cl (clusterOf a)).spadPois x n with
    | [] => none
    | k :: ks => some (s.poisonRec (s.partOf (clusterOf a)) 2 (clusterOf a) (8 * k) (ks.length + 1) 3)
  | .dram p pa =>
    match s.partPoison p pa n with
    | [] => none
    | k :: ks =>
      let d := ((s.pt p).dev (if k < pa then pa else k)).getD 0
      some (s.poisonRec (BitVec.ofNat 8 p) 3 (vaultOf d) d (ks.length + 1) 1)
  | .sram _ => none
def scalarStore (s : State) (a : Agent) (bs : List Byte) : ScalarLoc → State
  | .spad x => s.spadWrite (clusterOf a) 7 x bs
  | .dram p pa => s.partWr p pa bs
  | .sram x => s.setMem { s.mem with ctrlSram := wrBytes s.mem.ctrlSram x bs }

/-- SP 3 is illegal (R153). WIN belongs to every operation that has SP, so a window number where SP is not 0 is passed over
(R147, Table 8.2). (log 30, DEDUCED) -/
def spBad (w : Word) : Bool := decide (fld w 35 34 = 3)

/-- A scalar load of n bytes: the value goes to k, unless a check fails or a word read is poisoned. -/
def scalarLoad (a : Agent) (w : Word) (ill : Bool) (base : Word) (align n : Nat) (k : List Byte → State → State) (s : State) : State :=
  if ill || spBad w then s.faultAt a w stIllegalInstr else
  match scalarLoc s a w base align n with
  | .error st => s.faultAt a w st
  | .ok l =>
    let s1 := scalarTouch s a n l
    match scalarPoison s1 a n l with
    | some s2 => s2.faultAt a w stPoisonConsumed
    | none => (k (scalarValue s1 a n l) (if (s1.racing a n l).isEmpty then s1 else s1.bump n)).advance a
/-- A scalar store that a closed group turns away is logged (R410). -/
def State.storeOffLog (s : State) (a : Agent) (pa n : Nat) : State :=
  let p := (s.cl (clusterOf a)).part.toNat
  let dev := match ((s.pt p).runs pa n).find? fun r => !s.devOn r.1 r.2 with | some r => r.1 | none => 0
  s.groupOffLog dev (BitVec.ofNat 8 p) s.lnk.chip
def scalarSave (a : Agent) (w : Word) (ill : Bool) (base : Word) (align : Nat) (bs : List Byte) (s : State) : State :=
  if ill || spBad w then s.faultAt a w stIllegalInstr else
  match scalarLoc s a w base align bs.length with
  | .error st =>
    let s1 := if st = stGroupOff then s.storeOffLog a (base + wImm w).toNat bs.length else s
    s1.faultAt a w st
  | .ok l => (scalarStore s a bs l).advance a

/-- Fields of a memory access: SP, WIN and IMM. -/
def fMem : List (Nat × Nat) := [(35, 34), (33, 32), (31, 0)]
def ldOp (a : Agent) (w : Word) (s : State) : State :=
  scalarLoad a w (badBits w ([fDst, fA] ++ fMem)) (s.regS a (wA w)) 8 8
    (fun bs s => s.setS a (wDst w) (BitVec.ofNat 64 (leNat bs))) s
def execLd (a : Agent) (w : Word) (s : State) : Host.Outcome State Fault Refusal := .next (s.issue a 0x010 w (ldOp a w))
def stOp (a : Agent) (w : Word) (s : State) : State :=
  scalarSave a w (badBits w ([fA, fB] ++ fMem)) (s.regS a (wA w)) 8 (leBytes 8 (s.regS a (wB w)).toNat) s
def execSt (a : Agent) (w : Word) (s : State) : Host.Outcome State Fault Refusal := .next (s.issue a 0x011 w (stOp a w))

/-! ### Moves (R144, R309) -/

def mveOp (a : Agent) (w : Word) (s : State) : State :=
  s.guarded a w [(badBits w [fDst, fA] || decide (15 < wA w), stIllegalInstr)] fun s =>
    (s.setS a (wDst w) ((s.regE a (wA w)).setWidth 64)).advance a
def execMve (a : Agent) (w : Word) (s : State) : Host.Outcome State Fault Refusal := .next (s.issue a 0x012 w (mveOp a w))
def rdstOp (a : Agent) (w : Word) (s : State) : State :=
  s.guarded a w [(badBits w [fDst], stIllegalInstr)] fun s =>
    ((s.setS a (wDst w) (s.statusOf a)).setStatus a 0).advance a
def execRdst (a : Agent) (w : Word) (s : State) : Host.Outcome State Fault Refusal := .next (s.issue a 0x013 w (rdstOp a w))
def rdtickOp (a : Agent) (w : Word) (s : State) : State :=
  s.guarded a w [(badBits w [fDst], stIllegalInstr)] fun s => (s.setS a (wDst w) s.tick).advance a
def execRdtick (a : Agent) (w : Word) (s : State) : Host.Outcome State Fault Refusal := .next (s.issue a 0x014 w (rdtickOp a w))

/-! ### Descriptors (R153, R155): a control core has no descriptor file, so they are illegal there (R130). -/

/-- See log 30, DEDUCED. -/
def noDesc (a : Agent) : Bool := match a with | .seq _ => false | .core _ => true
def dldOp (a : Agent) (w : Word) (s : State) : State :=
  scalarLoad a w (badBits w ([fDst, fA] ++ fMem) || noDesc a || decide (15 < wDst w)) (s.regS a (wA w)) 32 32
    (fun bs s => s.setD a (wDst w) (BitVec.ofNat 256 (leNat bs))) s
def execDld (a : Agent) (w : Word) (s : State) : Host.Outcome State Fault Refusal := .next (s.issue a 0x018 w (dldOp a w))
/-- DST to SRCA := consecutive descriptors at b + IMM. -/
def dldmOp (a : Agent) (w : Word) (s : State) : State :=
  let n := wA w + 1 - wDst w
  scalarLoad a w (badBits w ([fDst, fA, fB] ++ fMem) || noDesc a || decide (15 < wDst w) || decide (15 < wA w)
      || decide (wA w < wDst w)) (s.regS a (wB w)) 32 (32 * n)
    (fun bs s => (List.range n).foldl (fun s i => s.setD a (wDst w + i) (BitVec.ofNat 256 (fieldAt bs (32 * i) 32))) s) s
def execDldm (a : Agent) (w : Word) (s : State) : Host.Outcome State Fault Refusal := .next (s.issue a 0x019 w (dldmOp a w))
def dstrOp (a : Agent) (w : Word) (s : State) : State :=
  scalarSave a w (badBits w ([fA, fB] ++ fMem) || noDesc a || decide (15 < wB w)) (s.regS a (wA w)) 32
    (leBytes 32 (s.regD a (wB w)).toNat) s
def execDstr (a : Agent) (w : Word) (s : State) : Host.Outcome State Fault Refusal := .next (s.issue a 0x01A w (dstrOp a w))

/-- Writes field FIELD of descriptor DST with f of its old value; a DSET of SPACE is always allowed (R155). -/
def descUpdate (f : Nat → Nat → Nat) (a : Agent) (w : Word) (s : State) : State :=
  let d := s.regD a (wDst w)
  match fieldBits (fld w 35 32) (dfld d 13 12) with
  | none => s.faultAt a w stIllegalInstr
  | some (hi, lo) => s.guarded a w
      [(badBits w [fDst, fA, (35, 32)] || noDesc a || decide (15 < wDst w), stIllegalInstr)] fun s =>
        (s.setD a (wDst w) (dput d hi lo (f (dfld d hi lo) (s.regS a (wA w)).toNat))).advance a
def execDset (a : Agent) (w : Word) (s : State) : Host.Outcome State Fault Refusal :=
  .next (s.issue a 0x01B w (descUpdate (fun _ v => v) a w))
def execDadd (a : Agent) (w : Word) (s : State) : Host.Outcome State Fault Refusal :=
  .next (s.issue a 0x01C w (descUpdate (fun old v => old + v) a w))
/-- DGET sign-extends STRIDE and zero-extends the rest. -/
def dgetOp (a : Agent) (w : Word) (s : State) : State :=
  let d := s.regD a (wA w)
  match fieldBits (fld w 35 32) (dfld d 13 12) with
  | none => s.faultAt a w stIllegalInstr
  | some (hi, lo) => s.guarded a w
      [(badBits w [fDst, fA, (35, 32)] || noDesc a || decide (15 < wA w), stIllegalInstr)] fun s =>
        let v := dfld d hi lo
        let stride := decide (5 ≤ fld w 35 32) && decide (fld w 35 32 ≤ 8)
        (s.setS a (wDst w) (if stride then BitVec.ofInt 64 (sextNat v 24) else BitVec.ofNat 64 v)).advance a
def execDget (a : Agent) (w : Word) (s : State) : Host.Outcome State Fault Refusal := .next (s.issue a 0x01D w (dgetOp a w))

end Sys2Proof.Machine
end

