-- ==== Sys2Proof/Machine/Control.lean ====
section
/-! DEFINITION. The control and synchronisation classes (CLASS 0x01, 0x02), Tables 8.7 and 8.8, R139 to R143, R156 to R161,
and the rows that end a stall. PHASE_BOUNDARY is in `Machine/Boundary.lean`. -/

namespace Sys2Proof.Machine

/-! ### Branches and loops -/

/-- Loops that stay active when control goes to an instruction: from the outermost in, up to the first whose body does not
hold it (R157). The list has the innermost first. (log 40, DEDUCED) -/
def keepLoops (ls : List LoopFrame) (pc : Nat) : List LoopFrame :=
  (ls.reverse.takeWhile fun f => decide (f.first ≤ pc) && decide (pc ≤ f.last)).reverse
/-- A target is outside the loaded program of a sequencer (R127); a control core has no loaded program. (log 30, DEDUCED; log 68, DEDUCED) -/
def outOfProgram (s : State) (a : Agent) (t : Int) : Bool :=
  match a with
  | .seq c => decide (t < 0) || decide (((s.cl c.val).seq.prog.length : Int) ≤ t)
  | .core _ => false
/-- Target of a branch: its own index plus OFFSET. (log 30, DEDUCED) -/
def branchTarget (s : State) (a : Agent) (w : Word) : Int := (s.pcOf a : Int) + sextNat (fld w 31 0) 32
def branchTo (s : State) (a : Agent) (w : Word) : State :=
  let t := branchTarget s a w
  if outOfProgram s a t then s.faultAt a w stPcRange
  else
    let pc := (t % 2 ^ 61).toNat
    s.setPc a pc (keepLoops (s.loopsOf a) pc)

def brOp (a : Agent) (w : Word) (s : State) : State :=
  s.guarded a w [(badBits w [(31, 0)], stIllegalInstr)] fun s => branchTo s a w
def execBr (a : Agent) (w : Word) (s : State) : Host.Outcome State Fault Refusal := .next (s.issue a 0x040 w (brOp a w))
/-- A conditional branch whose target is outside the program faults when it is taken. -/
def brCond (want : Bool) (a : Agent) (w : Word) (s : State) : State :=
  s.guarded a w [(badBits w [(34, 32), (31, 0)], stIllegalInstr)] fun s =>
    if s.regP a (fld w 34 32) = want then branchTo s a w else s.advance a
def execBrp (a : Agent) (w : Word) (s : State) : Host.Outcome State Fault Refusal := .next (s.issue a 0x041 w (brCond true a w))
def execBrn (a : Agent) (w : Word) (s : State) : Host.Outcome State Fault Refusal := .next (s.issue a 0x042 w (brCond false a w))

/-- Enters a loop over the next `body` instructions. A count of 0 skips the body: control goes on as behind its last
instruction, so that an outer body that ends there counts it (R156, R157). -/
def enterLoop (a : Agent) (w : Word) (body count : Nat) (s : State) : State :=
  let pc := s.pcOf a
  let n := nextPc (pc + body) (s.loopsOf a)
  if outOfProgram s a ((pc + body : Nat) : Int) then s.faultAt a w stPcRange
  else if count = 0 then s.setPc a n.1 n.2
  else if 4 ≤ (s.loopsOf a).length then s.faultAt a w stLoopDepth
  else s.setPc a (pc + 1) ({ first := pc + 1, last := pc + body, left := count - 1 } :: s.loopsOf a)
def loopOp (a : Agent) (w : Word) (s : State) : State :=
  s.guarded a w [(badBits w [fA, (19, 0)] || decide (fld w 19 0 = 0), stIllegalInstr)] fun s =>
    enterLoop a w (fld w 19 0) ((s.regS a (wA w)).toNat % 2 ^ 32) s
def execLoop (a : Agent) (w : Word) (s : State) : Host.Outcome State Fault Refusal := .next (s.issue a 0x043 w (loopOp a w))
def loopiOp (a : Agent) (w : Word) (s : State) : State :=
  s.guarded a w [(badBits w [(35, 0)] || decide (fld w 19 0 = 0), stIllegalInstr)] fun s =>
    enterLoop a w (fld w 19 0) (fld w 35 20) s
def execLoopi (a : Agent) (w : Word) (s : State) : Host.Outcome State Fault Refusal := .next (s.issue a 0x044 w (loopiOp a w))

/-! ### WAITE and EVSET -/

/-- eN has reached v in serial-number order (R139). -/
def reached (e v : BitVec 16) : Bool := decide ((e - v).toNat < 2 ^ 15)
/-- v is VALUE, or b[15:0] when IMMF is 0; the unused one must be zero (R150). -/
def waitValue (s : State) (a : Agent) (w : Word) : BitVec 16 :=
  if wImmf w then BitVec.ofNat 16 (fld w 15 0) else (s.regS a (wB w)).setWidth 16
def waitFields (w : Word) (r : Nat × Nat) : List (Nat × Nat) := if wImmf w then [r, (35, 35), (15, 0)] else [r, fB, (35, 35)]
def waiteOp (a : Agent) (w : Word) (s : State) : State :=
  s.guarded a w [(badBits w (waitFields w fA) || decide (15 < wA w), stIllegalInstr)] fun s =>
    let v := waitValue s a w
    if reached (s.regE a (wA w)) v then s.advance a else s.stall a (.waite (wA w) v)
def execWaite (a : Agent) (w : Word) (s : State) : Host.Outcome State Fault Refusal := .next (s.issue a 0x045 w (waiteOp a w))
/-- A stalled agent goes on behind its instruction. -/
def State.resume (s : State) (a : Agent) : State := (s.unstall a).advance a
/-- A stall ends only while the agent may issue. -/
def State.awake (s : State) (a : Agent) : Bool :=
  s.live && match a with
  | .seq c => decide ((s.cl c.val).cstate = .run) && !s.issueHeld c.val
  | .core _ => true
def execWaiteResume (a : Agent) (s : State) : Host.Outcome State Fault Refusal :=
  .next (match s.stallOf a with
    | some (.waite e v) => if s.awake a && reached (s.regE a e) v then s.resume a else s
    | _ => s)
def evsetOp (a : Agent) (w : Word) (s : State) : State :=
  s.guarded a w [(badBits w (waitFields w fDst) || decide (15 < wDst w), stIllegalInstr)] fun s =>
    (s.setE a (wDst w) (waitValue s a w)).advance a
def execEvset (a : Agent) (w : Word) (s : State) : Host.Outcome State Fault Refusal := .next (s.issue a 0x084 w (evsetOp a w))

/-! ### END and NOP -/

/-- Issue stops; issued tensor instructions run on (R158). A control core stops issuing too. -/
def endOp (a : Agent) (w : Word) (s : State) : State :=
  s.guarded a w [(badBits w [], stIllegalInstr)] fun s =>
    match a with
    | .seq c => s.modCl c.val fun x => { x with seq := { x.seq with run := .ended } }
    | .core k => s.modCc k.val fun x => { x with halted := true }
def execEndSeq (a : Agent) (w : Word) (s : State) : Host.Outcome State Fault Refusal := .next (s.issue a 0x046 w (endOp a w))
def nopOp (a : Agent) (w : Word) (s : State) : State :=
  s.guarded a w [(badBits w [], stIllegalInstr)] fun s => s.advance a
def execNop (a : Agent) (w : Word) (s : State) : Host.Outcome State Fault Refusal := .next (s.issue a 0x047 w (nopOp a w))

/-! ### FENCE (R140, R159) -/

/-- Units that a mask selects; a mask of zero selects every unit. -/
def fenceUnits (m : BitVec 7) : List Nat := if m = 0 then List.range 7 else (List.range 7).filter fun u => m.getLsbD u
/-- Every instruction issued to the selected units before number `before` has completed. -/
def fenceDone (x : Cluster) (m : BitVec 7) (before : Nat) : Bool :=
  (fenceUnits m).all fun u => (x.unit u).all fun j => decide (before ≤ j.id)
/-- See log 40, DEDUCED. -/
def fenceOp (a : Agent) (w : Word) (s : State) : State :=
  s.guarded a w [(badBits w [(6, 0)], stIllegalInstr)] fun s =>
    match a with
    | .core _ => s.advance a
    | .seq c =>
      let x := s.cl c.val
      let m := BitVec.ofNat 7 (fld w 6 0)
      if fenceDone x m x.nextJob then s.advance a else s.stall a (.fence m x.nextJob)
def execFence (a : Agent) (w : Word) (s : State) : Host.Outcome State Fault Refusal := .next (s.issue a 0x080 w (fenceOp a w))
def execFenceResume (a : Agent) (s : State) : Host.Outcome State Fault Refusal :=
  .next (match a, s.stallOf a with
    | .seq c, some (.fence m b) => if s.awake a && fenceDone (s.cl c.val) m b then s.resume a else s
    | _, _ => s)

/-! ### BAR, PHASE and WAITT (R140 to R142, R161) -/

/-- See log 30, DEDUCED. -/
def isCore (a : Agent) : Bool := match a with | .core _ => true | .seq _ => false
def barOp (a : Agent) (w : Word) (s : State) : State :=
  s.guarded a w [(badBits w [] || isCore a, stIllegalInstr)] fun s => s.stall a .bar
def execBar (a : Agent) (w : Word) (s : State) : Host.Outcome State Fault Refusal := .next (s.issue a 0x081 w (barOp a w))
/-- Every sequencer of the task stands at the same BAR (R140). -/
def barReady (s : State) (T : Task) : Bool :=
  T.clusters.all fun c => decide ((s.cl c).seq.run = .stalled .bar) &&
    decide ((s.cl c).seq.pc = (s.cl (nth 0 T.clusters 0)).seq.pc)
/-- All sequencers of the task go on. -/
def resumeAll (s : State) (cs : List Nat) : State :=
  cs.foldl (fun s c => if h : c < 768 then s.resume (.seq ⟨c, h⟩) else s) s
def execBarRelease (t : TaskId) (s : State) : Host.Outcome State Fault Refusal :=
  .next (match s.findTask t with
    | some T => if s.live && T.fault.isNone && barReady s T && !T.clusters.isEmpty then resumeAll s T.clusters else s
    | none => s)

/-- PHASE stalls until the boundary; K must be declared in the phase table (R141). -/
def phaseOp (a : Agent) (w : Word) (s : State) : State :=
  match a with
  | .core _ => s.faultAt a w stIllegalInstr
  | .seq c =>
    let k := BitVec.ofNat 8 (fld w 7 0)
    let declared := match s.taskOn c.val with | some T => T.phases.getLsbD k.toNat | none => false
    s.guarded a w [(badBits w [(7, 0)], stIllegalInstr), (!declared, stPhaseUndeclared)] fun s => s.stall a (.phase k)
def execPhase (a : Agent) (w : Word) (s : State) : Host.Outcome State Fault Refusal := .next (s.issue a 0x082 w (phaseOp a w))

/-- A tick that has passed at issue sets the predicate; otherwise the agent stalls and the predicate is 0 (R142). (log 40, DEDUCED) -/
def waittOp (a : Agent) (w : Word) (s : State) : State :=
  s.guarded a w [(badBits w [fDst, fA] || decide (7 < wDst w), stIllegalInstr)] fun s =>
    let t := s.regS a (wA w)
    if t.toNat < s.tick.toNat then (s.setP a (wDst w) true).advance a
    else (s.setP a (wDst w) false).stall a (.waitt t)
def execWaitt (a : Agent) (w : Word) (s : State) : Host.Outcome State Fault Refusal := .next (s.issue a 0x083 w (waittOp a w))
def execWaittResume (a : Agent) (s : State) : Host.Outcome State Fault Refusal :=
  .next (match s.stallOf a with
    | some (.waitt t) => if s.awake a && decide (t.toNat ≤ s.tick.toNat) then s.resume a else s
    | _ => s)

/-! ### WAIT_TIMEOUT (R143) -/

/-- The stalls whose time R143 counts. -/
def Stall.counted : Stall → Bool
  | .waite _ _ | .fence _ _ | .bar | .phase _ | .waitt _ => true
  | _ => false
/-- A task that counts as parked: one of its instructions stalls at host memory (R376, R377). -/
def State.stallsAtHost (s : State) (T : Task) : Bool := T.clusters.any fun c => decide ((s.cl c).seq.run = .stalled .hostLost)
/-- The row says that the limit has passed with no completion; the time of a task that is parked or counts as parked and HOST_LOST
of the device are not counted, and a limit of 0 disables it. (log 40, DEDUCED) -/
def execWaitTimeout (c : Fin 768) (s : State) : Host.Outcome State Fault Refusal :=
  .next (match (s.cl c.val).seq.run, s.taskOn c.val with
    | .stalled x, some T =>
      if s.live && x.counted && decide ((s.pt T.id.part.val).waitLimit ≠ 0) && decide (T.st = .running) && !s.hif.hostLost
          && !s.stallsAtHost T then s.taskStop T.id stWaitTimeout (some c.val) else s
    | _, _ => s)

end Sys2Proof.Machine
end

