-- ==== Sys2Proof/Machine/Kv.lean ====
section
/-! DEFINITION. Nightwatch's policy for the key-value cache: groups, the free list and its rotation (R195, R259, R455), streams and
batch records (R259 to R262), the prefix tree (R268 to R270), copies (R271), pressure, victims, swapping (R272 to R277) and seals
(R258). -/

namespace Sys2Proof.Machine

/-! ### Free list and groups -/

def Part.group (P : Part) (g : Nat) : KvGroup := mget KvGroup.none P.kvGroups g
def Part.setGroup (P : Part) (g : Nat) (x : KvGroup) : Part := { P with kvGroups := mset KvGroup.none P.kvGroups g x }
/-- Vault group of a page (64: not mapped). -/
def Part.pageVg (P : Part) (pg : Nat) : Nat := match P.dev (pg * 65536) with | some d => groupOf d | none => 64
/-- The next free page in rotation over the vault groups that are ACTIVE (R195, R411). (log 10, DESIGN CHOICE) -/
def Part.takePage (P : Part) (on : Nat → Bool) : Option (Nat × Part) :=
  let gs := ((List.range 64).map fun i => (P.kvLastGroup + 1 + i) % 64).filter on
  match gs.findSome? fun g => (P.kvFree.find? fun pg => decide (P.pageVg pg = g)).map fun pg => (g, pg) with
  | none => none
  | some (g, pg) => some (pg, { P with kvFree := P.kvFree.erase pg, kvLastGroup := g })
def Part.takePages (P : Part) (on : Nat → Bool) : Nat → Option (List Nat × Part)
  | 0 => some ([], P)
  | n + 1 => match P.takePage on with
    | none => none
    | some (pg, Q) => match Q.takePages on n with | none => none | some (ps, R) => some (pg :: ps, R)
/-- A valid node names the group: it stays cached (R272). -/
def Part.cached (P : Part) (g : Nat) : Bool :=
  P.kvNodes.any fun n => n.valid && decide (n.group = g) && decide (n.tag = (P.group g).tag)
/-- Removes the nodes of a group. -/
def Part.dropNodes (P : Part) (g : Nat) : Part :=
  { P with kvNodes := P.kvNodes.map fun n => if n.group = g then { n with valid := false } else n }
/-- Hands out a group of n pages: the lowest entry that is free, its tag incremented (R259, R455). (log 43, DESIGN CHOICE) -/
def Part.takeGroup (P : Part) (on : Nat → Bool) (n : Nat) : Option (Nat × Part) :=
  let old := (List.range P.kvNextGroup).find? fun g => decide ((P.group g).pages = []) && decide ((P.group g).refs = 0)
  match P.takePages on n with
  | none => none
  | some (ps, Q) => match old with
    | some g =>
      let t := (Q.group g).tag
      let Q1 := if t = 0xFFFF then Q.dropNodes g else Q
      some (g, Q1.setGroup g { pages := ps, tag := t + 1, refs := 1, sealed := [] })
    | none => some (Q.kvNextGroup, { Q with kvNextGroup := Q.kvNextGroup + 1 }.setGroup Q.kvNextGroup
        { pages := ps, tag := 0, refs := 1, sealed := [] })
def Part.takeGroups (P : Part) (on : Nat → Bool) (l : Nat) : Nat → Option (List Nat × Part)
  | 0 => some ([], P)
  | n + 1 => match P.takeGroup on l with
    | none => none
    | some (g, Q) => match Q.takeGroups on l n with | none => none | some (gs, R) => some (g :: gs, R)
/-- A page that holds a retired block leaves the allocator (R223). -/
def State.pageRetired (s : State) (p pg : Nat) : Bool :=
  match (s.pt p).dev (pg * 65536) with
  | some d => s.mem.field.retired.any fun r => decide (r.1 / 16 = d / 65536)
  | none => true
/-- Pages that hold keys and values, those whose swap writes are in flight among them. -/
def Part.usedPages (P : Part) : List Nat :=
  (P.kvGroups.flatMap fun kv => kv.2.pages) ++ P.kvSeqs.flatMap fun q => if q.st = .swapped then q.out else []
/-- Of some pages, those that the free list may take beside n others: KVQUOTA bounds all of them together (R336). -/
def Part.quotaCut (P : Part) (n : Nat) (ps : List Nat) : List Nat :=
  if P.kvQuota = 0 then ps else ps.take (P.kvQuota.toNat - n)
/-- Pages that no group holds any longer go to the free list, as far as KVQUOTA lets them (R223, R336). -/
def State.freePages (s : State) (p : Nat) (ps : List Nat) : State :=
  s.modPt p fun P => { P with kvFree := P.kvFree ++ P.quotaCut (P.usedPages.length + P.kvFree.length) (ps.filter fun pg => !s.pageRetired p pg) }
/-- Frees a group's pages. -/
def State.freeGroup (s : State) (p g : Nat) : State :=
  let x := (s.pt p).group g
  (s.modPt p fun P => P.setGroup g { x with pages := [], refs := 0, sealed := [] }).freePages p x.pages
/-- Drops one reference to a group; without references and nodes its pages are freed. -/
def State.unref (s : State) (p g : Nat) : State :=
  let x := (s.pt p).group g
  let s1 := s.modPt p fun P => P.setGroup g { x with refs := x.refs - 1 }
  if x.refs ≤ 1 && !(s1.pt p).cached g then s1.freeGroup p g else s1
/-- Marker of a group that lies in the swap area. -/
abbrev swappedGroup : Nat := 2 ^ 32
/-- A sequence by its identifier. -/
def Part.seqOf (P : Part) (sid : BitVec 32) : Option KvSeq := P.kvSeqs.find? fun q => decide (q.sid = sid)
def State.modSeq (s : State) (p : Nat) (sid : BitVec 32) (f : KvSeq → KvSeq) : State :=
  s.modPt p fun P => { P with kvSeqs := P.kvSeqs.map fun q => if q.sid = sid then f q else q }

/-! ### Streams and batch records -/

/-- A page descriptor as bytes (Table 12.6). -/
def descBytes (page first : Nat) (tag : BitVec 16) (isSealed : Bool) : List Byte :=
  leBytes 16 (page % 2 ^ 24 * 2 ^ 104 + first % 2 ^ 32 * 2 ^ 72 + tag.toNat * 2 ^ 56 + 2 ^ 55 + bool2 isSealed * 2 ^ 54)
/-- Nightwatch reads the header of a batch (R459): nothing of one that it cannot read. -/
def State.batchSee (s : State) (p : Nat) (h : Word) : State × Batch :=
  match s.structRd (finPart p) h.toNat 12 with
  | (.ok _, s1) => (s1, s1.batchAt p h)
  | (.error _, s1) => (s1, { addr := h.toNat, count := 0, lay := none, layers := 0, qrows := 0, look := 0 })
/-- Writes the descriptors of groups lo to hi - 1 of every layer (R262). -/
def State.writeStream (s : State) (p : Nat) (q : KvSeq) (layers lo hi : Nat) : State :=
  match kvLayout q.layout with
  | none => s
  | some l => (List.range layers).foldl (fun s y => (List.range (hi - lo)).foldl (fun s i =>
      let g := lo + i
      let x := (s.pt p).group (nth 0 q.groups g)
      let a := q.stream.toNat + 16 * (y * q.gmax + g)
      s.structWr (finPart p) a (if g < q.groups.length then descBytes (nth 0 x.pages y) (g * l.p) x.tag (x.sealed.contains y)
        else leBytes 16 0)) s) s
/-- Doublings of GMAX that n groups need. -/
def gmaxFor : Nat → Nat → Nat → Nat
  | 0, g, _ => g
  | k + 1, g, n => if n ≤ g then g else gmaxFor k (2 * g) n
/-- Brings a stream up to the groups that hold positions: appended, or rebuilt with GMAX doubled (R261, R262). -/
def State.growStream (s : State) (p : Nat) (q : KvSeq) (layers was : Nat) : State :=
  let n := q.groups.length
  if n ≤ q.gmax then s.writeStream p q layers was n
  else
    let g := gmaxFor 16 q.gmax n
    let q1 := { q with gmax := g, stream := (Config.streamBase p q.order g).setWidth 64 }
    ((s.modSeq p q.sid fun _ => q1).writeStream p q1 layers 0 g).trace .streamBuild (BitVec.ofNat 8 p)
/-- Rebuilds a whole stream. -/
def State.buildStream (s : State) (p : Nat) (q : KvSeq) (layers : Nat) : State :=
  (s.writeStream p q layers 0 q.gmax).trace .streamBuild (BitVec.ofNat 8 p)
/-- Groups that A lists: the one that holds c, then the prefetched ones (R259). -/
def seqA (q : KvSeq) (pp : Nat) : List Nat :=
  (if q.cursor % pp ≠ 0 then (match q.groups.getLast? with | some g => [g] | none => []) else []) ++ q.ahead
/-- Writes a group's page list. -/
def State.writeList (s : State) (p g : Nat) : State :=
  s.structWr (finPart p) (Config.listBase p g).toNat (((s.pt p).group g).pages.flatMap fun pg => leBytes 4 (pg % 2 ^ 24))
/-- Bytes of a sequence record (Table 12.4). -/
def seqRecBytes (p : Nat) (q : KvSeq) (pp : Nat) : List Byte :=
  let a := seqA q pp
  leBytes 4 q.sid.toNat ++ leBytes 4 q.cursor ++ leBytes 8 q.stream.toNat ++ leBytes 2 q.gmax ++ List.replicate 14 0
    ++ ((List.range 17).flatMap fun j => if j < a.length then
        leBytes 8 (2 ^ 63 + (Config.listBase p (nth 0 a j)).toNat) else leBytes 8 0)
    ++ List.replicate 88 0
/-- Sequences of a batch, in batch order. -/
def Part.inBatch (P : Part) (h : Word) : List KvSeq := P.kvSeqs.filter fun q => decide (q.batch = h) && decide (q.st = .resident)
/-- Handle of no batch. -/
abbrev noBatch : Word := 0xFFFFFFFFFFFFFFFF
/-- Writes a batch: COUNT and LAYOUT, the page lists and the records of its sequences. -/
def State.syncBatch (s : State) (p : Nat) (h : Word) : State :=
  if h = noBatch then s else
  let qs := (s.pt p).inBatch h
  let lay := match qs with | q :: _ => q.layout | [] => 0
  match kvLayout lay with
  | none => s.structWr (finPart p) h.toNat (leBytes 4 0)
  | some l =>
    let s1 := s.structWr (finPart p) h.toNat (leBytes 4 qs.length ++ leBytes 4 lay.toNat)
    (List.range qs.length).foldl (fun s i =>
      match qs[i]? with
      | none => s
      | some q => ((seqA q l.p).foldl (fun s g => s.writeList p g) s).structWr (finPart p) (h.toNat + 64 + 256 * i) (seqRecBytes p q l.p)) s1
/-- Batches that have a sequence. -/
def Part.batches (P : Part) : List Word := (P.kvSeqs.map (·.batch)).eraseDups
/-- A batch is served by a task that has named it and has not ended. -/
def State.batchServed (s : State) (p : Nat) (h : Word) : Bool :=
  s.tasks.any fun t => decide (t.id.part.val = p) && t.batches.contains h

/-! ### Prefix tree (R268 to R270) -/

def hashTok (h : Word) (t : BitVec 32) : Word :=
  let h1 := h ^^^ t.setWidth 64
  let h2 := h1 + rotl64 h1 27
  let h3 := h2 ^^^ (h2 >>> 31)
  let h4 := h3 + (h3 <<< 17)
  h4 ^^^ (h4 >>> 29)
/-- Hash of a group under its parent's hash. -/
def hashGroup (parent : Word) (ts : List (BitVec 32)) : Word := ts.foldl hashTok parent
/-- Index of the valid node that matches a group. -/
def Part.nodeFor (P : Part) (parent : BitVec 32) (h : Word) (n : Nat) : Option Nat :=
  (List.range P.kvNodes.length).find? fun i => match P.kvNodes[i]? with
    | some x => x.valid && decide (x.parent = parent) && decide (x.hash = h) && decide (x.count = n) && decide (x.tag = (P.group x.group).tag)
    | none => false
/-- A stale node is removed when it is found. -/
def Part.sweep (P : Part) : Part :=
  { P with kvNodes := P.kvNodes.map fun x => if decide (x.tag = (P.group x.group).tag) then x else { x with valid := false } }
/-- Walks the prompt's groups from group 0: the groups matched and the positions that they hold. -/
def matchFrom (tick : Word) : List (List (BitVec 32)) → BitVec 32 → Word → Part → Part × List Nat × Nat
  | [], _, _, P => (P, [], 0)
  | ts :: rest, parent, h0, P =>
    let h := hashGroup h0 ts
    match P.nodeFor parent h ts.length with
    | none => (P, [], 0)
    | some i => match P.kvNodes[i]? with
      | none => (P, [], 0)
      | some x =>
        let g := P.group x.group
        let P1 := { P with kvNodes := listSet P.kvNodes i { x with used := tick } }.setGroup x.group { g with refs := g.refs + 1 }
        let r := matchFrom tick rest (BitVec.ofNat 32 i) h P1
        (r.1, x.group :: r.2.1, ts.length + r.2.2)
/-- Node of group g of a prompt, with its hash, or the root's parent index for group "minus one". -/
def Part.chain (P : Part) : List (List (BitVec 32)) → BitVec 32 → Word → Option (BitVec 32 × Word)
  | [], parent, h => some (parent, h)
  | ts :: rest, parent, h0 =>
    let h := hashGroup h0 ts
    match P.nodeFor parent h ts.length with
    | none => none
    | some i => P.chain rest (BitVec.ofNat 32 i) h
/-- Puts a node into the tree: a free place, else in place of the least recently used node whose group has no references; then the
group of that node. -/
def Part.addNode (P : Part) (n : KvNode) : Part × Option Nat :=
  match (List.range P.kvNodes.length).find? fun i => match P.kvNodes[i]? with | some x => !x.valid | none => false with
  | some i => ({ P with kvNodes := listSet P.kvNodes i n }, none)
  | none =>
    if P.kvNodes.length < 65536 then ({ P with kvNodes := P.kvNodes ++ [n] }, none)
    else
      let cand := (List.range P.kvNodes.length).foldl (fun (o : Option (Nat × Word)) i => match P.kvNodes[i]? with
        | some x => if (P.group x.group).refs ≠ 0 then o else match o with
          | none => some (i, x.used)
          | some (_, u) => if x.used.toNat < u.toNat then some (i, x.used) else o
        | none => o) none
      match cand with
      | none => (P, none)
      | some (i, _) => ({ P with kvNodes := listSet P.kvNodes i n }, (P.kvNodes[i]?).map (·.group))
/-- A node enters the tree; a group that no node and no sequence names any longer gives its pages back (R270). -/
def State.putNode (s : State) (p : Nat) (n : KvNode) : State :=
  let r := (s.pt p).addNode n
  let s1 := s.setPt p r.1
  match r.2 with
  | some g => if (r.1.group g).refs = 0 && !r.1.cached g then s1.freeGroup p g else s1
  | none => s1
/-- Nodes for the groups of a prompt that the appends of a phase have just covered: from `was` positions to the cursor. -/
def State.promptNodes (s : State) (p : Nat) (q : KvSeq) (pp was : Nat) : State :=
  let gs := chunksOf pp q.prompt
  (List.range gs.length).foldl (fun s i =>
    let ts := nth [] gs i
    let stop := i * pp + ts.length
    if was < stop ∧ stop ≤ q.cursor then
      match (s.pt p).chain (gs.take i) 0xFFFFFFFF 0 with
      | none => s
      | some (parent, h) =>
        let g := nth 0 q.groups i
        s.putNode p { hash := hashGroup h ts, parent := parent, group := g, tag := ((s.pt p).group g).tag, count := ts.length, valid := true, used := s.tick }
    else s) s

/-- Bytes of a tree node (Table 12.7), for the host's reads. -/
def nodeBytes (n : KvNode) : List Byte :=
  leBytes 8 n.hash.toNat ++ leBytes 4 n.parent.toNat ++ leBytes 4 n.group ++ leBytes 2 n.tag.toNat ++ leBytes 2 n.count
    ++ leBytes 4 (bool2 n.valid) ++ leBytes 8 n.used.toNat
/-- Writes the tree to device memory where the host reads it (R269). -/
def State.syncTree (s : State) (p : Nat) : State :=
  let base := (s.pt p).kvTreeBase.toNat
  (List.range (s.pt p).kvNodes.length).foldl (fun s i => match (s.pt p).kvNodes[i]? with
    | some n => if s.devOn (base + 32 * i) 32 && decide (s.devRd (base + 32 * i) 32 ≠ nodeBytes n) then s.narrowWr (base + 32 * i) (nodeBytes n) else s
    | none => s) s

/-- Takes over a partition's allocation; nodes that the tag of a group handed out has removed go from device memory too (R269,
R455). -/
def State.setAlloc (s : State) (p : Nat) (Q : Part) : State :=
  let s1 := s.setPt p Q
  if Q.kvNodes = (s.pt p).kvNodes then s1 else s1.syncTree p

/-! ### Ends of sequences -/

/-- Drops everything that a sequence holds and forgets it; its batch's records are written again. -/
def State.endSeq (s : State) (p : Nat) (sid : BitVec 32) : State :=
  match (s.pt p).seqOf sid with
  | none => s
  | some q =>
    let s1 := ((q.groups ++ q.ahead).filter (· ≠ swappedGroup)).foldl (fun s g => s.unref p g) s
    let s2 := (s1.modPt p fun P => { P with
      kvSeqs := P.kvSeqs.filter fun x => decide (x.sid ≠ sid), kvVictims := P.kvVictims.filter fun x => decide (x ≠ sid) }).freePages p
        (if q.st = .swapped then q.out else [])
    if q.st = .resident then s2.syncBatch p q.batch else s2

/-! ### Pages through the copy path (R14, R271, R274) -/

/-- Bytes of a page that hold its keys and values: the used span, with XC of both regions header, index and the used granules of
every tile, by the index entries that `entry` reads (R230, R256, R258). (log 71, DEDUCED) -/
def KvLay.parts (l : KvLay) (entry : Nat → Nat) : List (Nat × Nat) :=
  if l.xc then [0, 32768].flatMap fun o => (o, l.index) :: ((List.range l.tiles).map fun k =>
    let g := bitsOf (entry (o + 32 + 4 * k)) 25 18
    (o + l.index + 4096 * k, 32 * (if g < 128 then g else 128))).filter fun r => decide (r.2 ≠ 0)
  else [(0, l.used)]
/-- A page read through the vault controllers: parts by byte offset and offsets of poisoned die-sectors; nothing of a page in a
group that accepts no request (R410). (log 71, DEDUCED) -/
def State.pageGet (s : State) (p pg : Nat) (l : KvLay) : State × List (Nat × List Byte) × List Nat :=
  let a := pg * 65536
  if !s.partOn p a 65536 then (s, [], []) else
  let rs := l.parts fun o => leNat (s.partRd p (a + o) 4)
  let s1 := rs.foldl (fun (s : State) r => s.partTouch p (a + r.1) r.2) s
  (s1, rs.map fun r => (r.1, s1.partRd p (a + r.1) r.2), rs.flatMap fun r => (s1.partPoison p (a + r.1) r.2).map (· - a))
def State.pagePut (s : State) (p pg : Nat) (parts : List (Nat × List Byte)) (ps : List Nat) : State :=
  let a := pg * 65536
  let s1 := parts.foldl (fun (s : State) x => s.structWr (finPart p) (a + x.1) x.2) s
  if ps.isEmpty || !s.partOn p a 65536 then s1 else s1.partPoisonSet p (ps.map (a + ·))
/-- A coded page with every tile RAW, as a page that fills holds it (R258): an expanded tile, poisoned as a whole where what codes
it is poisoned (R243); a tile that fails the checks of R242 as it is stored. -/
def rawPage (l : KvLay) (rd : Rd) (a : Nat) : List (Nat × List Byte) × List Nat :=
  let at_ : Nat → Nat → Nat := fun o k => o + l.index + 4096 * k
  let tile : Nat → Nat → Except (BitVec 16) (List Byte) := fun o k => kvTile rd (a + o) l.tiles (2048 * l.tiles) k
  let all := [0, 32768].flatMap fun o => (List.range l.tiles).map fun k => (o, k)
  ([0, 32768].map (fun o => (o, l.rawHead)) ++ all.map fun x => (at_ x.1 x.2, match tile x.1 x.2 with
      | .ok d => d
      | .error _ => padTo 4096 0 (rd.bytes (a + at_ x.1 x.2) (kvSlotBytes (rd.nat (a + x.1 + 32 + 4 * x.2) 4) (2048 * l.tiles) x.2))),
   all.flatMap fun x => match tile x.1 x.2 with
      | .ok _ => []
      | .error st => if st = stPoisonConsumed then (List.range 128).map fun i => at_ x.1 x.2 + 32 * i else [])
/-- Copies a page; a sealed one becomes RAW, for the sequence goes on to fill it (R258, R267). (log 71, DEDUCED) -/
def State.copyPage (s : State) (p : Nat) (l : KvLay) (isSealed : Bool) (src dst : Nat) : State :=
  let y := s.pageGet p src l
  if y.2.1.isEmpty then y.1
  else if isSealed then (let r := rawPage l (dramRd y.1 p) (src * 65536); y.1.pagePut p dst r.1 r.2)
  else y.1.pagePut p dst y.2.1 y.2.2

/-! ### Swapping (R274 to R276) -/

/-- Groups that only this sequence references. -/
def Part.exclusive (P : Part) (q : KvSeq) : List Nat := q.groups.filter fun g => decide (g ≠ swappedGroup) && decide ((P.group g).refs = 1)
/-- Pages that a victim frees. -/
def Part.wouldFree (P : Part) (q : KvSeq) : Nat := ((P.exclusive q ++ q.ahead).map fun g => (P.group g).pages.length).foldl (· + ·) 0
/-- The lowest swap slots that no sequence uses. (log 43, DESIGN CHOICE) -/
def Part.freeSlots (P : Part) (n : Nat) : List Nat :=
  let used := P.kvSeqs.flatMap (·.slots)
  ((List.range (used.length + n)).filter fun i => !used.contains i && decide (i < P.kvSlots.toNat)).take n
/-- A partition with a protected extent. -/
def Part.hasProt (P : Part) : Bool := P.extents.any fun e => bitOf e.2.toNat 63 && bitOf e.2.toNat 62
/-- Ciphertext of a page for a slot, and the tag of a ciphertext, under the swap key (R274, R354). -/
def Part.swapCode (P : Part) (slot ctr : Nat) (page : List (Nat × List Byte)) : List Byte :=
  match P.keys with | some k => Config.swapSeal k.swap slot ctr (page.flatMap (·.2)) | none => page.flatMap (·.2)
def Part.swapTagOf (P : Part) (slot ctr : Nat) (code : List Byte) : BitVec 128 :=
  match P.keys with | some k => Config.swapTag k.swap slot ctr code | none => 0
/-- Host address of a swap slot. -/
def Part.slotAddr (P : Part) (i : Nat) : Nat := P.kvSwap.toNat / 65536 * 65536 + i * 65536
/-- Ends a victim with KV_EVICTED: its exclusive pages are freed whatever the tree names (R275). -/
def State.evictSeq (s : State) (p : Nat) (sid : BitVec 32) : State :=
  let s0 : State := s.modPt p fun P => match P.seqOf sid with
    | some q => (P.exclusive q).foldl (fun P g => P.dropNodes g) P
    | none => P
  ((((s0.endSeq p sid).syncTree p).modPt p fun P => { P with kvEvicted := satAdd P.kvEvicted 1 }).trace .evict (BitVec.ofNat 8 p)).event p stKvEvicted 0xFF sid
/-- Takes a victim out of its batch: its pages go to the swap area, each sealed under the partition's swap key and a counter of its
own where the partition has protected extents, and its groups leave the tree; or it is evicted. A sequence whose pages are lent
stays (R331). (log 43, DESIGN CHOICE; log 71, DEDUCED) -/
def State.preempt (s : State) (p : Nat) (sid : BitVec 32) : State :=
  match (s.pt p).seqOf sid with
  | none => s.modPt p fun P => { P with kvVictims := P.kvVictims.filter fun x => decide (x ≠ sid) }
  | some q =>
    if q.lent ≠ 0 then s else
    let s0 := (s.modPt p fun P => { P with kvPreempts := satAdd P.kvPreempts 1, kvVictims := P.kvVictims.filter fun x => decide (x ≠ sid) }).trace
      .preempt (BitVec.ofNat 8 p)
    let P := s0.pt p
    let ex := P.exclusive q
    let pgs := ex.flatMap fun g => (P.group g).pages
    let slots := P.freeSlots pgs.length
    match kvLayout q.layout with
    | none => s0.evictSeq p sid
    | some l =>
      if !P.kvSwapOn || decide (P.kvSlots = 0) || decide (slots.length < pgs.length) then s0.evictSeq p sid
      else
        let got := pgs.foldl (fun (acc : State × List (List (Nat × List Byte) × List Nat)) pg =>
          let y := acc.1.pageGet p pg l
          (y.1, acc.2 ++ [y.2])) (s0, [])
        let pages := got.2.map (·.1)
        let code : Nat → List Byte := fun i => P.swapCode (nth 0 slots i) (P.kvSwapCtr + i) (nth [] pages i)
        let s1 := (List.range pgs.length).foldl (fun (s : State) i =>
          if P.hasProt then s.hostWr p (P.slotAddr (nth 0 slots i)) (code i)
          else (nth [] pages i).foldl (fun (s : State) x => s.hostWr p (P.slotAddr (nth 0 slots i) + x.1) x.2) s) got.1
        let tags := if P.hasProt then (List.range pgs.length).map fun i => P.swapTagOf (nth 0 slots i) (P.kvSwapCtr + i) (code i) else []
        let s2 := q.ahead.foldl (fun s g => s.unref p g) s1
        let s3 := s2.modPt p fun P => { ex.foldl (fun P g => (P.dropNodes g).setGroup g { P.group g with pages := [], refs := 0, sealed := [] }) P with
          kvSwapCtr := P.kvSwapCtr + pgs.length }
        let s4 := (s3.syncTree p).modSeq p sid fun q => { q with
          st := .swapped, ahead := [], slots := slots, out := pgs, plain := if P.hasProt then pages else [], ctr := P.kvSwapCtr, tags := tags
          pois := got.2.map (·.2)
          seals := ex.map fun g => (P.group g).sealed
          groups := q.groups.map fun g => if ex.contains g then swappedGroup else g }
        ((if q.st = .resident then s4.syncBatch p q.batch else s4)).trace .swapOut (BitVec.ofNat 8 p)
/-- One page of a victim has reached the swap area and joins the free list; a write on the link when the host is lost completes
(R377). -/
def swapWriteDone (p : Nat) (sid : BitVec 32) (s : State) : State :=
  if !s.live then s else
  match (s.pt p).seqOf sid with
  | none => s
  | some q => if q.st ≠ .swapped then s else match q.out with
    | [] => s
    | pg :: rest => (s.modSeq p sid fun q => { q with out := rest }).freePages p [pg]
def execSwapWriteDone (p : Fin 64) (sid : BitVec 32) (s : State) : Host.Outcome State Fault Refusal := .next (swapWriteDone p.val sid s)

/-- Higher priority first; within one priority, earliest admitted first. -/
def seqBefore (a b : KvSeq) : Bool := decide (b.prio < a.prio) || (decide (a.prio = b.prio) && decide (a.order < b.order))
/-- Watermarks: HIGH below LOW acts as LOW. -/
def Part.marks (P : Part) : Nat × Nat := (P.kvLow.toNat, if P.kvHigh.toNat < P.kvLow.toNat then P.kvLow.toNat else P.kvHigh.toNat)
/-- Begins the resume of the first SWAPPED sequence that HIGH leaves room for, one at a time (R276). -/
def State.swapIn (s : State) (p : Nat) : State :=
  let P := s.pt p
  if s.hostHeld p || P.kvSeqs.any fun q => decide (q.st = .resuming) then s else
  let cand := (P.kvSeqs.filter fun q => decide (q.st = .swapped) && q.out.isEmpty).foldl (fun (o : Option KvSeq) q => match o with
    | none => some q
    | some x => if seqBefore q x then some q else some x) none
  match cand with
  | none => s
  | some q =>
    let n := q.slots.length
    let gs := (q.groups.filter (· = swappedGroup)).length
    if P.kvFree.length < P.marks.2 + n then s
    else match P.takeGroups s.groupOn (if gs = 0 then 0 else n / gs) gs with
      | none => s
      | some (fresh, Q) =>
        let put := q.groups.foldl (fun (acc : List Nat × List Nat) g =>
          if g = swappedGroup then (acc.1 ++ acc.2.take 1, acc.2.drop 1) else (acc.1 ++ [g], acc.2)) ([], fresh)
        ((s.setAlloc p Q).modSeq p q.sid fun q => { q with st := .resuming, groups := put.1, ahead := [] }).modSeq p q.sid fun q => { q with out := fresh }
/-- A sequence that waits joins its batch, if the batch has room (Table 12.3) and no plan holds its pages (R328). (log 43, DESIGN CHOICE) -/
def State.joinBatch (s : State) (p : Nat) (sid : BitVec 32) : State :=
  match (s.pt p).seqOf sid with
  | none => s
  | some q =>
    let qs := (s.pt p).inBatch q.batch
    if q.st ≠ .admitted ∨ q.batch = noBatch ∨ q.lent ≠ 0 ∨ 256 ≤ qs.length ∨ (qs.any fun x => decide (x.layout ≠ q.layout)) then s
    else (s.modPt p fun P => { P with
        kvSeqs := (P.kvSeqs.filter fun x => decide (x.sid ≠ sid)) ++ [{ q with st := .resident }] }).syncBatch p q.batch
/-- The least recently used valid node whose group has no references. (log 43, DESIGN CHOICE) -/
def Part.lruCached (P : Part) : Option Nat :=
  (P.kvNodes.foldl (fun (o : Option (Nat × Word)) x =>
    if !x.valid || decide ((P.group x.group).refs ≠ 0) || decide (x.tag ≠ (P.group x.group).tag) then o
    else match o with
      | none => some (x.group, x.used)
      | some (_, u) => if x.used.toNat < u.toNat then some (x.group, x.used) else o) none).map (·.1)
/-- Frees cached groups until the free list reaches a size. (log 43, DESIGN CHOICE) -/
def reclaim (p goal : Nat) : Nat → State → State
  | 0, s => s
  | n + 1, s =>
    if goal ≤ (s.pt p).kvFree.length then s
    else match (s.pt p).lruCached with
      | none => s
      | some g => reclaim p goal n ((s.modPt p fun P => P.dropNodes g).freeGroup p g)
def State.reclaimTo (s : State) (p goal : Nat) : State := (reclaim p goal (s.pt p).kvNodes.length s).syncTree p
/-- A sequence leaves its batch until its next boundary. -/
def State.leaveBatch (s : State) (p : Nat) (sid : BitVec 32) : State :=
  match (s.pt p).seqOf sid with
  | none => s
  | some q => if q.st ≠ .resident then s else (s.modSeq p sid fun q => { q with st := .admitted }).syncBatch p q.batch
/-- Copies A[0] when other sequences share it (R271), and makes coded pages RAW that the sequence goes on to fill (R258). Without
pages for the copy the sequence becomes a victim; while the host is lost, when nothing is swapped (R277), and while a plan reads its
pages (R331), it leaves its batch until a boundary finds pages. (log 71, DEDUCED) -/
def State.copyShared (s : State) (p : Nat) (sid : BitVec 32) : State :=
  match (s.pt p).seqOf sid with
  | none => s
  | some q => match kvLayout q.layout, q.groups.getLast? with
    | some l, some g =>
      let x := (s.pt p).group g
      let n := x.pages.length
      let last := q.groups.length - 1
      if q.st ≠ .resident ∨ q.cursor % l.p = 0 ∨ (x.refs ≤ 1 ∧ x.sealed = []) then s
      else if x.refs ≤ 1 then
        if q.lent ≠ 0 then s.leaveBatch p sid else
        let s1 := (List.range n).foldl (fun (s : State) i =>
          if x.sealed.contains i then s.copyPage p l true (nth 0 x.pages i) (nth 0 x.pages i) else s) s
        let v := s1.batchSee p q.batch
        (v.1.modPt p fun P => P.setGroup g { P.group g with sealed := [] }).writeStream p q v.2.layers last (last + 1)
      else
        let s1 := if (s.pt p).kvFree.length < n then s.reclaimTo p n else s
        match (s1.pt p).takeGroup s1.groupOn n with
        | none => if s1.hostHeld p || decide (q.lent ≠ 0) then s1.leaveBatch p sid else s1.preempt p sid
        | some (f, Q) =>
          let s2 := s1.setAlloc p Q
          let y := Q.group f
          let s3 := (List.range n).foldl (fun (s : State) i =>
            s.copyPage p l (x.sealed.contains i) (nth 0 x.pages i) (nth 0 y.pages i)) s2
          let q1 := { q with groups := q.groups.dropLast ++ [f] }
          let s4 := ((s3.modSeq p sid fun _ => q1).modPt p fun P => { P with kvCopies := satAdd P.kvCopies 1 }).unref p g
          let v := s4.batchSee p q.batch
          (v.1.writeStream p q1 v.2.layers last (last + 1)).trace .copyOnWrite (BitVec.ofNat 8 p)
    | _, _ => s
/-- The tags of what lies in the slots equal those that stayed on the device (R274). -/
def State.tagsHold (s : State) (p : Nat) (q : KvSeq) : Bool :=
  let P := s.pt p
  (List.range q.tags.length).all fun i =>
    let n := ((nth [] q.plain i).map fun x => x.2.length).foldl (· + ·) 0
    decide (P.swapTagOf (nth 0 q.slots i) (q.ctr + i) (s.hostRd (P.slotAddr (nth 0 q.slots i)) n) = nth 0 q.tags i)
/-- The pages of a resuming sequence are back, read by requests of the partition's function (R364), also when the host has been lost
since (R377): the check of a protected partition's tags, then the fresh groups are filled, and the copy that R271 left for the
resume is made where no boundary makes it. -/
def swapReadDone (p : Nat) (sid : BitVec 32) (tagOk : Bool) (s0 : State) : State :=
  if !s0.live then s0 else
  match (s0.pt p).seqOf sid with
  | none => s0
  | some q =>
    if q.st ≠ .resuming then s0
    else
    let s := q.slots.foldl (fun (s : State) i => s.hostAsk p false ((s.pt p).slotAddr i) 65536) s0
    if !q.plain.isEmpty && (!tagOk || !s.tagsHold p q) then
      ((s.modSeq p sid fun q => { q with out := [] }).endSeq p sid).event p stKvSwapCheck 0xFF sid
    else
      let P := s.pt p
      match kvLayout q.layout with
      | none => s
      | some l =>
        let pgs := q.out.flatMap fun g => (P.group g).pages
        let s1 := (List.range pgs.length).foldl (fun (s : State) i =>
          let a := P.slotAddr (nth 0 q.slots i)
          s.pagePut p (nth 0 pgs i)
            (if q.plain.isEmpty then (l.parts fun o => leNat (s.hostRd (a + o) 4)).map fun r => (r.1, s.hostRd (a + r.1) r.2)
              else nth [] q.plain i)
            (nth [] q.pois i)) s
        let s2 := s1.modPt p fun P => (List.range q.out.length).foldl (fun P i =>
          let g := nth 0 q.out i
          P.setGroup g { P.group g with sealed := nth [] q.seals i }) P
        let q1 := { q with st := .admitted, out := [], slots := [], plain := [], tags := [], pois := [], seals := [] }
        let v := s2.batchSee p q.batch
        let s3 := ((v.1.modSeq p sid fun _ => q1).buildStream p q1 v.2.layers).trace .swapIn (BitVec.ofNat 8 p)
        if s3.batchServed p q.batch then s3 else (s3.joinBatch p sid).copyShared p sid
def execSwapReadDone (p : Fin 64) (sid : BitVec 32) (tagOk : Bool) (s : State) : Host.Outcome State Fault Refusal :=
  .next (swapReadDone p.val sid tagOk s)

/-! ### Prefetch and pressure (R260, R272, R273) -/

/-- Prefetched groups that a sequence should hold beyond those with positions. -/
def aheadWant (q : KvSeq) (pp look : Nat) : Nat := look + (if q.cursor % pp = 0 then 1 else 0)
def fillFuel (on : Nat → Bool) (layers want : Nat) : Nat → Part → List Nat → Part × List Nat
  | 0, P, ah => (P, ah)
  | n + 1, P, ah =>
    if want ≤ ah.length then (P, ah)
    else match P.takeGroup on layers with
      | none => (P, ah)
      | some (g, Q) => fillFuel on layers want n Q (ah ++ [g])
/-- Fills the prefetch entries of one sequence from the free list. -/
def State.refillSeq (s : State) (p : Nat) (sid : BitVec 32) : State :=
  match (s.pt p).seqOf sid with
  | none => s
  | some q => match kvLayout q.layout with
    | none => s
    | some l =>
      if q.st ≠ .resident then s else
      let v := s.batchSee p q.batch
      let s := v.1
      let layers := v.2.layers
      let want := aheadWant q l.p v.2.look
      if layers = 0 ∨ want ≤ q.ahead.length then s
      else
        let r := fillFuel s.groupOn layers want 17 (s.pt p) q.ahead
        if r.2 = q.ahead then s
        else (((s.setAlloc p r.1).modSeq p sid fun q => { q with ahead := r.2 }).syncBatch p q.batch).trace .prefetch (BitVec.ofNat 8 p)
def State.refill (s : State) (p : Nat) : State := ((s.pt p).kvSeqs.map (·.sid)).foldl (fun s sid => s.refillSeq p sid) s

/-- Marks victims, lowest priority and latest admission first, until F and what they free, with the pages of earlier victims whose
writes are in flight, reach HIGH. -/
def markVictims (goal : Nat) : Nat → Part → Part
  | 0, P => P
  | n + 1, P =>
    let gain := (P.kvVictims.map fun v => match P.seqOf v with | some q => P.wouldFree q | none => 0).foldl (· + ·) 0
      + (P.kvSeqs.map fun q => if q.st = .swapped then q.out.length else 0).foldl (· + ·) 0
    if goal ≤ P.kvFree.length + gain then P
    else
      let cand := (P.kvSeqs.filter fun q => (decide (q.st = .resident) || decide (q.st = .admitted)) && q.lent == 0 && !P.kvVictims.contains q.sid
          && decide (0 < P.wouldFree q)).foldl (fun (o : Option KvSeq) q => match o with
        | none => some q
        | some x => if seqBefore x q then some q else some x) none
      match cand with
      | none => P
      | some q => markVictims goal n { P with kvVictims := P.kvVictims ++ [q.sid] }
/-- The watermark check of a pass (R272, R273, R276, R277): a victim that no task serves goes at once. (log 43, DESIGN CHOICE) -/
def State.pressure (s : State) (p : Nat) : State :=
  let m := (s.pt p).marks
  let s1 := if (s.pt p).kvFree.length < m.1 then s.reclaimTo p m.2 else s
  if s1.hostHeld p then s1 else
  let s2 := if (s1.pt p).kvFree.length < m.1 then s1.modPt p fun P => markVictims m.2 P.kvSeqs.length P else s1
  let s3 := (s2.pt p).kvVictims.foldl (fun s v => match (s.pt p).seqOf v with
    | some q => if q.st = .resident && s.batchServed p q.batch then s else s.preempt p v
    | none => s) s2
  s3.swapIn p

/-! ### Seals (R258) -/

/-- Codes one region of a page, tile by tile: the coded bytes and the index entry; a tile that holds poison stays RAW (R243).
Tiles that are RAW count in RAW_TILES of the cluster whose encoder codes them (R235). (log 71, DEDUCED) -/
def State.sealRegion (s : State) (p : Nat) (l : KvLay) (enc : Option Nat) (base : Nat) : State :=
  let at_ : Nat → Nat := fun k => base + l.index + 4096 * k
  let count : Bool → State → State := fun raw s => match enc with
    | some c => if raw then s.modCl c fun x => { x with rawTiles := satAdd x.rawTiles 1 } else s
    | none => s
  (List.range l.tiles).foldl (fun (s0 : State) k =>
    let s := s0.partTouch p (at_ k) 4096
    if s.partPoison p (at_ k) 4096 ≠ [] then count true s else
    let t := xcEncode 0x30 none false (s.partRd p (at_ k) 4096)
    count t.raw ((s.structWr (finPart p) (at_ k) t.bytes).structWr (finPart p) (base + 32 + 4 * k) (leBytes 4 t.entry))) s
/-- Seals a full page of a layer, by a cluster's encoder or for a re-shard, and marks its descriptor. -/
def State.sealPage (s : State) (p : Nat) (sid : BitVec 32) (layer gi : Nat) (enc : Option Nat) : State :=
  match (s.pt p).seqOf sid with
  | none => s
  | some q => match kvLayout q.layout with
    | none => s
    | some l =>
      let g := nth 0 q.groups gi
      let x := (s.pt p).group g
      let a := nth 0 x.pages layer * 65536
      if x.sealed.contains layer || (s.pt p).prot a || decide (q.groups.length ≤ gi) || !l.xc then s
      else
        let s1 := (s.sealRegion p l enc a).sealRegion p l enc (a + 32768)
        let s2 := s1.modPt p fun P => P.setGroup g { P.group g with sealed := (P.group g).sealed ++ [layer] }
        s2.structWr (finPart p) (q.stream.toNat + 16 * (layer * q.gmax + gi)) (descBytes (nth 0 x.pages layer) (gi * l.p) x.tag true)

/-! ### A task's boundary (R18, R261, R271) -/

/-- T values that the phase's KVAPPs gave for a sequence. -/
def Part.appended (P : Part) (h : Word) (sid : BitVec 32) : List Nat :=
  (P.kvAppends.filter fun a => decide (a.batch = h) && decide (a.sid = sid)).map (·.t)
/-- A sequence of the batches whose KVAPPs name different T. -/
def State.appendsDiffer (s : State) (p : Nat) (hs : List Word) : Bool :=
  hs.any fun h => ((s.pt p).inBatch h).any fun q => match (s.pt p).appended h q.sid with
    | t :: ts => ts.any fun u => decide (u ≠ t)
    | [] => false
/-- Advances one cursor: groups that now hold positions enter the stream, prompt groups get their nodes. -/
def State.advanceSeq (s : State) (p : Nat) (h : Word) (sid : BitVec 32) : State :=
  match (s.pt p).seqOf sid, (s.pt p).appended h sid with
  | some q, t :: _ => match kvLayout q.layout with
    | none => s
    | some l =>
      let c := q.cursor + t
      let need := ceilDiv c l.p - q.groups.length
      let q1 := { q with cursor := c, groups := q.groups ++ q.ahead.take need, ahead := q.ahead.drop need }
      let v := s.batchSee p h
      ((v.1.modSeq p sid fun _ => q1).growStream p q1 v.2.layers q.groups.length).promptNodes p q1 l.p q.cursor
  | _, _ => s
/-- Everything that Nightwatch does at a boundary for the batches of a task, whether another task that runs names them or not. (log
70, DEDUCED) -/
def State.kvBoundary (s : State) (p : Nat) (hs : List Word) : State :=
  let sids : State → List (BitVec 32) := fun s => (s.pt p).kvSeqs.filterMap fun q => if hs.contains q.batch then some q.sid else none
  -- seals run on the groups as the phase left them, after the cursors have moved
  let s1 := hs.foldl (fun s h => (((s.pt p).inBatch h).map (·.sid)).foldl (fun s sid => s.advanceSeq p h sid) s) s
  -- a page that a plan reads is sealed once it is back (R331)
  let mine : Word × Nat × Nat × Nat → Bool := fun x => (sids s1).contains (x.1.setWidth 32) &&
    (match (s1.pt p).seqOf (x.1.setWidth 32) with | some q => decide (q.lent = 0) | none => true)
  let s2 := ((s1.pt p).kvSeals.filter mine).foldl (fun s x => s.sealPage p (x.1.setWidth 32) x.2.1 x.2.2.1 (some x.2.2.2)) s1
  let s3 := s2.modPt p fun P => { P with
    kvSeals := P.kvSeals.filter fun x => !mine x
    kvAppends := P.kvAppends.filter fun a => !hs.contains a.batch }
  -- sequences that an entry or memory pressure takes out
  let s4 := (sids s3).foldl (fun s sid => match (s.pt p).seqOf sid with
    | some q => match q.endReq with
      | some e => (s.endSeq p sid).completeWork e 0 0
      | none => if (s.pt p).kvVictims.contains sid && !s.hostHeld p then s.preempt p sid else s
    | none => s) s3
  let s5 := (sids s4).foldl (fun s sid => s.joinBatch p sid) s4
  let s6 := (sids s5).foldl (fun s sid => s.copyShared p sid) s5
  let s7 := (sids s6).foldl (fun s sid => s.refillSeq p sid) s6
  (hs.foldl (fun s h => s.syncBatch p h) s7).syncTree p
/-- No task serves some batches any longer: what waited for their boundary happens at once. -/
def State.kvUnserved (s : State) (p : Nat) : State :=
  let hs := (s.pt p).batches.filter fun h => !s.batchServed p h
  if hs.isEmpty then s else s.kvBoundary p hs

/-! ### Admission (R270, R369) and SEQ_END -/

/-- Tokens of a prompt. -/
def promptToks (bs : List Byte) : List (BitVec 32) := (chunksOf 4 bs).map fun c => BitVec.ofNat 32 (leNat c)
/-- Admits a sequence; RESULT is the number of positions matched. -/
def State.admitSeq (s : State) (p : Nat) (sid : BitVec 32) (prio : Nat) (lay : BitVec 32) (l : KvLay) (h : Word) (toks : List (BitVec 32)) :
    State × Nat :=
  let P := s.pt p
  let m := if P.kvShare then matchFrom s.tick (chunksOf l.p toks) 0xFFFFFFFF 0 P.sweep else (P, [], 0)
  let need := ceilDiv toks.length l.p + 1
  let g := gmaxFor 16 (Config.firstGmax.toNat + 1) need
  let q : KvSeq :=
    { sid := sid, prio := prio, layout := lay, batch := h, prompt := if P.kvShare then toks else [], cursor := m.2.2, groups := m.2.1, ahead := []
      gmax := g, stream := (Config.streamBase p P.kvOrder g).setWidth 64, st := .admitted, order := P.kvOrder, slots := [], out := []
      plain := [], ctr := 0, tags := [], pois := [], seals := [], lent := 0, endReq := none }
  let s1 := s.setPt p { m.1 with kvOrder := m.1.kvOrder + 1, kvSeqs := m.1.kvSeqs ++ [q] }
  let v := s1.batchSee p h
  let s2 := (v.1.buildStream p q v.2.layers).syncTree p
  let s3 := if m.2.2 = 0 then s2 else s2.trace .prefixMatch (BitVec.ofNat 8 p)
  (if s3.batchServed p h then s3 else (s3.joinBatch p sid).copyShared p sid, m.2.2)

end Sys2Proof.Machine
end

