-- ==== Sys2Proof/Machine/Lifecycle.lean ====
section
/-! DEFINITION. The life of a task: its start state (R118, R127, R128), parking (R141, R376, R396, R405), the STEP it serves (R369,
R371) and its end (R50, R129, R146, R465). -/

namespace Sys2Proof.Machine

/-! ### Start (R118, R128) -/

/-- Segments of a cluster that are ON and owned by its partition. (log 27, DESIGN CHOICE) -/
def Cluster.usable (x : Cluster) : List Nat := (List.range 4).filter fun i => x.segmask.getLsbD i && x.segOn.getLsbD i
/-- The line after the run of usable segments that segment i begins. -/
def runEnd (on : List Nat) : Nat → Nat → Nat
  | 0, i => 6144 * i
  | n + 1, i => if on.contains i then runEnd on n (i + 1) else 6144 * i
/-- A window that Nightwatch places: which segments, how long and whether valid is its choice; it lies inside ON segments of the
partition. (log 27, DESIGN CHOICE) -/
def placeWindow (x : Cluster) (v : Word) : Word :=
  let on := x.usable
  if on = [] then 0 else
  let sg := nth 0 on (bitsOf v.toNat 7 0 % on.length)
  let base := 6144 * sg + bitsOf v.toNat 31 8 % 6144
  let bound := bitsOf v.toNat 62 32 % (runEnd on 4 sg - base + 1)
  BitVec.ofNat 64 (bool2 (bitOf v.toNat 63) * 2 ^ 63 + bound * 2 ^ 16 + base)

/-- Register contents of Table 7.1. -/
def startRegs (rank n : Nat) (args : Word) : Map Word :=
  mset 0 (mset 0 (mset 0 [] 1 (BitVec.ofNat 64 rank)) 2 (BitVec.ofNat 64 n)) 3 args
/-- Loads the start state of one cluster of a task and starts its sequencer. (log 27, DESIGN CHOICE) -/
def State.startCluster (s : State) (T : Task) (prog : List Word) (rank c : Nat) : State :=
  let s1 := s.modCl c fun x => { x with
    task := some T.id
    win := (List.range 4).foldl (fun m i => mset 0 m i (placeWindow x (s.freeAt i))) x.win
    coll := CollEng.reset
    seq := { Seq.reset with run := .running, pc := T.start, prog := prog, s := startRegs rank T.clusters.length T.args } }
  s1.bump 4
/-- Starts every sequencer of a task. -/
def State.startAll (s : State) (T : Task) (prog : List Word) : State :=
  ((List.range T.clusters.length).foldl (fun s i => s.startCluster T prog i (nth 0 T.clusters i)) s).modTask T.id fun t =>
    { t with st := .running }

/-- The program as words (R127, R131). -/
def progWords (bs : List Byte) : List Word := (chunksOf 8 bs).map fun c => BitVec.ofNat 64 (leNat c)
/-- Reads the program and the phase map that a task names. (log 68, DEDUCED) -/
def State.loadProg (s : State) (p : Fin 64) (prog len phases : Nat) : Except (BitVec 16) (List Word × BitVec 256) × State :=
  if 8192 < len then (.error stProgramSize, s) else
  match s.structRd p prog (8 * len) with
  | (.error e, s1) => (.error e, s1)
  | (.ok bs, s1) =>
    if phases = 0 then (.ok (progWords bs, ~~~0), s1) else
    match s1.structRd p phases 32 with
    | (.error e, s2) => (.error e, s2)
    | (.ok ps, s2) => (.ok (progWords bs, BitVec.ofNat 256 (leNat ps)), s2)

/-! ### Parking and release -/

/-- Reasons for which every running task of a partition is parked at its next boundary: QUIESCED (R405), DETACH (R376), an
activation (R396), a guard record (R347). -/
def State.parkNow (s : State) (p : Nat) : Bool :=
  s.pwr.quiescing || decide (s.pwr.dev ≠ 0) || s.hif.detachReq || (s.pt p).detachReq
    || (match s.fw.act with | some a => decide (a.st = .parking) || decide (a.st = .switching) | none => false)
    || (match s.grd.job with | some g => decide (g.step ≠ .writing) && g.affected.contains p | none => false)
/-- The same, and a detached partition, whose parked tasks wait for ATTACH; a task that missed PARK_MS runs on as in HOST_LOST. -/
def State.parkAll (s : State) (p : Nat) : Bool := s.parkNow p || s.hif.detached || (s.pt p).detached
/-- A task parks at its boundary also on TPARK, and in STEPPED mode until a STEP is queued (R369). -/
def State.mustPark (s : State) (T : Task) : Bool :=
  s.parkNow T.id.part.val || T.parkReq || (T.stepped && T.steps.isEmpty)
/-- A parked task stays parked. -/
def State.staysParked (s : State) (T : Task) : Bool := s.mustPark T || s.parkAll T.id.part.val
/-- Nightwatch is at work: booted, and not in the middle of a firmware switch (R397). (log 51, DEDUCED) -/
def State.nightwatch (s : State) : Bool := s.served && !s.switching
/-- A host command for Nightwatch: during a firmware switch it waits for its end. (log 51, DEDUCED) -/
def State.orWait (s : State) (c : NwCmd) (f : State → State) : State :=
  if s.served && s.switching then s.setFw { s.fw with waiting := s.fw.waiting ++ [c] } else f s
/-- Every cluster of a task is in RUN (R408). -/
def State.allRun (s : State) (T : Task) : Bool := T.clusters.all fun c => decide ((s.cl c).cstate = .run)

/-- The task takes its next STEP: the previous one completes with the work of its interval, and ARG goes to the argument area. (log 35, DEDUCED) -/
def State.takeStep (s : State) (T : Task) : State :=
  match T.steps with
  | [] => s
  | (e, irq, arg) :: rest =>
    let s1 := match T.step with
      | some (old, oirq) =>
        let w := match T.stepDone with | some w => w | none => (T.escStep, T.energyStep)
        s.complete old oirq 0 (BitVec.ofNat 16 (cap16 w.1)) w.2 0
      | none => s
    let s2 := s1.structWr T.id.part T.args.toNat arg
    (s2.modTask T.id fun t => { t with step := some (e, irq), steps := rest, escStep := 0, energyStep := 0, stepDone := none }).trace
      .stepTaken (BitVec.ofNat 8 T.id.part.val)
/-- Releases a task at its boundary, with the budget of the new phase granted first (R415). -/
def State.releaseTask (s : State) (T : Task) : State :=
  let s1 := s.takeStep T
  let s2 := s1.modTask T.id fun t => { t with st := .running }
  let s3 := if T.st = .parked then s2.trace .taskResume (BitVec.ofNat 8 T.id.part.val) else s2
  resumeAll (s3.applyLimits fun t => decide (t.id = T.id)) T.clusters
/-- Releases every parked task that nothing keeps parked any longer. -/
def State.unpark (s : State) : State :=
  s.tasks.foldl (fun s t => match s.findTask t.id with
    | some T => if T.st = .parked && T.fault.isNone && !s.staysParked T && s.allRun T && s.nightwatch then s.releaseTask T else s
    | none => s) s
/-- Everything that runs has parked: no task of the partitions in question is running. -/
def State.allParked (s : State) (f : Nat → Bool) : Bool := s.tasks.all fun t => !f t.id.part.val || decide (t.st ≠ .running)

/-! ### End (R129, R146) -/

/-- The mirror of the owner of each entry that a task frees becomes 0 (R80, Table 4.4). -/
def State.freeOwners (s : State) (t : TaskId) : State :=
  ((s.pt t.part.val).rangeOwner.filter fun kv => decide (kv.2 = t.hnd)).foldl (fun (s : State) kv =>
    match (s.pt t.part.val).rangeEntry kv.1 with
    | some a => s.structWr t.part (a + 8) (leBytes 8 0)
    | none => s) s
/-- Revokes windows, stream claims and range-table entries of a task that has ended. -/
def State.dropHolds (s : State) (t : TaskId) (cs : List Nat) : State :=
  let s0 := s.freeOwners t
  let s1 := cs.foldl (fun (s : State) c => s.modCl c fun x => { x with
    win := (List.range 4).foldl (fun m i => mset 0 m i (mget 0 m i &&& 0x7FFFFFFFFFFFFFFF)) x.win }) s0
  s1.modPt t.part.val fun P => { P with
    claims := P.claims.filter fun k => decide (k.task ≠ t)
    rangeInv := P.rangeInv.filter fun kv => decide (mget 0 P.rangeOwner kv.1 ≠ t.hnd)
    rangeOwner := P.rangeOwner.filter fun kv => decide (kv.2 ≠ t.hnd) }
/-- What a cluster forgets when its task ends: queues, held banks, program; the alternation of banks goes on (R49, R50). -/
def State.clearCluster (s : State) (c : Nat) : State :=
  s.modCl c fun x => { x with
    task := none, units := [], seq := Seq.reset, coll := CollEng.reset
    cores := x.cores.map fun kv => (kv.1, { kv.2 with bank0 := Bank.reset, bank1 := Bank.reset, buf := none }) }
/-- Completes the entries of a task that ends: its STEP in progress, the queued ones, and its own. (log 35, DEDUCED) -/
def State.endRecords (s : State) (T : Task) (st : BitVec 16) : State :=
  let w := match T.stepDone with | some w => w | none => (T.escStep, T.energyStep)
  let s1 := match T.step with
    | some (e, irq) => s.complete e irq st (BitVec.ofNat 16 (cap16 w.1)) w.2 0
    | none => s
  let other := if (s.pt T.id.part.val).contained then stPartContained else stTaskUnknown
  let s2 := T.steps.foldl (fun s x => s.complete x.1 x.2.1 other 0 0 0) s1
  s2.complete T.entry T.irq st (BitVec.ofNat 16 (cap16 T.esc)) T.energy 0
/-- The appends of a task that has failed move no cursor, and fill no page (R261). (log 70, DEDUCED) -/
def State.dropAppends (s : State) (T : Task) : State :=
  s.modPt T.id.part.val fun P => { P with
    kvAppends := P.kvAppends.filter fun a => decide (a.task ≠ T.id)
    kvSeals := P.kvSeals.filter fun x => !T.clusters.contains x.2.2.2 }
/-- The phase that ends is measured for the Almanac: mean cluster power in mW and mean limit are measurements. (log 53, DESIGN CHOICE) -/
def State.phaseEnd (s : State) (T : Task) : State :=
  match T.phase with
  | none => s
  | some k => (s.setPwr { s.pwr with phaseEnds := s.pwr.phaseEnds ++
      [(T.id.part.val, k, (s.freeAt 0).toNat % 65536, 1 + (s.freeAt 1).toNat % 256)] }).bump 2
/-- Ends a task with a status; `rec` says that its entries get records. In a contained partition the revocations
wait, its collectives abort with PART_CONTAINED, and its sequences stay as they were (R465). (log 67, DEDUCED) -/
def State.endTask (s : State) (t : TaskId) (st : BitVec 16) (rec : Bool) : State :=
  match s.findTask t with
  | none => s
  | some T =>
    let p := t.part.val
    let s0 := (s.phaseEnd T).rangeFlushAll T
    let s1 := s0.collTaskEnd T.clusters (if (s.pt p).contained then stPartContained else if st = 0 then stTaskAborted else st)
    let s2 := T.clusters.foldl (fun s c => s.clearCluster c) s1
    let s3 := if (s2.pt p).contained then s2.modPt p fun P => { P with heldEnds := P.heldEnds ++ [t] } else s2.dropHolds t T.clusters
    let s4 : State := s3.setTasks (s3.tasks.filter fun x => decide (x.id ≠ t))
    let s5 := if rec then s4.endRecords T st else s4
    (if (s5.pt p).contained then s5 else ((if st = 0 && !s5.appendsDiffer p T.batches then s5 else s5.dropAppends T).kvUnserved p)).trace
      .taskEnd (BitVec.ofNat 8 p)
/-- Ends every task that meets a condition. -/
def State.endTasks (s : State) (f : Task → Bool) (st : BitVec 16) (rec : Bool) : State :=
  (s.tasks.filter f).foldl (fun s T => s.endTask T.id st rec) s

end Sys2Proof.Machine
end

