-- ==== Sys2Proof/Machine/Rings.lean ====
section
/-! DEFINITION. Submission rings and entries (R365 to R372), the scheduling pass (R383), sequence entries (R270, R369). -/

namespace Sys2Proof.Machine

/-! ### Entries (Table 16.4) -/

/-- Bytes that a type does not use; `none` for an unknown type. -/
def entryReserved (typ : Nat) : Option (List (Nat × Nat)) :=
  match typ with
  | 0 => some [(8, 56)]
  | 1 => some [(56, 8)]
  | 2 => some [(48, 16)]
  | 3 => some [(16, 48)]
  | 4 => some [(13, 3), (20, 4), (44, 20)]
  | 5 => some [(12, 52)]
  | _ => none
/-- An entry is well formed: its type is known and its reserved bits and bytes are zero. -/
def entryOk (bs : List Byte) : Bool :=
  let typ := fieldAt bs 4 1
  match entryReserved typ with
  | none => false
  | some rs => decide (fieldAt bs 6 2 = 0) && decide (fieldAt bs 5 1 < (if typ = 1 then 4 else 2)) &&
      rs.all fun r => decide (fieldAt bs r.1 r.2 = 0)
/-- LEN of 0 and a PHASES that is not a multiple of 32 lie outside Table 16.4. (log 29, DEDUCED) -/
def taskFieldsOk (bs : List Byte) : Bool :=
  decide (fieldAt bs 16 2 ≠ 0) && decide (fieldAt bs 48 8 % 32 = 0) && decide (fieldAt bs 8 8 % 8 = 0)
/-- Clusters that a TASK entry takes. -/
def State.taskClusters (s : State) (p : Nat) (bs : List Byte) : List Nat :=
  ((s.owned p).drop (fieldAt bs 20 2)).take (fieldAt bs 22 2)
/-- A cluster that R122, R441 or R466 keeps out of allocation. -/
def State.unallocated (s : State) (c : Nat) : Bool := s.glb.badClusters.contains c || decide ((s.cl c).usable = [])
/-- Range and state checks of a TASK entry (R370, R408). (log 29, DEDUCED) -/
def State.taskCheck (s : State) (p : Nat) (bs : List Byte) : BitVec 16 :=
  let n := fieldAt bs 22 2
  if !taskFieldsOk bs || decide (n = 0) || decide ((s.owned p).length < fieldAt bs 20 2 + n) then stEntryInvalid
  else if (s.taskClusters p bs).any fun c => decide ((s.cl c).cstate ≠ .run) || s.unallocated c then stClusterState
  else 0
/-- Every cluster of the range is free (R370). -/
def State.taskFree (s : State) (p : Nat) (bs : List Byte) : Bool := (s.taskClusters p bs).all fun c => (s.cl c).task.isNone

/-- The entry stands in its ring, as it was fetched. -/
def State.entryFind (s : State) (e : EntryId) : Option Entry := s.entryBytes e
/-- Entries of one ring start in sequence order: everything before this one has started (R368, R370). -/
def State.entryTurn (s : State) (e : EntryId) : Bool :=
  ((((s.pt e.part.val).ring e.ring.val).entries.takeWhile fun x => decide (x.seq ≠ e.seq)).all fun x =>
    decide (x.st = .active) || decide (x.st = .done))
/-- An entry of a type whose turn has come; Nightwatch takes it unless the partition is contained. -/
def State.entryNow (s : State) (e : EntryId) (typ : Nat) (st : EntrySt) : Option (List Byte) :=
  match s.entryFind e with
  | none => none
  | some x => if s.nightwatch && decide (x.st = st) && decide (fieldAt x.bytes 4 1 = typ) && s.entryTurn e then some x.bytes else none
/-- Completes an entry unless containment has completed it already. -/
def State.completeOnce (s : State) (e : EntryId) (st : BitVec 16) : State :=
  match s.entryFind e with
  | some x => if x.st = .done then s else s.completeSt e st
  | none => s

/-! ### Fetching (R365 to R368) -/

/-- What the lead sequencer reads at an address of a ring. -/
def State.ringRd (s : State) (p : Fin 64) (r : Ring) (off n : Nat) : Option (List Byte) × State :=
  if r.loc then
    match s.structRd p (r.base.toNat + off) n with
    | (.ok bs, s1) => (some bs, s1)
    | (.error _, s1) => (none, s1)
  else (some (s.hostRd (r.base.toNat + off) n), s.hostAsk p.val false (r.base.toNat + off) n)
/-- Rings of a partition are fetched now (R16, R360, R376, R377, R396, R465), whatever the state of its lowest-numbered cluster. (log
57, DEDUCED; log 70, DEDUCED) -/
def State.fetches (s : State) (p : Nat) : Bool :=
  let P := s.pt p
  (s.grd.locked || (P.defined && !(s.owned p).isEmpty)) && !P.contained && !s.hostHeld p && !s.hif.detachReq && !P.detachReq
    && !s.hif.d3.contains P.vf.toNat
    && (match s.fw.act with | some a => decide (a.st ≠ .parking) && decide (a.st ≠ .switching) | none => true)
/-- Takes one entry whose SEQ matches; what Table 16.4 rules out completes at once, and everything on a locked device (R342). (log 29, DEDUCED) -/
def State.takeRingEntry (s : State) (e : EntryId) (bs : List Byte) : State :=
  let s1 := s.modPt e.part.val fun P =>
    let r := P.ring e.ring.val
    P.setRing e.ring.val { r with
      fetch := e.seq + 1, badSeq := none, entries := r.entries ++ [{ seq := e.seq, bytes := bs, st := .fetched }] }
  let s2 := s1.trace .ringFetch (BitVec.ofNat 8 e.part.val)
  if s2.grd.locked then s2.completeSt e stGuardLocked
  else if !entryOk bs then s2.completeSt e stEntryInvalid
  else if fieldAt bs 4 1 = 1 then
    let st := s2.taskCheck e.part.val bs
    if st = 0 then s2 else s2.completeSt e st
  else s2
/-- Fetches entries up to TAIL - 1, at most 256 with records still to write. -/
def fetchFuel (p : Fin 64) (n : Fin 4) (tail : BitVec 32) : Nat → State → State
  | 0, s => s
  | k + 1, s =>
    let r := (s.pt p.val).ring n.val
    if !serialBefore r.fetch tail || decide (256 ≤ r.entries.length) || (s.pt p.val).contained then s else
    match s.ringRd p r (64 + 64 * (r.fetch.toNat % 2 ^ r.log2)) 64 with
    | (none, s1) => s1
    | (some bs, s1) =>
      if fieldAt bs 0 4 = r.fetch.toNat then fetchFuel p n tail k (s1.takeRingEntry { part := p, ring := n, seq := r.fetch } bs)
      else s1.modPt p.val fun P => P.setRing n.val { P.ring n.val with badSeq := some r.fetch }
/-- One ring in a pass. -/
def State.fetchRing (s : State) (p : Fin 64) (n : Fin 4) : State :=
  let r := (s.pt p.val).ring n.val
  if !r.en || r.stopped || !s.fetches p.val then s else
  match s.ringRd p r 0 8 with
  | (none, s1) => s1
  | (some h, s1) =>
    let tail := BitVec.ofNat 32 (fieldAt h 0 4)
    let head := BitVec.ofNat 32 (fieldAt h 4 4)
    if 2 ^ r.log2 < (tail - head).toNat then
      (s1.modPt p.val fun P => P.setRing n.val { P.ring n.val with en := false, overrun := true }).event p.val stRingOverrun
        (BitVec.ofNat 8 n.val) 0
    else fetchFuel p n tail 256 s1

/-- 1 ms after its TAIL was seen, an entry still carries another SEQ (R368). (log 59, DEDUCED) -/
def entrySeq (p : Fin 64) (n : Fin 4) (s : State) : State :=
  let r := (s.pt p.val).ring n.val
  match r.badSeq with
  | none => s
  | some q =>
    if !s.nightwatch || !r.en || r.stopped || !s.fetches p.val then s else
    match s.ringRd p r (64 + 64 * (q.toNat % 2 ^ r.log2)) 64 with
    | (none, s1) => s1
    | (some bs, s1) =>
      if fieldAt bs 0 4 = q.toNat then s1 else
      let s2 := s1.modPt p.val fun P => P.setRing n.val
        { P.ring n.val with
          stopped := true, badSeq := none, fetch := q + 1
          entries := (P.ring n.val).entries ++ [{ seq := q, bytes := bs, st := .active }] }
      s2.complete { part := p, ring := n, seq := q } false stEntrySeq 0 0 0
def execEntrySeq (p : Fin 64) (n : Fin 4) (s : State) : Host.Outcome State Fault Refusal := .next (entrySeq p n s)

/-- EN goes from 0 to 1: the fetch point is set from the header (R366). -/
def ringEnableNow (p : Fin 64) (n : Fin 4) (s : State) : State :=
  let r := (s.pt p.val).ring n.val
  if !s.nightwatch || r.en then s else
  let h := s.ringRd p r 0 8
  h.2.modPt p.val fun P =>
    let r := P.ring n.val
    let at_ := match h.1 with
      | some bs =>
        let head := BitVec.ofNat 32 (fieldAt bs 4 4)
        if r.fresh || serialBefore r.fetch head then head else r.fetch
      | none => r.fetch
    P.setRing n.val { r with en := true, fresh := r.fresh && h.1.isNone, stopped := false, badSeq := none, fetch := at_ }
def ringEnable (p : Fin 64) (n : Fin 4) (s : State) : State := s.orWait (.ring p n true) (ringEnableNow p n)
def execRingEnable (p : Fin 64) (n : Fin 4) (s : State) : Host.Outcome State Fault Refusal := .next (ringEnable p n s)
/-- Clearing EN stops fetching; entries already fetched run on. -/
def ringDisableNow (p : Fin 64) (n : Fin 4) (s : State) : State :=
  if !s.nightwatch then s else s.modPt p.val fun P => P.setRing n.val { P.ring n.val with en := false, badSeq := none }
def ringDisable (p : Fin 64) (n : Fin 4) (s : State) : State := s.orWait (.ring p n false) (ringDisableNow p n)
def execRingDisable (p : Fin 64) (n : Fin 4) (s : State) : Host.Outcome State Fault Refusal := .next (ringDisable p n s)

/-! ### The entry types (R369) -/

def nopEntry (e : EntryId) (s : State) : State :=
  match s.entryNow e 0 .fetched with
  | none => s
  | some _ => s.completeSt e 0
def execNopEntry (e : EntryId) (s : State) : Host.Outcome State Fault Refusal := .next (nopEntry e s)

/-- Starts the task of a TASK entry (R62, R80, R81, R86, R127, R128). (log 29, DEDUCED) -/
def State.startTask (s : State) (e : EntryId) (bs : List Byte) : State :=
  let p := e.part
  let hnd : Word := BitVec.ofNat 64 (2 ^ 63 + e.ring.val * 2 ^ 56 + e.seq.toNat)
  let start := fieldAt bs 18 2
  let len := fieldAt bs 16 2
  match s.loadProg p (fieldAt bs 8 8) len (fieldAt bs 48 8) with
  | (.error st, s1) => s1.completeOnce e st
  | (.ok r, s1) =>
    if len ≤ start then s1.completeOnce e stPcRange else
    let T : Task :=
      { id := { part := p, hnd := hnd }, ring := e.ring.val, seq := e.seq, clusters := s1.taskClusters p.val bs
        prog := BitVec.ofNat 64 (fieldAt bs 8 8), len := len, start := start, args := BitVec.ofNat 64 (fieldAt bs 24 8)
        seed := BitVec.ofNat 64 (fieldAt bs 32 8), tag := BitVec.ofNat 64 (fieldAt bs 40 8), phases := r.2
        phasesAt := BitVec.ofNat 64 (fieldAt bs 48 8)
        stepped := bitOf (fieldAt bs 5 1) 1, irq := bitOf (fieldAt bs 5 1) 0, ref := (s1.pt p.val).precRef
        keep := (s1.pt p.val).precKeep, st := .created, parkReq := false, fault := none, phase := none, step := none, steps := []
        esc := 0, escStep := 0, energy := 0, energyStep := 0, stepDone := none, batches := [] }
    let s2 : State := s1.setTasks (s1.tasks ++ [T])
    ((s2.setEntry e .active).startAll T r.1).trace .taskStart (BitVec.ofNat 8 p.val)
/-- A TASK entry whose turn has come is checked; it starts, or waits for its clusters. While its partition's tasks are being
parked nothing starts (R376, R396, R405). (log 29, DEDUCED) -/
def State.tryTask (s : State) (e : EntryId) (bs : List Byte) : State :=
  let st := s.taskCheck e.part.val bs
  if s.parkAll e.part.val then s
  else if st ≠ 0 then s.completeSt e st
  else if s.taskFree e.part.val bs then s.startTask e bs
  else s.setEntry e .waiting
def execTask (e : EntryId) (s : State) : Host.Outcome State Fault Refusal :=
  .next (match s.entryNow e 1 .fetched with | none => s | some bs => s.tryTask e bs)
def execTaskStart (e : EntryId) (s : State) : Host.Outcome State Fault Refusal :=
  .next (match s.entryNow e 1 .waiting with | none => s | some bs => s.tryTask e bs)

/-- A STEP entry waits for its task's next boundary. -/
def stepEntry (e : EntryId) (s : State) : State :=
  match s.entryNow e 2 .fetched with
  | none => s
  | some bs =>
    let tag := BitVec.ofNat 64 (fieldAt bs 8 8)
    match s.tasks.find? fun t => decide (t.id.part = e.part) && decide (t.tag = tag) && t.fault.isNone with
    | none => s.completeSt e stTaskUnknown
    | some T => ((s.setEntry e .active).modTask T.id fun t =>
        { t with steps := t.steps ++ [(e, bitOf (fieldAt bs 5 1) 0, (bs.drop 16).take 32)] }).unpark
def execStep (e : EntryId) (s : State) : Host.Outcome State Fault Refusal := .next (stepEntry e s)

/-- A refusal for which the spec names no status: an open choice among the codes of Table 23.9 (R490). (log 16, DESIGN CHOICE) -/
def State.openStatus (s : State) : BitVec 16 := nth stEntryInvalid statusCodes ((s.freeAt 0).toNat % 109)
/-- Admits a sequence (R256, R270); a SEQID that the partition already has is not among its cases. (log 16, DESIGN CHOICE; log 29, DEDUCED) -/
def seqAdmit (e : EntryId) (s : State) : State :=
  match s.entryNow e 4 .fetched with
  | none => s
  | some bs =>
    let p := e.part.val
    let sid := BitVec.ofNat 32 (fieldAt bs 8 4)
    let lay := BitVec.ofNat 32 (fieldAt bs 16 4)
    if s.pwr.quiescing || decide (s.pwr.dev ≠ 0) then s
    else match kvLayout lay with
    | none => s.completeSt e stKvLayout
    | some l =>
      if ((s.pt p).seqOf sid).isSome then (s.completeSt e s.openStatus).bump 1 else
      match s.structRd e.part (fieldAt bs 32 8) (4 * fieldAt bs 40 4) with
      | (.error st, s1) => s1.completeOnce e st
      | (.ok toks, s1) =>
        let r := s1.admitSeq p sid (fieldAt bs 12 1) lay l (BitVec.ofNat 64 (fieldAt bs 24 8)) (promptToks toks)
        r.1.completeWork e 0 (BitVec.ofNat 32 r.2)
def execSeqAdmit (e : EntryId) (s : State) : Host.Outcome State Fault Refusal := .next (seqAdmit e s)

/-- Ends a sequence: at its batch's next boundary while a task serves it, else at once. (log 16, DESIGN CHOICE) -/
def seqEnd (e : EntryId) (s : State) : State :=
  match s.entryNow e 5 .fetched with
  | none => s
  | some bs =>
    let p := e.part.val
    let sid := BitVec.ofNat 32 (fieldAt bs 8 4)
    match (s.pt p).seqOf sid with
    | none => (s.completeSt e s.openStatus).bump 1
    | some q =>
      if q.endReq.isSome then (s.completeSt e s.openStatus).bump 1
      else if q.st = .resident && s.batchServed p q.batch then
        (s.setEntry e .active).modSeq p sid fun q => { q with endReq := some e }
      else ((s.endSeq p sid).syncTree p).completeWork e 0 0
def execSeqEnd (e : EntryId) (s : State) : Host.Outcome State Fault Refusal := .next (seqEnd e s)

end Sys2Proof.Machine
end

