-- ==== Sys2Proof/Machine/Reshard.lean ====
section
/-! DEFINITION. Re-sharding of key-value sequences (R328 to R333): the plan, what a source lends, the transfer of pages, and the end
of a record. -/

namespace Sys2Proof.Machine

/-! ### Reading a plan (Tables 14.7, 14.8) -/

/-- The sequence record at an address, with its length. -/
def State.reshRec (s : State) (p : Fin 64) (a : Nat) : Except (BitVec 16) (ReshRec × Nat) × State :=
  match s.structRd p a 16 with
  | (.error e, s1) => (.error e, s1)
  | (.ok h, s1) =>
    let nsrc := fieldAt h 5 1
    match s1.structRd p (a + 16) (16 * nsrc) with
    | (.error e, s2) => (.error e, s2)
    | (.ok rs, s2) =>
      (.ok ({ tseq := BitVec.ofNat 32 (fieldAt h 0 4), prio := fieldAt h 4 1, hfirst := fieldAt h 6 1, n := fieldAt h 8 4
              ranges := (List.range nsrc).map fun i => (BitVec.ofNat 14 (fieldAt rs (16 * i) 2), BitVec.ofNat 32 (fieldAt rs (16 * i + 4) 4),
                fieldAt rs (16 * i + 8) 4, fieldAt rs (16 * i + 12) 4) }, 16 + 16 * nsrc), s2)
/-- Ranges cover positions 0 to N - 1 in order, exactly once (R329). -/
def coversFrom : Nat → List (BitVec 14 × BitVec 32 × Nat × Nat) → Option Nat
  | at_, [] => some at_
  | at_, (_, _, f, c) :: rs => if f = at_ then coversFrom (at_ + c) rs else none
def ReshRec.covers (r : ReshRec) : Bool :=
  decide (1 ≤ r.ranges.length) && decide (r.ranges.length ≤ 64) && decide (coversFrom 0 r.ranges = some r.n)

/-! ### What a source lends (R330, R331) -/

/-- A running task serves the sequence. -/
def State.seqServed (s : State) (p : Nat) (q : KvSeq) : Bool := decide (q.st = .resident) && s.batchServed p q.batch
/-- The pages of the first n positions of a sequence, or why they are not lent: a range's positions are those that its source
holds, in order. Lending changes nothing of the sequence but that it counts as lent (R331). (log 44, DESIGN CHOICE) -/
def State.lendPages (s : State) (p : Nat) (sid : BitVec 32) (n : Nat) : Except (BitVec 16) (BitVec 32 × List Nat × Bool) × State :=
  let P := s.pt p
  if P.contained then (.error stPartContained, s) else
  match P.seqOf sid with
  | none => (.error stKvBusy, s)
  | some q => match kvLayout q.layout with
    | none => (.error stKvBusy, s)
    | some l =>
      if s.seqServed p q || decide (q.st = .swapped) || decide (q.st = .resuming) then (.error stKvBusy, s)
      else if q.cursor < n then (.error stReshardLayout, s)
      else
        let pages := (List.range (ceilDiv n l.p)).flatMap fun g => (P.group (nth 0 q.groups g)).pages
        (.ok (q.layout, pages, pages.any fun pg => P.prot (pg * 65536)),
         s.modSeq p sid fun q => { q with lent := q.lent + 1 })
/-- A plan gives back what was lent; a sequence that waits joins its batch if no task serves it. -/
def State.lendBack (s : State) (p : Nat) (sid : BitVec 32) : State :=
  let s1 := s.modSeq p sid fun q => { q with lent := q.lent - 1 }
  match (s1.pt p).seqOf sid with
  | some q => if s1.batchServed p q.batch || decide (q.st ≠ .admitted) then s1 else (s1.joinBatch p sid).copyShared p sid
  | none => s1

/-! ### The end of a record (R330 to R332) -/

def State.modPlan (s : State) (p : Nat) (f : ReshPlan → ReshPlan) : State :=
  s.modPt p fun P => { P with reshPlan := P.reshPlan.map f }
/-- Returns what the sources lent. -/
def State.reshReturn (s : State) (p : Nat) (q : ReshPlan) : State :=
  q.got.foldl (fun s g => match q.cur.ranges[g.1]? with
    | some (chip, sid, _, _) => if chip = s.lnk.chip then s.lendBack p sid
      else s.sendSys chip 12 [BitVec.ofNat 64 p, sid.setWidth 64]
    | none => s) s
/-- Bytes of a record in the plan. -/
def ReshRec.len (r : ReshRec) : Nat := 16 + 16 * r.ranges.length
/-- Ends the record in progress: its status goes into the plan; without success its groups are freed. Answers that are still on the
way to it find no request. -/
def State.reshEnd (s : State) (p : Nat) (q : ReshPlan) (st : BitVec 16) : State :=
  let s0 : State := s.setLnk { s.lnk with reqs := s.lnk.reqs.filter fun r => match r.owner with | .reshard x _ => decide (x ≠ p) | _ => true }
  let s1 := s0.reshReturn p q
  let s2 := if st = 0 then s1 else q.groups.foldl (fun s g => s.freeGroup p g) s1
  let s3 := s2.structWr (finPart p) (q.addr + 12) (leBytes 2 st.toNat)
  (s3.modPt p fun P => { P with
    reshMoved := if st = 0 then satAdd P.reshMoved 1 else P.reshMoved
    reshFailed := if st = 0 then P.reshFailed else satAdd P.reshFailed 1
    reshPlan := P.reshPlan.map fun q => { q with
      next := q.next + 1, addr := q.addr + q.cur.len, groups := [], asked := false, got := [], ready := false, jobs := [], phase := 0, todo := [], wait := false
      rx := [], pois := [], status := 0 } }).trace .reshRecord (BitVec.ofNat 8 p)

/-! ### Moving one page -/

/-- Rows of page g of a source that lends n positions. -/
def pageRows (ls : KvLay) (n g : Nat) : Nat := if (g + 1) * ls.p < n then ls.p else n - g * ls.p
/-- Byte ranges of the headers and index entries of a coded page. -/
def indexRanges (ls : KvLay) : List (Nat × Nat) := [(ls.page 0).k, (ls.page 0).v].map fun base => (base, 32 + 4 * ls.tiles)
/-- Byte ranges of a source page that the heads' parts of its first n rows take: of a coded page the used granules of their tiles,
whose index a reader gives (R230). (log 44, DESIGN CHOICE) -/
def rowRanges (ls : KvLay) (h0 h n : Nat) (rd : Rd) : List (Nat × Nat) :=
  let src := ls.page 0
  if ls.xc then
    [src.k, src.v].flatMap fun base =>
      ((List.range ls.tiles).filter fun k => (List.range n).any fun i =>
        let a := i * ls.row + h0 * ls.d
        decide (a / 2048 ≤ k) && decide (k ≤ (a + h * ls.d - 1) / 2048)).map fun k =>
          (base + ls.index + 4096 * k, kvSlotBytes (rd.nat (base + 32 + 4 * k) 4) (2048 * ls.tiles) k)
  else (List.range n).flatMap fun r =>
    let e := r * ls.row + h0 * ls.d
    [(src.k + e * ls.w, h * ls.d * ls.w), (src.v + e * ls.w, h * ls.d * ls.w)]
      ++ (if ls.bf then [] else [(src.ke + e / 32, h * ls.d / 32), (src.ve + e / 32, h * ls.d / 32)])
/-- The granules of byte ranges. -/
def rangeGrans (rs : List (Nat × Nat)) : List Nat :=
  (List.range 2048).filter fun g => rs.any fun r => decide (r.1 < 32 * g + 32) && decide (32 * g < r.1 + r.2)
/-- Runs of at most 16 neighbouring granules. -/
def granRuns : List Nat → List (Nat × Nat)
  | [] => []
  | g :: gs => match granRuns gs with
    | (a, n) :: rest => if a = g + 1 ∧ n < 16 then (g, n + 1) :: rest else (g, 1) :: (a, n) :: rest
    | [] => [(g, 1)]
/-- The received part of a page as a reader. -/
def ReshPlan.rd (q : ReshPlan) : Rd :=
  { byte := fun a => BitVec.ofNat 8 ((mget 0 q.rx (a / 32)).toNat >>> (8 * (a % 32)))
    pois := fun a => q.pois.contains (a / 32), taint := fun _ => false }
/-- Elements of heads h0 to h0 + h - 1 of a row, as stored. -/
def headEls (ls : KvLay) (rd : Rd) (val : Bool) (h0 h r : Nat) : List Raw :=
  let src := ls.page 0
  let base := if val then src.v else src.k
  (List.range (h * ls.d)).map fun i =>
    let e := r * ls.row + h0 * ls.d + i
    if ls.xc then match kvTile rd base ls.tiles (2048 * ls.tiles) (e / 2048) with
      | .ok d => { val := (fieldAt d (2 * (e % 2048)) 2 : Nat), exp := 0, fl := 0, bad := none }
      | .error st => { val := 0, exp := 0, fl := 0, bad := some st, mp := decide (st = stPoisonConsumed), ep := decide (st = stPoisonConsumed) }
    else
      let a := base + e * ls.w
      let x := (if val then src.ve else src.ke) + e / 32
      { val := (rd.nat a ls.w : Nat), exp := if ls.bf then 0 else (rd.byte x).toNat, fl := 0
        bad := orBad (rd.bad a ls.w) (if ls.bf then none else rd.bad x 1)
        mp := decide (rd.bad a ls.w = some stPoisonConsumed), ep := !ls.bf && decide (rd.bad x 1 = some stPoisonConsumed) }
/-- Writes one position of a layer into the target's pages. -/
def State.reshRow (s : State) (p : Nat) (q : ReshPlan) (l ls : KvLay) (layer pos r : Nat) : State :=
  let g := nth 0 q.groups (pos / l.p)
  let dst := l.page (nth 0 ((s.pt p).group g).pages layer * 65536)
  let put : State → Bool → State := fun s val =>
    let els := headEls ls q.rd val q.cur.hfirst l.h r
    let s1 := (kvRowPlan l dst val (pos % l.p) els).foldl (fun s x => s.structWr (finPart p) x.1 x.2) s
    s1.partPoisonSet p (kvRowPoison l dst val (pos % l.p) els)
  put (put s false) true
/-- All granules of the first page are in: its rows go to the target, at the positions of the range. -/
def State.reshStore (s : State) (p : Nat) (q : ReshPlan) (l : KvLay) : State :=
  match q.jobs with
  | [] => s
  | (i, layer, g) :: rest =>
    let s1 := match q.cur.ranges[i]?, q.got.find? (fun x => decide (x.1 = i)) with
      | some (_, _, first, n), some (_, lay, _) => match kvLayout lay with
        | some ls =>
          (List.range (pageRows ls n g)).foldl (fun (s : State) r => s.reshRow p q l ls layer (first + g * ls.p + r) r) s
        | none => s
      | _, _ => s
    s1.modPlan p fun q => { q with jobs := rest, phase := 0, todo := [], rx := [], pois := [] }
/-- A READ of the transfer engines on channel 13 (R330, R333). -/
def State.reshRead (s : State) (p : Nat) (chip : BitVec 14) (pa g n : Nat) : State :=
  let tag := s.lnk.nextTag
  let s1 : State := s.setLnk { s.lnk with
      nextTag := tag + 1, reqs := s.lnk.reqs ++ [{ tag := tag, chip := chip, owner := .reshard p g, more := 0 }] }
  let k := { mkPacket tyRead 13 s.lnk.chip chip with
    tag := tag, len := BitVec.ofNat 5 n, spart := BitVec.ofNat 6 p, addr := machineAddr 0 chip.toNat (pa + 32 * g) }
  let r := s1.send k
  if r.2 = 0 then r.1 else (r.1.reqDone tag r.2 [] 0).1
/-- Granules of a page of this device come in. -/
def State.reshLocal (s : State) (p pa : Nat) (gr : List Nat) (q : ReshPlan) : State × ReshPlan :=
  let s1 := gr.foldl (fun (s : State) x => s.partTouch p (pa + 32 * x) 32) s
  (s1, { q with
    rx := gr.foldl (fun m x => mset 0 m x (BitVec.ofNat 256 (leNat (s1.partRd p (pa + 32 * x) 32)))) q.rx
    pois := q.pois ++ gr.filter fun x => !(s1.partPoison p (pa + 32 * x) 32).isEmpty })
/-- Moves on as far as the transfer can: pages of this device are read at once, others granule run by granule run. (log 44, DESIGN CHOICE) -/
def reshPump (p : Nat) : Nat → State → State
  | 0, s => s
  | fuel + 1, s =>
    match (s.pt p).reshPlan with
    | none => s
    | some q =>
      if !q.ready || q.wait || decide (q.status ≠ 0) then s else
      match q.jobs, kvLayout q.layout with
      | (i, layer, g) :: _, some l =>
        match q.cur.ranges[i]?, q.got.find? (fun x => decide (x.1 = i)) with
        | some (chip, _, _, n), some (_, lay, pages) => match kvLayout lay with
          | none => s
          | some ls =>
            let pa := nth 0 pages (g * q.layers + layer) * 65536
            let head := rangeGrans (indexRanges ls)
            let rows : ReshPlan → List Nat := fun q => rangeGrans (rowRanges ls q.cur.hfirst l.h (pageRows ls n g) q.rd)
            if chip = s.lnk.chip then
              let a := if ls.xc then s.reshLocal p pa head q else (s, q)
              let b := a.1.reshLocal p pa (rows a.2) a.2
              reshPump p fuel (b.1.reshStore p b.2 l)
            else if q.phase = 0 then
              reshPump p fuel (s.modPlan p fun q =>
                if ls.xc then { q with phase := 1, todo := granRuns head } else { q with phase := 2, todo := granRuns (rows q) })
            else match q.todo with
              | [] => reshPump p fuel (if q.phase = 1 then s.modPlan p fun q => { q with phase := 2, todo := granRuns (rows q) }
                else s.reshStore p q l)
              | (a, m) :: rest => (s.modPlan p fun q => { q with todo := rest, wait := true }).reshRead p chip pa a m
        | _, _ => s
      | _, _ => s

/-! ### Beginning a record -/

/-- Takes a source's answer for one range; with the last one the transfer begins. (log 44, DESIGN CHOICE) -/
def State.reshGot (s : State) (p : Nat) (i : Nat) (lay : BitVec 32) (pages : List Nat) (prot : Bool) : State :=
  match (s.pt p).reshPlan with
  | none => s
  | some q =>
    if q.ready || decide (q.cur.ranges.length ≤ i) || q.got.any (fun x => decide (x.1 = i)) then s else
    let fits := match kvLayout q.layout, kvLayout lay with
      | some l, some ls => decide (l.bf = ls.bf) && decide (l.d = ls.d) && decide (q.cur.hfirst + l.h ≤ ls.h)
      | _, _ => false
    let st : BitVec 16 := if q.status ≠ 0 then q.status else if !fits then stReshardLayout else if prot then stReshardProt else 0
    let got := q.got ++ [(i, lay, pages)]
    let ready := decide (got.length = q.cur.ranges.length)
    s.modPlan p fun q => { q with
      got := got, status := st, ready := ready
      jobs := if !ready then [] else (List.range q.cur.ranges.length).flatMap fun i => match q.cur.ranges[i]?, got.find? (fun x => decide (x.1 = i)) with
        | some (_, _, _, n), some (_, lay, _) => match kvLayout lay with
          | some ls => (List.range q.layers).flatMap fun y => (List.range (ceilDiv n ls.p)).map fun g => (i, y, g)
          | none => []
        | _, _ => [] }
/-- Asks the source of every range for its pages. -/
def State.reshAsk (s : State) (p : Nat) (q : ReshPlan) : State :=
  (List.range q.cur.ranges.length).foldl (fun s i => match q.cur.ranges[i]? with
    | none => s
    | some (chip, sid, _, n) =>
      if chip = s.lnk.chip ∧ chip ≠ 0x3FFF then match s.lendPages p sid n with
        | (.error st, s1) => s1.modPlan p fun q => { q with status := if q.status = 0 then st else q.status }
        | (.ok r, s1) => s1.reshGot p i r.1 r.2.1 r.2.2
      else match s.routeOf chip 12 0 with
        | .error st => s.modPlan p fun q => { q with status := if q.status = 0 then st else q.status }
        | .ok _ => s.sendSys chip 12 [BitVec.ofNat 64 p, BitVec.ofNat 64 (s.pt p).reshNo, BitVec.ofNat 64 i, sid.setWidth 64, BitVec.ofNat 64 n]) s
/-- Batch that a moved sequence may join: none is named by the plan, so the choice is open. (log 44, DESIGN CHOICE) -/
def State.reshBatch (s : State) (p : Nat) (lay : BitVec 32) : Option Word :=
  let hs := (s.pt p).batches.filter fun h => (s.pt p).kvSeqs.any fun q => decide (q.batch = h) && decide (q.layout = lay)
  hs[(s.freeAt 0).toNat % (hs.length + 1)]?
/-- Begins the record at the plan's cursor (R329, R330 steps 1 and 2). (log 44, DESIGN CHOICE) -/
def State.reshBegin (s0 : State) (p : Nat) (q : ReshPlan) (l : KvLay) : State :=
  let s : State := s0.modPt p fun P => { P with reshNo := P.reshNo + 1 }
  match s.reshRec (finPart p) q.addr with
  | (.error st, s1) => s1.modPlan p fun q => { q with asked := true, status := st, cur := { q.cur with ranges := [] } }
  | (.ok (r, _), s1) =>
    let b := s1.reshBatch p q.layout
    let v := match b with | some h => s1.batchSee p h | none => (s1, { s1.batchAt p noBatch with look := 1 + (s1.freeAt 1).toNat % 16 })
    let s1 := v.1
    let look := v.2.look
    let need := ceilDiv r.n l.p + look
    let s2 := (s1.modPlan p fun q => { q with asked := true, cur := r, batch := match b with | some h => h | none => noBatch }).bump 2
    let fail : BitVec 16 → State := fun st => s2.modPlan p fun q => { q with status := st }
    if !r.covers then fail stReshardLayout
    else if ((s2.pt p).seqOf r.tseq).isSome then fail stKvBusy
    else if (s2.pt p).kvFree.length < need * q.layers + (s2.pt p).kvLow.toNat then fail stReshardSpace
    else match (s2.pt p).takeGroups s2.groupOn q.layers need with
      | none => fail stReshardSpace
      | some (gs, Q) =>
        let s3 := (s2.setAlloc p Q).modPlan p fun q => { q with groups := gs }
        if gs.any fun g => (Q.group g).pages.any fun pg => Q.prot (pg * 65536) then s3.modPlan p fun q => { q with status := stReshardProt }
        else match (s3.pt p).reshPlan with
          | some q1 => s3.reshAsk p q1
          | none => s3
/-- An activation is parking or switching: only the record in progress finishes (R396). -/
def State.activating (s : State) : Bool := match s.fw.act with | some a => decide (a.st = .parking) || decide (a.st = .switching) | none => false
/-- Ends records that have failed, begins the next ones, and completes the entry after the last. -/
def reshRun (p : Nat) : Nat → State → State
  | 0, s => s
  | fuel + 1, s =>
    match (s.pt p).reshPlan with
    | none => s
    | some q => match kvLayout q.layout with
      | none => s
      | some l =>
        if q.status ≠ 0 then reshRun p fuel (s.reshEnd p q q.status)
        else if q.count ≤ q.next then
          let s1 : State := s.modPt p fun P => { P with reshPlan := none }
          if (s1.entryFind q.entry).any fun x => decide (x.st ≠ .done) then s1.completeWork q.entry 0 0 else s1
        else if !q.asked then
          if s.activating then s else reshRun p fuel (s.reshBegin p q l)
        else reshPump p (3 * q.jobs.length + 4) s
/-- What a plan does next, until it waits for another chip or for the end of a record. -/
def State.reshStep (s : State) (p : Nat) : State :=
  match (s.pt p).reshPlan with
  | none => s
  | some q =>
    let s1 := reshRun p (2 * q.count + 4) s
    match (s1.pt p).reshPlan with
    | some r => if r.status ≠ 0 then reshRun p (2 * r.count + 4) s1 else s1
    | none => s1
/-- A plan of a contained partition ends at once (R468). -/
def State.reshStop (s : State) (p : Nat) : State :=
  if (s.pt p).contained && (s.pt p).reshPlan.isSome then s.reshStep p else s
/-- Every plan goes on. -/
def State.reshAll (s : State) : State := (s.parts.map (·.1)).foldl (fun s p => if (s.pt p).reshPlan.isSome then s.reshStep p else s) s

/-! ### The rows -/

/-- A RESHARD entry begins its plan; plans of one partition run one after the other. -/
def reshard (e : EntryId) (s : State) : State :=
  match s.entryNow e 3 .fetched with
  | none => s
  | some bs =>
    let p := e.part.val
    if (s.pt p).reshPlan.isSome then s else
    let plan := fieldAt bs 8 8
    match s.structRd e.part plan 64 with
    | (.error st, s1) => s1.completeOnce e st
    | (.ok h, s1) =>
      let n := fieldAt h 0 4
      let lay := BitVec.ofNat 32 (fieldAt h 4 4)
      if n = 0 ∨ 256 < n ∨ fieldAt h 8 2 = 0 ∨ fieldAt h 10 54 ≠ 0 then s1.completeOnce e stEntryInvalid
      else match kvLayout lay with
        | none => s1.completeOnce e stKvLayout
        | some _ =>
          let q : ReshPlan :=
            { entry := e, count := n, layout := lay, layers := fieldAt h 8 2, next := 0, addr := plan + 64
              cur := { tseq := 0, prio := 0, hfirst := 0, n := 0, ranges := [] }, groups := [], batch := noBatch, asked := false, got := [], ready := false
              jobs := [], phase := 0, todo := [], wait := false, rx := [], pois := [], status := 0 }
          ((s1.setEntry e .active).modPt p fun P => { P with reshPlan := some q }).reshStep p
def execReshard (e : EntryId) (s : State) : Host.Outcome State Fault Refusal := .next (reshard e s)

/-- Every row of a record is in: full pages are sealed, the stream is built and the sequence admitted with its cursor at N (R330
steps 5 and 6). -/
def reshardRecordDone (p : Nat) (s : State) : State :=
  match (s.pt p).reshPlan with
  | none => s
  | some q => match kvLayout q.layout with
    | none => s
    | some l =>
      if !s.nightwatch || !q.ready || !q.jobs.isEmpty || q.wait || decide (q.status ≠ 0) then s else
      let r := q.cur
      let used := ceilDiv r.n l.p
      let P := s.pt p
      let g := gmaxFor 16 (Config.firstGmax.toNat + 1) (used + 1)
      let x : KvSeq :=
        { sid := r.tseq, prio := r.prio, layout := q.layout, batch := q.batch, prompt := [], cursor := r.n, groups := q.groups.take used
          ahead := q.groups.drop used, gmax := g, stream := (Config.streamBase p P.kvOrder g).setWidth 64, st := .admitted, order := P.kvOrder
          slots := [], out := [], plain := [], ctr := 0, tags := [], pois := [], seals := [], lent := 0, endReq := none }
      let s1 := s.modPt p fun P => { P with kvOrder := P.kvOrder + 1, kvSeqs := P.kvSeqs ++ [x] }
      let s2 := s1.buildStream p x q.layers
      let s3 := if !l.xc then s2 else (List.range (r.n / l.p)).foldl (fun s gi =>
        (List.range q.layers).foldl (fun s y => s.sealPage p r.tseq y gi none) s) s2
      let s4 := if s3.batchServed p q.batch then s3 else s3.joinBatch p r.tseq
      (s4.reshEnd p q 0).reshStep p
def execReshardRecordDone (p : Fin 64) (s : State) : Host.Outcome State Fault Refusal := .next (reshardRecordDone p.val s)

/-- Messages of channel 12 that a plan needs (R330, R331). Pages that come when the record that asked for them has ended go back
to their source. (log 44, DESIGN CHOICE) -/
def sysMessage (src : BitVec 14) (m : SysMsg) (s : State) : State :=
  match m with
  | .pageListAsk part no range sid n => match s.lendPages part.val sid n.toNat with
    | (.error st, s1) => s1.sendSys src 12 [BitVec.ofNat 64 part.val, BitVec.ofNat 64 no, BitVec.ofNat 64 range, st.setWidth 64]
    | (.ok r, s1) => s1.sendSys src 12 ([BitVec.ofNat 64 part.val, BitVec.ofNat 64 no, BitVec.ofNat 64 range, sid.setWidth 64, r.1.setWidth 64,
        BitVec.ofNat 64 (bool2 r.2.2)] ++ r.2.1.map (BitVec.ofNat 64))
  | .pageListGive part no range sid lay pages prot =>
    let back := s.sendSys src 12 [BitVec.ofNat 64 part.val, sid.setWidth 64]
    match (s.pt part.val).reshPlan with
    | some q => if no ≠ (s.pt part.val).reshNo ∨ !q.asked then back else match q.cur.ranges[range]? with
      | some (chip, _) => if chip = src then (s.reshGot part.val range lay pages prot).reshStep part.val else s
      | none => s
    | none => back
  | .pageListRefuse part no range st => match (s.pt part.val).reshPlan with
    | some q => match q.cur.ranges[range]? with
      | some (chip, _) => if decide (chip = src) && q.asked && !q.ready && decide (no = (s.pt part.val).reshNo) then
          (s.modPlan part.val fun q => { q with status := if q.status = 0 then st else q.status }).reshStep part.val else s
      | none => s
    | none => s
  | .lendEnd part sid => s.lendBack part.val sid

end Sys2Proof.Machine
end

