-- ==== Sys2Proof/Machine/HostLoss.lean ====
section
/-! DEFINITION. HOST_LOST, DETACHED and function-level resets (R375 to R380, R400, R467). -/

namespace Sys2Proof.Machine

/-! ### Releasing a partition's work -/

/-- Partitions that are defined. -/
def State.defined (s : State) : List Nat := (s.parts.filter fun kv => kv.2.defined).map (·.1)
/-- Ends every sequence of a partition without a record. -/
def State.endSeqs (s : State) (p : Nat) : State :=
  let s1 := s.modPt p fun P => { P with kvSeqs := P.kvSeqs.map fun q => { q with endReq := none } }
  (((s1.pt p).kvSeqs.map (·.sid)).foldl (fun s sid => s.endSeq p sid) s1).syncTree p
/-- Drops a re-shard plan; its sources get their pages back. -/
def State.dropPlan (s : State) (p : Nat) : State :=
  match (s.pt p).reshPlan with
  | none => s
  | some q =>
    let s1 := q.groups.foldl (fun s g => s.freeGroup p g) (s.reshReturn p q)
    (s1.modPt p fun P => { P with reshPlan := none }).setLnk { s1.lnk with
      reqs := s1.lnk.reqs.filter fun r => match r.owner with | .reshard x _ => decide (x ≠ p) | _ => true }
/-- Tasks, sequences and what is held of a partition end with a status; no record is written (R379, R380). -/
def State.releaseWork (s : State) (p : Nat) (st : BitVec 16) : State :=
  let s1 := ((s.dropPlan p).endSeqs p).endTasks (fun t => decide (t.id.part.val = p)) st false
  s1.modPt p fun P => { P with held := [], evHeld := [] }
/-- RETAIN_S has passed: R379 for one partition. -/
def State.retainOut (s : State) (p : Nat) : State :=
  (s.releaseWork p stHostLost).modPt p fun P => { P with
    rings := P.rings.map fun kv => (kv.1, { kv.2 with en := false, badSeq := none, entries := [] }) }

/-- Scope of a command: one partition, or the device, whose rings may be in use with no partition defined (R342). -/
def State.scope (s : State) (x : Option (Fin 64)) : List Nat := match x with | none => s.parts.map (·.1) | some p => [p.val]
/-- A scope is in HOST_LOST or DETACHED. -/
def State.lost (s : State) (x : Option (Fin 64)) : Bool :=
  match x with | none => s.hif.hostLost || s.hif.detached | some p => (s.pt p.val).hostLost || (s.pt p.val).detached
def State.retainScope (s : State) (x : Option (Fin 64)) : State :=
  if s.lost x then
    let s1 := (s.scope x).foldl (fun s p => s.retainOut p) s
    if x.isNone then s1.setHif { s1.hif with msixHeld := [] } else s1
  else s
/-- RETAIN_S of 0 releases at once (Table 16.9). -/
def State.retainNow (s : State) (x : Option (Fin 64)) : State := if s.hif.retainS = 0 then s.retainScope x else s

/-! ### Entering and leaving -/

/-- The device, or a partition, enters HOST_LOST (R377); an activation that has not begun its switch ends (R400). -/
def State.enterLost (s : State) (x : Option (Fin 64)) : State :=
  let s1 : State := match x with
    | none => s.setHif { s.hif with hostLost := true, hbArmed := false, detachReq := false }
    | some p => s.modPt p.val fun P => { P with hostLost := true, phbArmed := false, detachReq := false }
  let s2 : State := match x, s1.fw.act with
    | none, some a => if a.st = .switching then s1 else
        (s1.setFw { s1.fw with act := none, state := if s1.fw.write.isSome then 1 else 0, result := stHostLost }).note .fallback 0xFF stHostLost []
    | _, _ => s1
  ((s2.trace .hbExpiry (match x with | some p => BitVec.ofNat 8 p.val | none => 0xFF)).unpark).retainNow x
/-- DETACHED is set once every running task of the scope has parked or ended (R376). -/
def State.detachDone (s : State) (x : Option (Fin 64)) : State :=
  let s1 : State := match x with
    | none => s.setHif { s.hif with detached := true, detachReq := false, hbArmed := false }
    | some p => s.modPt p.val fun P => { P with detached := true, detachReq := false, phbArmed := false }
  s1.retainNow x
def State.detachCheck (s : State) : State :=
  let s1 := if s.hif.detachReq && s.allParked (fun _ => true) then s.detachDone none else s
  (List.range 64).foldl (fun s p =>
    if (s.pt p).detachReq && s.allParked (fun q => decide (q = p)) then s.detachDone (some (finPart p)) else s) s1

def heartbeat (s : State) : State :=
  if s.served && !s.hif.hostLost && !s.hif.detached then s.setHif { s.hif with hbArmed := true } else s
def execHeartbeat (s : State) : Host.Outcome State Fault Refusal := .next (heartbeat s)
def partitionHeartbeat (p : Nat) (s : State) : State :=
  if s.served && !s.hostHeld p then s.modPt p fun P => { P with phbArmed := true } else s
def execPartitionHeartbeat (p : Fin 64) (s : State) : Host.Outcome State Fault Refusal := .next (partitionHeartbeat p.val s)
/-- HB_MS has passed. -/
def execHeartbeatExpiry (s : State) : Host.Outcome State Fault Refusal :=
  .next (if s.served && s.hif.hbArmed && !s.lost none then s.enterLost none else s)
/-- HIF_PHB.MS has passed; 0 disables it. -/
def execPartitionHbExpiry (p : Fin 64) (s : State) : Host.Outcome State Fault Refusal :=
  .next (if s.served && (s.pt p.val).phbArmed && decide ((s.pt p.val).phbMs ≠ 0) && !s.hostHeld p.val then s.enterLost (some p) else s)

/-- DETACH: in HOST_LOST, and while it is under way or done, nothing more happens. -/
def detachNow (x : Option (Fin 64)) (s : State) : State :=
  if !s.nightwatch || s.lost x then s else
  let s1 : State := match x with
    | none => s.setHif { s.hif with detachReq := true }
    | some p => s.modPt p.val fun P => { P with detachReq := true }
  (s1.trace .detach).detachCheck
def detach (x : Option (Fin 64)) (s : State) : State := s.orWait (.detach x) (detachNow x)
def execDetach (x : Option (Fin 64)) (s : State) : Host.Outcome State Fault Refusal := .next (detach x s)
/-- Tasks that have not parked within PARK_MS run on until they name host memory. (log 58, DEDUCED) -/
def execDetachParkTimeout (x : Option (Fin 64)) (s : State) : Host.Outcome State Fault Refusal :=
  .next (let req := match x with | none => s.hif.detachReq | some p => (s.pt p.val).detachReq
         if s.nightwatch && req then s.detachDone x else s)

/-- Sequencers that stalled at host memory try their instruction again. (log 58, DEDUCED) -/
def State.hostBack (s : State) : State :=
  s.setClusters (s.clusters.map fun kv => (kv.1,
      if kv.2.seq.run = .stalled .hostLost && !s.hostHeld kv.2.part.toNat then { kv.2 with seq := { kv.2.seq with run := .running } } else kv.2))
/-- Tick at which a record or event arose: bytes 16 to 23 of a record. -/
def Held.tick : Held → Nat
  | .record _ _ _ bs => fieldAt bs 16 8
  | .event _ _ _ t => t.toNat
/-- Something that waits: when it arose, and a partition's record or event, or a vector of the physical function. -/
abbrev Waiting := Nat × Option (Nat × Held) × Nat
/-- Stable insertion by tick. -/
def waitInsert (x : Waiting) : List Waiting → List Waiting
  | [] => [x]
  | y :: ys => if x.1 < y.1 then x :: y :: ys else y :: waitInsert x ys
/-- Everything that waits in some partitions, and for the device its interrupts, in the order in which it arose (R378). (log 58, DEDUCED) -/
def State.waitingFor (s : State) (ps : List Nat) (dev : Bool) : List Waiting :=
  let part : Nat → List Waiting := fun p => (s.pt p).held.map fun (h : Held) => (h.tick, some (p, h), 0)
  let own : List Waiting := if dev then s.hif.msixHeld.map fun (x : Word × Nat) => (x.1.toNat, none, x.2) else []
  (ps.flatMap part ++ own).foldl (fun acc x => waitInsert x acc) []
/-- ATTACH (R378). (log 58, DEDUCED) -/
def attachNow (x : Option (Fin 64)) (s : State) : State :=
  if !s.nightwatch then s else
  let s1 : State := match x with
    | none => s.setHif { s.hif with hostLost := false, detached := false, detachReq := false, hbArmed := true }
    | some p => s.modPt p.val fun P => { P with hostLost := false, detached := false, detachReq := false, phbArmed := true }
  let ps := (s1.scope x).filter fun p => !s1.hostHeld p
  let ws := s1.waitingFor ps x.isNone
  let s2 := ps.foldl (fun (s : State) p => s.modPt p fun P => { P with held := [] }) (s1.trace .attach)
  let s3 : State := if x.isNone then s2.setHif { s2.hif with msixHeld := [] } else s2
  let s4 := ws.foldl (fun (s : State) w => match w.2.1 with
    | some (p, h) => s.release p [h]
    | none => s.msix 0 w.2.2) s3
  s4.hostBack.unpark
def attach (x : Option (Fin 64)) (s : State) : State := s.orWait (.attach x) (attachNow x)
def execAttach (x : Option (Fin 64)) (s : State) : Host.Outcome State Fault Refusal := .next (attach x s)
def execRetainExpiry (x : Option (Fin 64)) (s : State) : Host.Outcome State Fault Refusal :=
  .next (if s.nightwatch then s.retainScope x else s)

/-! ### Containment ends (R467) and function-level resets (R380) -/

/-- Carries out the held end-of-task actions and ends the containment; the record is cleared (Table 21.7), and MORE stays (R451). -/
def State.releaseContained (s : State) (p : Nat) : State :=
  if !(s.pt p).contained then s else
  let ends := (s.pt p).heldEnds
  let free := (s.owned p).filter fun c => (s.cl c).task.isNone
  let s1 := ends.foldl (fun s t => s.dropHolds t free) s
  s1.modPt p fun P => { P with contained := false, errRecord := 0, heldEnds := [] }
def releaseNow (p : Nat) (s : State) : State := if s.nightwatch then s.releaseContained p else s
def releasePart (p : Nat) (s : State) : State := s.orWait (.release (finPart p)) (releaseNow p)
def execRelease (p : Fin 64) (s : State) : Host.Outcome State Fault Refusal := .next (releasePart p.val s)

/-- A partition's host state returns to its reset values, and its saturating counters without a CLEAR bit to zero (R380, R451). (log
57, DEDUCED) -/
def Part.hostReset (P : Part) : Part :=
  { P with
    rings := [], hostWin := [], evBase := 0, evIrq := false, evEn := false, evSize := 4, evSeq := 0, evHeld := [], held := []
    hostLost := false, detached := false, detachReq := false, phbMs := 0, phbArmed := false
    evLost := 0, more := 0, rngFaults := 0, kvPreempts := 0, kvEvicted := 0, kvCopies := 0, collDone := 0, collFailed := 0, collFull := 0
    reshMoved := 0, reshFailed := 0 }
def State.flrPart (s : State) (p : Nat) : State :=
  ((s.releaseWork p stFuncReset).releaseContained p).modPt p Part.hostReset
/-- Reads latched by a function are gone. -/
def State.dropLatch (s : State) (fn : Nat) : State :=
  s.setHif { s.hif with latch := s.hif.latch.filter fun kv => decide (kv.1 / 2 ^ 26 ≠ fn), d3 := s.hif.d3.filter fun f => decide (f ≠ fn) }
/-- Partition of a virtual function. -/
def State.partOfFn (s : State) (k : Nat) : Option Nat := (s.parts.find? fun kv => kv.2.defined && decide (kv.2.vf.toNat = k)).map (·.1)
/-- Function-level reset of a virtual function. -/
def State.vfReset (s : State) (fn : Nat) : State :=
  let s1 := s.dropLatch fn
  match s1.partOfFn fn with
  | some p => s1.flrPart p
  | none => s1
/-- Function-level reset of virtual function k + 1. -/
def vfFlrNow (k : Nat) (s : State) : State := if s.nightwatch then s.vfReset (k + 1) else s
def execVfFlr (k : Fin 64) (s : State) : Host.Outcome State Fault Refusal := .next (s.orWait (.vfFlr k) (vfFlrNow k.val))
/-- See log 57, DEDUCED. -/
def pfFlrNow (s : State) : State :=
  if !s.nightwatch then s else
  let s1 := (s.parts.map (·.1)).foldl (fun s p => s.flrPart p) s
  (s1.setHif { s1.hif with
      aperture := 0, protDenied := 0, retainS := 0x003C, hbMs := 0x03E8, hbArmed := false, hostLost := false, detached := false, detachReq := false
      latch := [], d3 := [], msixHeld := [] })
def execPfFlr (s : State) : Host.Outcome State Fault Refusal := .next (s.orWait .pfFlr pfFlrNow)

end Sys2Proof.Machine
end

