-- ==== Sys2Proof/Machine/Boundary.lean ====
section
/-! DEFINITION. The rows TASK_FAIL (R146), TASK_END (R129) and PHASE_BOUNDARY (R141). -/

namespace Sys2Proof.Machine

/-- Instructions that will never complete: collectives that R143 ends with their task and those that containment aborts (R326,
R465), and a KVAPP that waits for a page in a task that WAIT_TIMEOUT ends (R277) or in a contained partition, which gets none. -/
def Job.idle (P : Part) (st : BitVec 16) (u : Nat) (j : Job) : Bool :=
  (u == 5 && (st == stWaitTimeout || P.contained)) || (u == 4 && j.waiting && (st == stWaitTimeout || P.contained))
/-- Every issued instruction that can still run has run to completion (R146). (log 31, DEDUCED) -/
def runOut (P : Part) (st : BitVec 16) (x : Cluster) : Bool := x.units.all fun kv => kv.2.all (Job.idle P st kv.1)

/-- TASK_FAIL: the earliest status ends the task. -/
def taskFail (t : TaskId) (s : State) : State :=
  match s.findTask t with
  | none => s
  | some T => match T.fault with
    | none => s
    | some f => if s.nightwatch && T.clusters.all (fun c => runOut (s.pt t.part.val) f.status (s.cl c)) then (s.endTask t f.status true).detachCheck else s
def execTaskFail (t : TaskId) (s : State) : Host.Outcome State Fault Refusal := .next (taskFail t s)

/-- TASK_END: every sequencer has executed END and every instruction has completed. -/
def taskEnd (t : TaskId) (s : State) : State :=
  match s.findTask t with
  | none => s
  | some T =>
    if s.nightwatch && T.fault.isNone && !T.clusters.isEmpty &&
        T.clusters.all (fun c => decide ((s.cl c).seq.run = .ended) && ((s.cl c).units.all fun kv => kv.2.isEmpty))
    then (s.endTask t 0 true).detachCheck else s
def execTaskEnd (t : TaskId) (s : State) : Host.Outcome State Fault Refusal := .next (taskEnd t s)

/-! ### PHASE boundary (R18, R141, R261, R369, R418) -/

/-- PHASE number that a sequencer has executed, if it stands at one. -/
def Cluster.atPhase (x : Cluster) : Option (BitVec 8) := match x.seq.run with | .stalled (.phase k) => some k | _ => none
/-- All sequencers stand at a PHASE and every instruction issued before it has completed. -/
def boundaryReady (s : State) (T : Task) : Bool :=
  !T.clusters.isEmpty && T.clusters.all fun c => (s.cl c).atPhase.isSome && ((s.cl c).units.all fun kv => kv.2.isEmpty)
/-- Keeps the work of the STEP in progress at the first boundary after it was taken. (log 35, DEDUCED) -/
def Task.closeStep (T : Task) : Task :=
  match T.step, T.stepDone with
  | some _, none => { T with stepDone := some (T.escStep, T.energyStep) }
  | _, _ => T
def phaseBoundary (t : TaskId) (s : State) : State :=
  match s.findTask t with
  | none => s
  | some T =>
    if !s.nightwatch || decide (T.st ≠ .running) || T.fault.isSome || !boundaryReady s T || !s.allRun T then s else
    let k := (s.cl (nth 0 T.clusters 0)).atPhase
    let p := t.part.val
    if T.clusters.any fun c => decide ((s.cl c).atPhase ≠ k) then s.taskStop t stPhaseMismatch
    else if s.appendsDiffer p T.batches then s.taskStop t stKvCursor
    else
      let s1 := (((s.phaseEnd T).rangeCloseAll T).kvBoundary p T.batches).modTask t fun T => { T.closeStep with phase := k }
      let s2 := s1.trace .boundary (BitVec.ofNat 8 p)
      match s2.findTask t with
      | none => s2
      | some T1 =>
        if s2.mustPark T1 then (s2.modTask t fun T => { T with st := .parked }).trace .taskPark (BitVec.ofNat 8 p) |>.detachCheck
        else s2.releaseTask T1
/-- A boundary that falls within the hold of a gear change takes effect after it (R449). -/
def execPhaseBoundary (t : TaskId) (s : State) : Host.Outcome State Fault Refusal :=
  .next (if s.live && s.clk.holding then s.setClk { s.clk with latePhases := s.clk.latePhases ++ [t] } else phaseBoundary t s)

end Sys2Proof.Machine
end

