-- ==== Sys2Proof/Machine/Flash.lean ====
section
/-! DEFINITION. The configuration flash: repair entries (Table 9.6), configuration images (R225, R437 to R440) and firmware
slots (R392, R393). -/

namespace Sys2Proof.Machine

/-! ### Repair entries -/

/-- Entries of a repair state, eight bytes each. -/
def Repair.words (r : Repair) : List Nat :=
  (r.remaps.map fun x => 2 ^ 61 + x.vault % 512 * 2 ^ 52 + x.die % 8 * 2 ^ 49 + x.bank % 16 * 2 ^ 45 + x.row % 4096 * 2 ^ 33
    + x.spare % 32 * 2 ^ 28 + (if x.fails = 0 then 0 else 2 ^ 27))
  ++ (r.badSpares.map fun x => 2 * 2 ^ 61 + x.1 % 512 * 2 ^ 52 + x.2.1 % 8 * 2 ^ 49 + x.2.2.1 % 16 * 2 ^ 45 + x.2.2.2 % 32 * 2 ^ 28)
  ++ (r.retired.map fun x => 3 * 2 ^ 61 + x.1 % 2 ^ 25 * 2 ^ 36 + x.2 % 8 * 2 ^ 33)
  ++ (r.failed.map fun x => 4 * 2 ^ 61 + x.1 % 512 * 2 ^ 52 + x.2 % 8 * 2 ^ 49)
def Repair.bytes (r : Repair) : List Byte := r.words.flatMap (leBytes 8)
/-- Takes one entry; empty and reserved types are ignored. -/
def Repair.add (r : Repair) (w : Nat) : Repair :=
  let v := bitsOf w 60 52
  let d := bitsOf w 51 49
  let b := bitsOf w 48 45
  match bitsOf w 63 61 with
  | 1 => { r with remaps := r.remaps ++
      [{ vault := v, die := d, bank := b, row := bitsOf w 44 33, spare := bitsOf w 32 28, fails := bool2 (bitOf w 27) }] }
  | 2 => { r with badSpares := r.badSpares ++ [(v, d, b, bitsOf w 32 28)] }
  | 3 => { r with retired := r.retired ++ [(bitsOf w 60 36, bitsOf w 35 33)] }
  | 4 => { r with failed := r.failed ++ [(v, d)] }
  | _ => r
def repairOf (bs : List Byte) : Repair := (chunksOf 8 bs).foldl (fun r c => r.add (leNat c)) Repair.none
/-- The check word of a factory copy: over its version, its count and its entries (R224). (log 5, DESIGN CHOICE) -/
def FactCopy.check (x : FactCopy) : BitVec 32 :=
  crc32c (leBytes 4 x.version.toNat ++ leBytes 4 x.count.toNat ++ x.entries.flatMap fun e => leBytes 8 e.toNat)
/-- A factory copy passes its check. -/
def FactCopy.ok (x : FactCopy) : Bool :=
  decide (x.count.toNat = x.entries.length) && decide (x.entries.length ≤ 131064) && decide (x.crc = x.check)
/-- The repair state of its entries of types 1 and 2. -/
def FactCopy.repair (x : FactCopy) : Repair := repairOf ((x.entries.filter fun e => bitsOf e.toNat 63 61 < 3).flatMap fun e => leBytes 8 e.toNat)
/-- A copy that holds a repair state, of up to 131,064 entries. -/
def FactCopy.of (r : Repair) : FactCopy :=
  let es := (({ r with retired := [], failed := [] } : Repair).words.take 131064).map (BitVec.ofNat 64)
  let x : FactCopy := { version := 1, count := BitVec.ofNat 32 es.length, crc := 0, entries := es }
  { x with crc := x.check }
/-- What the field section can hold: 8,192 entries (R225). -/
def Repair.stored (r : Repair) : Repair := repairOf ((r.words.take 8192).flatMap (leBytes 8))

/-! ### Images (Tables 19.3, 19.4) -/

def imageLen : Nat := 262144
/-- Section table of an image: ID, OFFSET, LEN, CRC. -/
def imgSecs (bs : List Byte) : List (Nat × Nat × Nat × Nat) :=
  (List.range (fieldAt bs 6 2)).map fun i =>
    let e := 64 + 16 * i
    (fieldAt bs e 2, fieldAt bs (e + 4) 4, fieldAt bs (e + 8) 4, fieldAt bs (e + 12) 4)
/-- The header checks. -/
def imgHead (bs : List Byte) : Bool :=
  let n := fieldAt bs 6 2
  decide (fieldAt bs 0 4 = 0x4E544346) && decide (fieldAt bs 4 2 = 1) && decide (1 ≤ n) && decide (n ≤ 16)
    && decide (fieldAt bs 12 4 ≤ imageLen)
    && decide (fieldAt bs 16 4 = (crc32c (bs.take 16 ++ (bs.drop 64).take (16 * n))).toNat)
/-- A section lies inside the image and its CRC-32C holds. -/
def secOk (bs : List Byte) (x : Nat × Nat × Nat × Nat) : Bool :=
  decide (x.2.1 + x.2.2.1 ≤ fieldAt bs 12 4) && decide ((crc32c ((bs.drop x.2.1).take x.2.2.1)).toNat = x.2.2.2)
/-- Bytes of the section with an ID, if it is sound. -/
def imgSec (bs : List Byte) (id : Nat) : Option (List Byte) :=
  match (imgSecs bs).find? fun x => decide (x.1 = id) with
  | some x => if secOk bs x then some ((bs.drop x.2.1).take x.2.2.1) else none
  | none => none
/-- Route entries of section 4 (Table 13.11). -/
def routesOf (bs : List Byte) : Map (BitVec 32) :=
  (chunksOf 4 bs).zipIdx.foldl (fun m x => mset routeNone m x.2 (BitVec.ofNat 32 (leNat x.1) &&& 0xBFFFFFC0)) []
/-- SHA-512 of the whole 256 KiB image (Table 15.6). -/
def CfgImage.measure (x : CfgImage) : BitVec 512 := Config.sha512 (padTo imageLen 0 x.bytes)
/-- What an image holds. -/
def parseImage (bs : List Byte) : CfgImage :=
  { headerOk := imgHead bs, version := BitVec.ofNat 32 (fieldAt bs 8 4), ident := (imgSec bs 1).map Config.secIdent
    power := (imgSec bs 2).map Config.secPower, neighbours := (imgSec bs 3).map Config.secNeighbours
    routes := (imgSec bs 4).map routesOf, link := (imgSec bs 5).map Config.secLink, host := (imgSec bs 6).map Config.secHost
    fieldRep := (imgSec bs 7).map repairOf, bytes := bs }
/-- The image that the pointer sectors name, or the header check (R437). -/
def Flash.chosen (f : Flash) : Bool :=
  match f.ptr0, f.ptr1 with
  | some a, some b => if serialBefore a.1 b.1 then b.2 else a.2
  | some a, none => a.2
  | none, some b => b.2
  | none, none =>
    if f.img0.headerOk && f.img1.headerOk then decide (f.img0.version.toNat < f.img1.version.toNat) else f.img1.headerOk && !f.img0.headerOk
def Flash.img (f : Flash) (i : Bool) : CfgImage := if i then f.img1 else f.img0
/-- Writes the image that is not chosen and then the pointer record (R439 steps 4 and 5). (log 50, DEDUCED) -/
def Flash.commitImage (f : Flash) (x : CfgImage) : Flash :=
  let i := !f.chosen
  let g := if i then { f with img1 := x } else { f with img0 := x }
  match f.ptr0, f.ptr1 with
  | none, none => { g with ptr0 := some (1, i) }
  | some a, none => { g with ptr1 := some (a.1 + 1, i) }
  | none, some b => { g with ptr0 := some (b.1 + 1, i) }
  | some a, some b => if serialBefore a.1 b.1 then { g with ptr0 := some (b.1 + 1, i) } else { g with ptr1 := some (a.1 + 1, i) }

/-! ### Image writes (R225, R439, R440) -/

/-- The image with the current field state (R439 step 3). (log 50, DEDUCED) -/
def State.withField (s : State) (x : CfgImage) : CfgImage :=
  { x with fieldRep := some s.mem.field.stored, bytes := Config.imageField x.bytes s.mem.field.stored.bytes }
/-- A write that waits is begun: the image that it stores, or its refusal. -/
def State.imageOf (s : State) (w : ImgWrite) : Except (BitVec 16) CfgImage :=
  let cur := s.flash.img s.flash.chosen
  match w with
  | .host =>
    let a := s.cfg.stage.toNat
    let bs := s.devRd a imageLen
    let x := parseImage bs
    if !s.devOn a imageLen || !(s.devPoison a imageLen).isEmpty || !imgHead bs || !((imgSecs bs).all (secOk bs)) then .error stCfgCheck
    else if s.grd.enrolled && decide (x.ident ≠ cur.ident) then .error stCfgGuarded
    else .ok (s.withField x)
  | .field => .ok (s.withField cur)
  | .ident c => .ok (s.withField { cur with ident := some c, bytes := Config.imageIdent cur.bytes c })
/-- A staged image is read through the vault controllers (R14). -/
def State.stageTouch (s : State) (w : ImgWrite) : State :=
  match w with
  | .host => if s.devOn s.cfg.stage.toNat imageLen then s.vaultRead s.cfg.stage.toNat imageLen else s
  | _ => s
/-- Begins the writes that wait until one is in progress; BUSY shows whether one is. -/
def imageFuel : Nat → State → State
  | 0, s => s
  | n + 1, s => match s.cfg.queue with
    | [] => s.setCfg { s.cfg with busy := false }
    | w :: rest =>
      let s := s.stageTouch w
      match s.imageOf w with
      | .error st => imageFuel n (s.setCfg { s.cfg with queue := rest, result := st })
      | .ok x => s.setCfg { s.cfg with
          queue := rest, busy := true, write := some x, dirty := false }
/-- See log 50, DEDUCED. -/
def State.imageNext (s : State) : State :=
  if s.cfg.write.isSome then s.setCfg { s.cfg with busy := true } else imageFuel (s.cfg.queue.length + 1) s
/-- A write joins the queue. (log 50, DEDUCED) -/
def State.imageAsk (s : State) (w : ImgWrite) : State := (s.setCfg { s.cfg with queue := s.cfg.queue ++ [w] } : State).imageNext
/-- Every image write has ended and left IDENT v. -/
def State.identSettled (s : State) (v : BitVec 14) : Bool :=
  s.cfg.write.isNone && s.cfg.queue.isEmpty && decide ((s.flash.img s.flash.chosen).ident = some v)
/-- CFG_CMD.WRITE. -/
def cfgWriteNow (s : State) : State := if s.nightwatch then s.imageAsk .host else s
def configWrite (s : State) : State := s.orWait .cfgWrite cfgWriteNow
def execConfigWrite (s : State) : Host.Outcome State Fault Refusal := .next (configWrite s)
/-- A field rewrite is due: the field state has changed and the image is not defaulted (R225, R440). -/
def State.fieldDue (s : State) : Bool := s.cfg.dirty && !s.glb.cfgDefaulted
def State.fieldStart (s : State) : State :=
  if s.fieldDue && !s.cfg.queue.contains .field then s.imageAsk .field else s
def execFieldRewrite (s : State) : Host.Outcome State Fault Refusal := .next (if s.nightwatch then s.fieldStart else s)
/-- The write in progress ends; the next one begins. -/
def imageWriteDone (s : State) : State :=
  if !s.nightwatch then s else
  match s.cfg.write with
  | none => s
  | some x =>
    ((s.setFlash (s.flash.commitImage x)).setCfg { s.cfg with write := none, result := 0 } : State).imageNext
def execImageWriteDone (s : State) : Host.Outcome State Fault Refusal := .next (imageWriteDone s)

/-! ### Firmware slots (R392, R393) -/

/-- The image that lies in bytes (Table 17.5), valid or not (R392). -/
def fwSlotOf (bs : List Byte) : FwSlot :=
  let n := fieldAt bs 8 4
  let img := bs.take n
  { valid := decide (132 < n) && decide (n ≤ 16777216) && decide (n ≤ bs.length) && decide (fieldAt bs 0 2 = 1)
      && decide (fieldAt bs 12 4 ≤ 3 * 2 ^ 20) && Config.fwSigOk img
    version := BitVec.ofNat 32 (fieldAt bs 4 4), length := BitVec.ofNat 32 n, load := BitVec.ofNat 32 (fieldAt bs 12 4), lpl := BitVec.ofNat 8 (fieldAt bs 16 1), stateOut := BitVec.ofNat 8 (fieldAt bs 17 1)
    stateHi := BitVec.ofNat 8 (fieldAt bs 18 1), stateLo := BitVec.ofNat 8 (fieldAt bs 19 1), image := img }
/-- Control SRAM once the LOAD bytes of the image's body have been put there (Table 17.5, R396, R432). (log 75, DESIGN CHOICE) -/
def FwSlot.loadInto (x : FwSlot) (m : Map Byte) : Map Byte := wrBytes m Config.loadBase.toNat ((x.image.drop 512).take x.load.toNat)
def Flash.slot (f : Flash) (b : Bool) : FwSlot := if b then f.slotB else f.slotA
def Flash.setSlot (f : Flash) (b : Bool) (x : FwSlot) : Flash := if b then { f with slotB := x } else { f with slotA := x }
/-- Ends a firmware command with a status. -/
def State.fwResult (s : State) (st : BitVec 16) : State := s.setFw { s.fw with result := st }
/-- FW_STATUS.STATE of a pending activation. -/
def Fw.actCode (f : Fw) : BitVec 3 :=
  match f.act with
  | none => 0
  | some a => match a.st with
    | .deferred => 2
    | .parking => 3
    | .switching => 4
/-- FW_STATUS.STATE with no activation pending. -/
def Fw.idleCode (f : Fw) : BitVec 3 := if f.write.isSome then 1 else 0
/-- Nightwatch, or in recovery the boot ROM, takes firmware commands (R435). -/
def State.fwServed (s : State) : Bool := s.nightwatch || (s.live && decide (s.pwr.boot = .recovery))
/-- FW_CMD.WRITE: the staged copy is read through the vault controllers (R14) and checked, and poison fails the check; the slot is
not valid while it is written. An activation that is pending, also in its switch, answers FW_SLOT_BUSY. (log 50, DEDUCED) -/
def fwWrite (slot : Bool) (s0 : State) : State :=
  let a := bitsOf s0.fw.stage.toNat 36 0
  let n := bitsOf s0.fw.stage.toNat 63 40
  let s := if s0.fwServed && s0.fw.write.isNone && s0.fw.act.isNone && s0.devOn a n then s0.vaultRead a n else s0
  if s.served && s.fw.act.isSome then s.fwResult stFwSlotBusy
  else if !s.fwServed || s.fw.write.isSome then s
  else if decide (s.pwr.boot = .ready) && decide (slot = s.fw.active) then s.fwResult stFwSlotActive
  else
    let x := fwSlotOf (s.devRd a n)
    if !s.devOn a n || !(s.devPoison a n).isEmpty || !x.valid then s.fwResult stFwSig
    else
      (s.setFlash (s.flash.setSlot slot { s.flash.slot slot with valid := false })).setFw { s.fw with state := 1, write := some (slot, x) }
def execFwWrite (slot : Bool) (s : State) : Host.Outcome State Fault Refusal := .next (fwWrite slot s)
/-- The slot write in progress ends with its read-back check: a slot that fails it stays invalid. -/
def State.slotWritten (s : State) (ok : Bool) : State :=
  match s.fw.write with
  | none => s
  | some (b, x) =>
    (((s.setFlash (s.flash.setSlot b { x with valid := ok })).setFw
      { s.fw with state := s.fw.actCode, result := if ok then 0 else stFwSig, write := none } : State).trace .slotWrite)

/-- A flash write stands in the way of an orderly removal (R442). -/
def State.flashBusy (s : State) : Bool := s.fw.write.isSome || s.cfg.busy || s.grd.busy || s.fieldDue

end Sys2Proof.Machine
end

