-- ==== Sys2Proof/Machine/Meridian.lean ====
section
/-! DEFINITION. The time tree and the Meridian counter's synchronisation (R309 to R313): BEACON and BEACON_SEND. -/

namespace Sys2Proof.Machine

/-- ACTIVE ports on which a beacon has come in, ascending. -/
def State.beaconPorts (s : State) : List Nat := (List.range 39).filter fun n => decide ((s.po n).st = .active) && (s.po n).bSeen
/-- Order of (ROOT, DEPTH, chip). -/
def treeKey (root depth chip : Nat) : Nat := root * 2 ^ 22 + depth * 2 ^ 14 + chip
/-- The least key with its port; the lower port on a tie. -/
def leastKey (xs : List (Nat × Nat)) : Option (Nat × Nat) :=
  xs.foldl (fun o x => match o with | none => some x | some y => if x.1 < y.1 then some x else o) none
/-- The port of the best beacon over group and machine ports. -/
def State.upBest (s : State) : Option Nat :=
  (leastKey ((s.beaconPorts.filter fun n => decide (7 ≤ n)).map fun n => (treeKey (s.po n).bRoot.toNat (s.po n).bDepth.toNat 0, n))).map (·.2)
/-- The port of the parent, R311 steps 1 to 3; `none` for the root. A device whose own number comes back to it as ROOT stays the
root. On a board where nobody receives a ROOT from outside, the neighbour with the best beacon stands for the leader. (log 48, DEDUCED) -/
def State.parentPort (s : State) : Option Nat :=
  let ps := s.beaconPorts
  let chip := s.lnk.chip.toNat
  if ps.all fun n => decide (chip ≤ (s.po n).bRoot.toNat) then none else
  let own := match s.upBest with
    | some n => [(treeKey (s.po n).bRoot.toNat (s.po n).bDepth.toNat chip, n)]
    | none => []
  let board := ps.filter (· < 7)
  let ups := (board.filter fun n => (s.po n).bUpValid).map fun n =>
    (treeKey (s.po n).bUpRoot.toNat (s.po n).bUpDepth.toNat (s.po n).foundChip.toNat, n)
  let near := board.map fun n => (treeKey (s.po n).bRoot.toNat (s.po n).bDepth.toNat (s.po n).foundChip.toNat, n)
  let cands := own ++ ups
  (leastKey (if cands.isEmpty then near else cands)).map (·.2)
/-- Chooses the parent; a change starts the count of R312 again. (log 48, DEDUCED) -/
def State.chooseParent (s : State) : State :=
  let m := s.mer
  match s.parentPort with
  | none =>
    let m1 := { m with
      root := true, parent := 0x3F, depth := 0, rootChip := s.lnk.chip, degraded := false, depthOver := false
      lockRun := if m.parent = 0x3F then m.lockRun else 0 }
    if m1 = m then s else (s.setMer m1 : State).trace .parentChange
  | some n =>
    let p := s.po n
    let depth := p.bDepth.toNat + 1
    let m1 := { m with
      root := false, parent := BitVec.ofNat 6 n, depth := depth, rootChip := p.bRoot, degraded := decide (p.lpl.toNat ≤ 1)
      depthOver := decide (5 < depth), lockRun := if m.parent.toNat = n then m.lockRun else 0 }
    if m1 = m then s else (s.setMer m1 : State).trace .parentChange

/-- 32 times the offset of a beacon received at count b2 (R312). (log 22, DEDUCED) -/
def theta32 (b : BeaconMsg) (b2 : Int) : Int :=
  let f2 := decide (b.fmt = 2)
  let tx : Int := 16 * (b.tx.toNat : Int) + (if f2 then (b.fracTx.toNat : Int) else 0)
  let hold : Int := 16 * (b.hold.toNat : Int) + (if f2 then (b.fracHold.toNat : Int) else 0)
  2 * tx + (16 * (b2 - (b.echo.toNat : Int)) - hold) - 32 * b2
/-- A count of whole ticks for an offset; a part of a tick goes either way. (log 22, DEDUCED) -/
def wholeTicks (free : Word) (th : Int) : Int := th / 32 + (if th % 32 ≠ 0 ∧ free.getLsbD 0 then 1 else 0)
/-- The parent's beacon steps the counter, or slews it once LOCKED. (log 48, DEDUCED) -/
def State.follow (s : State) (b : BeaconMsg) : State :=
  let b2 : Int := (s.tick.toNat : Int)
  let th := theta32 b b2
  let k := wholeTicks (s.freeAt 0) th
  let near := decide (-32 ≤ th) && decide (th ≤ 32)
  let run := if near then s.mer.lockRun + 1 else 0
  let s1 := s.bump 1
  if s.mer.locked then s1.setMer { s1.mer with slew := k, lockRun := run }
  else
    let s2 : State := (s1.setClk { s1.clk with merTick := BitVec.ofInt 64 (b2 + k) }).setMer { s1.mer with lockRun := run, locked := decide (16 ≤ run), slew := 0 }
    if s2.mer.locked then s2.trace .merLock else s2
/-- A port that carries beacons (R299). -/
def Port.beacons (p : Port) : Bool := decide (p.st = .active) || decide (p.st = .quarantine)
/-- A beacon arrives on an ACTIVE port; a QUARANTINE port's is only echoed, never used for time (R299). (log 22, DEDUCED) -/
def beacon (n : Nat) (b : BeaconMsg) (s : State) : State :=
  if !s.live || !(s.po n).beacons then s else
  if (s.po n).st = .quarantine then s.modPo n fun p => { p with bTx := b.tx, bArrive := s.tick } else
  let s1 := s.modPo n fun p => { p with
    bTx := b.tx, bArrive := s.tick, bRoot := b.root, bDepth := b.depth, bUpRoot := b.upRoot, bUpValid := b.upValid, bUpDepth := b.upDepth, bSeen := true }
  let s2 := s1.chooseParent
  if s2.mer.root || decide (s2.mer.parent.toNat ≠ n) then s2 else s2.follow b
def execBeacon (n : Fin 39) (b : BeaconMsg) (s : State) : Host.Outcome State Fault Refusal := .next (beacon n.val b s)

/-- The beacon that leaves now (Table 13.15); parts of a tick are measurements. -/
def State.beaconNow (s : State) (n : Nat) : BeaconMsg :=
  let p := s.po n
  let f2 := decide (2 ≤ p.lpl.toNat)
  let up := s.upBest
  { tx := s.tick, echo := p.bTx, hold := (s.tick - p.bArrive).setWidth 32, root := if s.mer.root then s.lnk.chip else s.mer.rootChip
    depth := BitVec.ofNat 8 s.mer.depth, locked := s.mer.locked, fmt := if f2 then 2 else 1
    fracTx := if f2 then (s.freeAt 0).setWidth 4 else 0, fracHold := if f2 then (s.freeAt 1).setWidth 4 else 0
    upRoot := match up with | some u => (s.po u).bRoot | none => 0
    upValid := up.isSome, upDepth := match up with | some u => (s.po u).bDepth | none => 0 }
/-- The slots of a beacon flit: its fields in bytes 8 to 39 (Table 13.15). -/
def beaconSlots (b : BeaconMsg) : BitVec 1920 :=
  BitVec.setWidth 1920 (b.upDepth ++ BitVec.ofBool b.upValid ++ (0 : BitVec 1) ++ b.upRoot ++ b.fracTx ++ b.fracHold
    ++ BitVec.ofBool b.locked ++ (0 : BitVec 3) ++ b.fmt ++ b.depth ++ (0 : BitVec 2) ++ b.root ++ b.hold ++ b.echo ++ b.tx)
/-- Every 1 µs an ACTIVE port sends a beacon (R310); QUARANTINE ports carry beacons too (R299). (log 65, DESIGN CHOICE) -/
def beaconSend (n : Nat) (s : State) : State :=
  if !s.live || !(s.po n).beacons then s else
  (s.modPo n fun p => { Port.sendFlit { p with sent := [] } 2 0 false (beaconSlots (s.beaconNow n)) with
    beaconOut := some (s.beaconNow n) }).bump 2
def execBeaconSend (n : Fin 39) (s : State) : Host.Outcome State Fault Refusal := .next (beaconSend n.val s)

end Sys2Proof.Machine
end

