-- ==== Sys2Proof/Machine/Links.lean ====
section
/-! DEFINITION. Ports (R278 to R283, R288 to R292, R295, R299 to R308): lit lanes, training, identity exchange, replay, loss,
darkness, withdrawal and adoption. Packets that arrive are in `Machine/Remote.lean`. -/

namespace Sys2Proof.Machine

/-! ### Packets that cannot go on -/

/-- Type of the response to a request (Table 13.9). -/
def respType (t : BitVec 8) : Option (BitVec 8) :=
  if t = tyRead then some tyReadResp else if t = tyWrite ∨ t = tyAtomic then some tyAck
  else if t = tyGather then some tyGatherResp else none
/-- Sends the response to a request on its channel, on channel 14 to one of channel 13 (R330); ADDR is echoed. -/
def State.respond (s : State) (k : Packet) (st : BitVec 16) (data : List (BitVec 256)) (poison : BitVec 16) : State :=
  match respType k.typ with
  | none => s
  | some t => (s.send { mkPacket t (if k.vc = 13 then 14 else k.vc) s.lnk.chip k.src with
      tag := k.tag, spart := k.spart, status := st, addr := k.addr, len := BitVec.ofNat 5 data.length, data := data, poison := poison }).1
/-- A packet completes to its source with a status (R292, R297): at this device, or by a response. A collective segment of this
device ends the collectives with the chip that it was for. -/
def State.bounce (s : State) (k : Packet) (st : BitVec 16) : State :=
  if k.src = s.lnk.chip then
    if k.typ = tyColl then s.collChipLost k.dst.toNat
    else if (respType k.typ).isSome then (s.reqDone k.tag st [] 0).1 else s
  else s.respond k st [] 0

/-! ### A chip is lost (R293, R326, R332, R443) -/

/-- A chip is lost: the collectives with it end (R326), and the re-shard records for which it has a source's answer or rows still
to give (R332). -/
def State.chipLost (s : State) (chip : BitVec 14) : State :=
  ((s.parts.map (·.1)).foldl (fun (s : State) p => s.modPt p fun P => { P with reshPlan := P.reshPlan.map fun q =>
      let due : Nat → Bool := fun i => if q.ready then q.jobs.any fun j => decide (j.1 = i) else !q.got.any fun g => decide (g.1 = i)
      let hit := q.asked && (List.range q.cur.ranges.length).any fun i => (match q.cur.ranges[i]? with
        | some (c, _) => decide (c = chip) && due i
        | none => false)
      let st := if hit && decide (q.status = 0) then stChipLost else q.status
      { q with status := st } }) s).collChipLost chip.toNat
/-- A failure notice: requests to the chip, collectives and re-shard records with it end. -/
def failureNotice (chip : BitVec 14) (s : State) : State :=
  if !s.live then s else
  let tags := (s.lnk.reqs.filter fun r => decide (r.chip = chip)).map (·.tag)
  (tags.foldl (fun s t => (s.reqDone t stChipLost [] 0).1) s).chipLost chip

/-! ### Lit lanes (R281, R282) -/

/-- Optical engine of a port (Table 13.1). -/
def engineOf (n : Nat) : Option Nat := if n < 7 then none else some ((n - 7) / 8)
/-- A port that failed self-test, itself or with its engine (R441). -/
def State.badPort (s : State) (n : Nat) : Bool :=
  s.glb.badPorts.contains n || (match engineOf n with | some e => s.glb.badOptical.contains e | none => false)
/-- The optical tiers are dark, or on their way (R406). -/
def State.opticalDark (s : State) : Bool :=
  s.pwr.trans.contains (.device 2) || (decide (s.pwr.dev = 2) && !s.pwr.trans.contains (.device 0))
/-- L of a tier: 1 group, 2 machine. -/
def State.tierLit (s : State) (t : Nat) : Nat :=
  let o := if t = 1 then s.lnk.groupLit else s.lnk.machineLit
  if o = 1 then 8 else if o = 2 then 16 else if o = 3 then 32 else if t = 2 && !s.lnk.mode then 8 else 32
/-- Lanes that this end lights on a port: none where no neighbour is expected (R301). -/
def State.litTarget (s : State) (n : Nat) : BitVec 4 :=
  if n < 7 then 8
  else if s.badPort n || s.opticalDark || decide ((s.po n).expectChip = 0x3FFF) then 0
  else
    let l := s.tierLit (tierOf n)
    let i := (n - 7) % 16
    if l = 32 then 2 else if l = 16 then 1 else if i < 8 then 1 else 0

/-! ### Links begin and end -/

/-- What a link forgets when it ends. (log 11, DESIGN CHOICE) -/
def Port.linkReset (p : Port) : Port :=
  { p with
    replay := [], txq := [], resend := false, rxPart := [], owed := [], stops := [], drrAt := 0, drrLeft := [], drrVc := []
    rising := false, fading := none, failReplays := 0, failTrains := 0, darkNote := false
    withdrawn := false, identCount := 0, identLast := none, bSeen := false }
/-- Buffers of the peer, Table 13.10. -/
def credPools (n : Nat) : Map Nat := (List.range 32).filterMap fun i => if tierOf n = 2 ∧ i % 2 = 1 then none else some (i, 128)
def credShare (n : Nat) : Nat := if tierOf n = 0 then 2048 else 8192
/-- Lanes begin to train on a link that starts anew. -/
def State.beginTraining (s : State) (n : Nat) : State :=
  (s.modPo n fun p => { p.linkReset with
    st := .training, lanes := 0, txSeq := 0, rxSeq := 0
    credShared := credShare n, credDed := credPools n, peerShared := credShare n, peerDed := credPools n }).chooseParent
/-- The lanes of a port train again; its replay buffer and queues stay (R292). -/
def State.retrainLanes (s : State) (n : Nat) : State :=
  ((s.modPo n fun p => { p with
    st := .training, lanes := 0, rising := false, failReplays := 0, failTrains := p.failTrains + 1, identCount := 0
    identLast := none, bSeen := false }).chooseParent).trace .retrain
/-- The identity exchange starts again on trained lanes. -/
def State.reIdentify (s : State) (n : Nat) : State :=
  (s.modPo n fun p => { p with st := .training, identCount := 0, identLast := none, bSeen := false }).chooseParent
/-- A fabric event that names the neighbour; a port that is lost has status CHIP_LOST, a withdrawal none (R292, R442). (log 47,
DEDUCED) -/
def State.portNote (s : State) (n : Nat) (st : BitVec 16) : State :=
  s.note .portState 0xFF st [BitVec.ofNat 64 n, (s.po n).foundChip.setWidth 64]
/-- A port goes DOWN or DARK: what it still holds completes to its source with CHIP_LOST; `ev` is the status of its event, if it
has one. (log 47, DEDUCED) -/
def State.portEnd (s : State) (n : Nat) (dark : Bool) (ev : Option (BitVec 16)) : State :=
  let p := s.po n
  let lost := p.replay.flatMap (·.pkts) ++ p.txq
  let s1 := s.modPo n fun p => { p.linkReset with st := if dark then .dark else .down, lanes := 0, darkNote := dark && p.darkNote }
  let s2 := (lost.foldl (fun s k => s.bounce k stChipLost) s1).chooseParent
  match ev with
  | some st => s2.portNote n st
  | none => s2.trace .portState
/-- A failure notice on channel 15 that names a chip, over every ACTIVE port (R443, R469). (log 47, DEDUCED) -/
def State.failNotice (s : State) (chip : BitVec 14) : State := s.tellPorts (List.range 39) 15 [chip.setWidth 64]
/-- A port has carried packets on its link: it is ACTIVE, or it trains its lanes again (R292). -/
def Port.served (p : Port) : Bool := decide (p.st = .active) || (decide (p.st = .training) && (decide (0 < p.failTrains) || !p.replay.isEmpty))
/-- A port goes DOWN under R292; its neighbour may have gone, which the others are told (R443), and which this device takes as it
takes a notice (R326, R332). (log 47, DEDUCED) -/
def State.portLost (s : State) (n : Nat) : State :=
  let s1 := s.portEnd n false (some stChipLost)
  if (s.po n).served then failureNotice (s.po n).foundChip (s1.failNotice (s.po n).foundChip) else s1
/-- A port that drains and has drained goes DARK (R283), or DOWN as a withdrawal (R442). -/
def State.drainCheck (s : State) (n : Nat) : State :=
  let p := s.po n
  if decide (p.st ≠ .active) || !p.replay.isEmpty || !p.txq.isEmpty then s
  else if p.lit = 0 then s.portEnd n true none
  else if p.withdrawn then s.portEnd n false (some 0)
  else s
/-- Brings a port to the lanes that are commanded (R283): lanes that go off carry nothing new at once, and are off when the last
flit sent on them has been acknowledged. A port that trains again with flits unacknowledged drains once it is back. -/
def State.setLit (s : State) (n : Nat) : State :=
  let p := s.po n
  let t := s.litTarget n
  if t = p.lit then s else
  let s1 := s.modPo n fun p => { p with lit := t }
  if t = 0 then
    match p.st with
    | .active => s1.drainCheck n
    | .training | .quarantine => if p.replay.isEmpty && p.txq.isEmpty then s1.portEnd n true none else s1
    | _ => s1
  else if p.lit = 0 then (if decide (p.st = .dark) && !p.darkNote then s1.beginTraining n else s1)
  else if t.toNat < p.lanes.toNat then s1.modPo n fun p => { p with lanes := t, fading := p.replay.getLast?.map (·.seq) }
  else s1.modPo n fun p => { p with rising := decide (p.lanes.toNat < t.toNat) && (decide (p.st = .active) || decide (p.st = .quarantine)) }
/-- The same for every optical port. -/
def State.setAllLit (s : State) : State := (List.range 32).foldl (fun s i => s.setLit (i + 7)) s
/-- Fabric ports begin training at step 16 of the boot (R432): those with lit lanes; failed ones are DOWN. -/
def State.startPorts (s : State) : State :=
  (List.range 39).foldl (fun (s : State) n =>
    if s.badPort n then s.modPo n fun p => { p with st := .down }
    else
      let t := s.litTarget n
      if t = 0 then s else (s.modPo n fun p => { p with lit := t }).beginTraining n) s

/-! ### Training (R300 to R302, R304, R307) -/

/-- Electrical or optical training ends with some lanes; a port in service takes lanes that were lit anew. (log 47, DEDUCED) -/
def laneTrained (n : Nat) (lanes : BitVec 4) (s : State) : State :=
  let p := s.po n
  let k := if p.lit = 0 ∧ p.st = .training ∧ p.served then lanes else if p.lit.toNat < lanes.toNat then p.lit else lanes
  if !s.live || decide (k = 0) then s else
  match p.st with
  | .training => if p.lanes = 0 then s.modPo n fun p => { p with lanes := k, identCount := 0, identLast := none } else s
  | .quarantine | .active => s.modPo n fun p => { p with lanes := if p.lanes.toNat < k.toNat then k else p.lanes, rising := false }
  | _ => s
def execLaneTrained (n : Fin 39) (lanes : BitVec 4) (s : State) : Host.Outcome State Fault Refusal := .next (laneTrained n.val lanes s)

/-- The found neighbour is not the expected one (R302). -/
def State.mismatched (s : State) (n : Nat) (i : Ident) : Bool :=
  let p := s.po n
  decide (i.chip ≠ p.expectChip) || decide (i.port ≠ p.expectPort)
    || (decide (n < 7) && decide (i.slot.toNat ≠ (s.pwr.slotId.toNat + n + 1) % 8))
/-- Three identical identities: the port enters ACTIVE or QUARANTINE. -/
def State.identified (s : State) (n : Nat) (i : Ident) : State :=
  let mm := s.mismatched n i
  let q := mm || decide (s.lnk.chip = 0x3FFF) || decide (i.chip = 0x3FFF)
  let own := s.fw.lpl.toNat
  let odd := decide (i.lpl = 0) || decide (4 ≤ i.lpl.toNat)
  let peer := if odd then 3 else i.lpl.toNat
  let s1 := s.modPo n fun p => { p with
    st := if q then .quarantine else .active
    lpl := BitVec.ofNat 8 (if own < peer then own else peer)
    lanes := if i.lanes ≠ 0 ∧ i.lanes.toNat < p.lanes.toNat then i.lanes.setWidth 4 else p.lanes
    foundChip := i.chip, foundPort := i.port, foundSlot := i.slot, mismatch := mm }
  let s2 := if q || odd then s1.portNote n 0 else s1.trace .portState
  if q then s2 else ((s2.pumpPort n false []).chooseParent).drainCheck n
/-- A port that carries training flits (R299, R300). -/
def Port.trains (p : Port) : Bool := (decide (p.st = .training) || decide (p.st = .quarantine)) && decide (p.lanes ≠ 0)
/-- A training flit; one on a QUARANTINE port changes its state no more (R302). (log 47, DEDUCED) -/
def trainingFlit (n : Nat) (i : Ident) (s : State) : State :=
  let p := s.po n
  if !s.live || !p.trains then s else
  let k := if p.identLast = some i then p.identCount + 1 else 1
  let s1 := s.modPo n fun p => { p with identLast := some i, identCount := k }
  if 3 ≤ k ∧ p.st = .training then s1.identified n i else s1
def execTrainingFlit (n : Fin 39) (i : Ident) (s : State) : Host.Outcome State Fault Refusal := .next (trainingFlit n.val i s)
/-- The slots of a training flit: the identity fields in bytes 8 to 15 (Table 13.13). -/
def identSlots (i : Ident) : BitVec 1920 :=
  BitVec.setWidth 1920 (i.chip ++ i.port ++ i.slot ++ i.lpl ++ i.lanes ++ (0 : BitVec 26))
/-- Every 1 µs a port in identity exchange, or in QUARANTINE, sends its identity (Table 13.13, R299). (log 65, DESIGN CHOICE) -/
def trainingFlitSend (n : Nat) (s : State) : State :=
  let p := s.po n
  if !s.live || !p.trains then s else
  let i : Ident := { chip := s.lnk.chip, port := BitVec.ofNat 6 n, slot := s.pwr.slotId, lpl := s.fw.lpl, lanes := p.lit.setWidth 7 }
  s.modPo n fun p => { Port.sendFlit { p with sent := [] } 3 0 false (identSlots i) with identOut := some i }
def execTrainingFlitSend (n : Fin 39) (s : State) : Host.Outcome State Fault Refusal := .next (trainingFlitSend n.val s)
/-- The identity exchange is incomplete 10 ms after the lanes trained; so is that of a slot where no lane trains (R444). (log 47,
DEDUCED) -/
def execIdentityTimeout (n : Fin 39) (s : State) : Host.Outcome State Fault Refusal :=
  .next (if s.live && decide ((s.po n.val).st = .training) then s.portLost n.val else s)

/-! ### Loss (R292, R406) -/

/-- Every lane loses signal. -/
def laneSignalLoss (n : Nat) (s : State) : State :=
  let p := s.po n
  if !s.live then s else
  match p.st with
  | .training | .quarantine | .active => if p.darkNote then s.portEnd n true none else s.portLost n
  | _ => s
def execLaneSignalLoss (n : Fin 39) (s : State) : Host.Outcome State Fault Refusal := .next (laneSignalLoss n.val s)
/-- 2 µs without a good flit outside a retrain. -/
def portSilence (n : Nat) (s : State) : State :=
  let p := s.po n
  if s.live && (decide (p.st = .active) || decide (p.st = .quarantine)) && !p.darkNote then s.portLost n else s
def execPortSilenceTimeout (n : Fin 39) (s : State) : Host.Outcome State Fault Refusal := .next (portSilence n.val s)
/-- The peer announces darkness: the port is not chosen any longer. -/
def execDarkNotice (n : Fin 39) (s : State) : Host.Outcome State Fault Refusal :=
  .next (if s.live && decide ((s.po n.val).st = .active) then s.modPo n.val fun p => { p with darkNote := true } else s)
/-- Light returns on a port held DARK after a dark notice. -/
def execLaneLightDetect (n : Fin 39) (s : State) : Host.Outcome State Fault Refusal :=
  .next (let p := s.po n.val
         if s.live && decide (p.st = .dark) && p.darkNote && decide (p.lit ≠ 0) then s.beginTraining n.val else s)
/-- The peer withdraws: the port drains and goes DOWN. -/
def execWithdrawalMessage (n : Fin 39) (s : State) : Host.Outcome State Fault Refusal :=
  .next (if s.live && decide ((s.po n.val).st = .active) then
    (s.modPo n.val fun p => { p with withdrawn := true }).drainCheck n.val else s)

/-! ### Flit headers (R292, R295) -/

/-- The fields of bytes 0 to 7 (Table 13.5). -/
def flitHdr (h : BitVec 64) : FlitHdr :=
  { kind := h.extractLsb' 12 4, seq := h.extractLsb' 0 12, nak := h.getLsbD 28, ack := h.extractLsb' 16 12, cvc := h.extractLsb' 60 4
    ccls := h.getLsbD 59, cded := h.extractLsb' 50 9, cshr := h.extractLsb' 40 10 }
/-- CRC-32C over bytes 0 to 247 (R292). -/
def crcOk (f : RawFlit) : Bool := f.crc == crc32c (leBytes 8 f.head.toNat ++ leBytes 240 f.slots.toNat)
/-- Symbols that RS(544,514) corrected on an optical or robust port; on a board port in low-latency mode the one burst that the
check bytes can correct (R289). -/
def State.fecCount (s : State) (n fixed : Nat) : Nat := if n < 7 ∧ !s.lnk.boardRobust then (if fixed = 0 then 0 else 1) else fixed
/-- Counts corrections (R457); the record of a port has no address (R462). (log 55, DEDUCED) -/
def State.fecAdd (s : State) (n fixed : Nat) : State :=
  if fixed = 0 then s else (s.modPo n fun p => { p with fec := satAdd p.fec (s.fecCount n fixed) }).fixNote 5 n (s.fecCount n fixed) 0
/-- Flits up to ACK leave the replay buffer; lanes go off with the last flit that was sent on them. (log 46, DEDUCED) -/
def Port.acked (p : Port) (ack : BitVec 12) : Port :=
  match p.replay.findIdx? fun f => decide (f.seq = ack) with
  | some i =>
    let left := p.replay.drop (i + 1)
    { p with replay := left, resend := false, failReplays := 0, failTrains := 0
             fading := p.fading.filter fun q => left.any fun f => decide (f.seq = q) }
  | none => p
/-- Credits that the peer returns. (log 46, DEDUCED) -/
def Port.credited (p : Port) (h : FlitHdr) : Port :=
  let k := 2 * h.cvc.toNat + bool2 h.ccls
  { p with credDed := mset 0 p.credDed k (mget 0 p.credDed k + h.cded.toNat), credShared := p.credShared + h.cshr.toNat }
/-- The acknowledgement, the NAK and the credits of a flit with a good CRC: after 8 failed replays of a flit the lanes train
again, after 3 failed retrains the port goes DOWN. (log 46, DEDUCED) -/
def State.flitHead (s : State) (n : Nat) (h : FlitHdr) (nak : Bool) : State :=
  let p := ((s.po n).acked h.ack).credited h
  if h.nak && !p.replay.isEmpty then
    if p.failReplays < 8 then (s.setPo n { p with
      resend := true, failReplays := p.failReplays + 1, replays := satAdd p.replays p.replay.length } |>.fixNote 5 n p.replay.length 0).pumpPort
        n nak (p.replay.map (·.seq))
    else if p.failTrains < 3 then (s.setPo n p).retrainLanes n
    else (s.setPo n p).portLost n
  else ((s.setPo n p).pumpPort n nak []).drainCheck n
/-- A flit that fails its CRC: it is counted, and an ACTIVE port sends NAK. (log 46, DEDUCED) -/
def State.badFlit (s : State) (n : Nat) : State :=
  let s1 := s.modPo n fun p => { p with crcFail := satAdd p.crcFail 1 }
  if (s.po n).st = .active then s1.pumpPort n true [] else s1

/-! ### Commands of the host -/

/-- RETRAIN of a DOWN or QUARANTINE port. -/
def retrainNow (n : Nat) (s : State) : State :=
  let p := s.po n
  if s.nightwatch && (decide (p.st = .down) || decide (p.st = .quarantine)) && !s.badPort n then
    let t := s.litTarget n
    if t = 0 then s.modPo n fun p => { p.linkReset with st := .dark, lanes := 0, lit := 0 }
    else ((s.modPo n fun p => { p with lit := t }).beginTraining n).trace .retrain
  else s
def retrain (n : Nat) (s : State) : State := s.orWait (.retrain ⟨n % 39, Nat.mod_lt _ (by decide)⟩) (retrainNow n)
def execRetrain (n : Fin 39) (s : State) : Host.Outcome State Fault Refusal := .next (retrain n.val s)

/-- Identity exchange starts again on every port whose lanes are trained. -/
def State.reIdentifyAll (s : State) : State :=
  (List.range 39).foldl (fun (s : State) n =>
    let p := s.po n
    if decide (p.lanes ≠ 0) && (decide (p.st = .training) || decide (p.st = .quarantine) || decide (p.st = .active)) then s.reIdentify n else s) s
/-- LNK_CHIP_ASSIGN (R287): only in the open state and while no number is assigned. -/
def chipAssignNow (chip : BitVec 14) (s : State) : State :=
  if s.nightwatch && decide (s.lnk.chip = 0x3FFF) && decide (chip ≠ 0x3FFF) && !s.grd.enrolled && !s.grd.locked then
    (s.setLnk { s.lnk with chip := chip } : State).reIdentifyAll.chooseParent
  else s
def chipAssign (chip : BitVec 14) (s : State) : State := s.orWait (.chip chip) (chipAssignNow chip)
def execChipAssign (chip : BitVec 14) (s : State) : Host.Outcome State Fault Refusal := .next (chipAssign chip s)

/-- Ports that LNK_ADOPT acts on: in QUARANTINE with MISMATCH. -/
def State.adopted (s : State) (mask : BitVec 39) : List Nat :=
  (List.range 39).filter fun n => mask.getLsbD n && decide ((s.po n).st = .quarantine) && (s.po n).mismatch
/-- The port on which a neighbour was found; 63 for none. -/
def State.foundOn (s : State) (chip : BitVec 14) (port : BitVec 6) : Nat :=
  match (List.range 39).find? fun m => decide ((s.po m).foundChip = chip) && decide ((s.po m).foundPort = port) && decide (chip ≠ 0x3FFF) with
  | some m => m
  | none => 63
/-- A route entry with its port identifiers replaced. -/
def mapRoute (f : Nat → Nat) (e : BitVec 32) : BitVec 32 :=
  BitVec.ofNat 32 ((List.range 4).foldl (fun v i =>
    v - bitsOf v (6 * i + 11) (6 * i + 6) * 2 ^ (6 * i + 6) + f (bitsOf v (6 * i + 11) (6 * i + 6)) % 64 * 2 ^ (6 * i + 6)) e.toNat)
/-- LNK_ADOPT (R303). -/
def adoptNow (mask : BitVec 39) (s : State) : State :=
  if !s.nightwatch then s else
  let ns := s.adopted mask
  if ns = [] then s else
  let moved := ns.filter fun n => decide ((s.po n).expectChip ≠ (s.po n).foundChip) || decide ((s.po n).expectPort ≠ (s.po n).foundPort)
  let goal := fun n => if moved.contains n then s.foundOn (s.po n).expectChip (s.po n).expectPort else n
  let s1 : State := s.setLnk { s.lnk with 
    routes := s.lnk.routes.foldl (fun m kv => mset routeNone m kv.1 (mapRoute goal kv.2)) [] }
  let s2 := ns.foldl (fun (s : State) n => s.modPo n fun p => { p with expectChip := p.foundChip, expectPort := p.foundPort }) s1
  (ns.foldl (fun (s : State) n => s.reIdentify n) s2).trace .adopt
def adopt (mask : BitVec 39) (s : State) : State := s.orWait (.adopt mask) (adoptNow mask)
def execAdopt (ports : BitVec 39) (s : State) : Host.Outcome State Fault Refusal := .next (adopt ports s)

/-- A port has reached its commanded lanes (R283): dark ones are off; lit ones have trained and what went off is acknowledged. A
port that is DOWN, or whose peer is dark, has no change in progress. (log 47, DEDUCED) -/
def Port.reached (p : Port) : Bool :=
  if p.lit = 0 then decide (p.st = .dark) || decide (p.st = .down)
  else decide (p.st = .down) || (decide (p.st = .dark) && p.darkNote)
    || (decide (p.st ≠ .dark) && decide (p.lanes ≠ 0) && !p.rising && p.fading.isNone)
/-- LNK_MODE takes effect (R282, R283); BUSY until every port has its commanded lanes. -/
def State.applyMode (s : State) (v : BitVec 32) : State :=
  let s1 : State := s.setLnk { s.lnk with
    boardRobust := v.getLsbD 30, machineLit := v.extractLsb' 6 2, groupLit := v.extractLsb' 4 2, mode := v.getLsbD 0 }
  let change := (List.range 32).any fun i => decide (s1.litTarget (i + 7) ≠ (s1.po (i + 7)).lit)
  let s2 := s1.setAllLit
  (s2.setLnk { s2.lnk with busy := change })
/-- Writes that waited take effect one after the other, until one begins a change. -/
def applyModes : List (BitVec 32) → State → State
  | [], s => s
  | v :: vs, s =>
    let s1 := s.applyMode v
    if s1.lnk.busy then s1.setLnk { s1.lnk with pendMode := vs } else applyModes vs s1
/-- A write of LNK_MODE; while BUSY is 1 it waits. -/
def litLanesNow (v : BitVec 32) (s : State) : State :=
  if !s.nightwatch then s
  else if s.lnk.busy then s.setLnk { s.lnk with pendMode := s.lnk.pendMode ++ [v] }
  else s.applyMode v
def litLanesChange (v : BitVec 32) (s : State) : State := s.orWait (.lnkMode v) (litLanesNow v)
def execLitLanesChange (value : BitVec 32) (s : State) : Host.Outcome State Fault Refusal := .next (litLanesChange value s)
/-- Every optical port has reached its commanded lanes: one that darkens is DARK once it has drained. -/
def laneChangeDone (s : State) : State :=
  if !s.nightwatch || !s.lnk.busy then s else
  let s1 := (List.range 39).foldl (fun (s : State) n => s.drainCheck n) s
  if (List.range 32).all fun i => (s1.po (i + 7)).reached then
    applyModes s1.lnk.pendMode (s1.setLnk { s1.lnk with busy := false, pendMode := [] })
  else s1
def execLaneChangeDone (s : State) : Host.Outcome State Fault Refusal := .next (laneChangeDone s)

/-! ### Timeouts (R293) -/

/-- A response that has not come within LNK_TIMEOUT: its chip is lost (R293, R326). (log 47, DEDUCED) -/
def requestTimeout (tag : BitVec 16) (s : State) : State :=
  if !s.live then s else
  match s.lnk.reqs.find? fun r => decide (r.tag = tag) with
  | none => s
  | some r => (s.reqDone tag stChipLost [] 0).1.chipLost r.chip
end Sys2Proof.Machine
end

