-- ==== Sys2Proof/Machine/Tick.lean ====
section
/-! DEFINITION. The passing of time on an empty queue (R309, R445, Table 20.1). -/

namespace Sys2Proof.Machine

/-- Root-clock periods of 0.1 ns in one CLK_A cycle (Table 20.1). (log 4, DESIGN CHOICE) -/
def clkADiv (g : BitVec 2) : Nat := if g = 0 then 8 else if g = 1 then 10 else 16

/-- The Meridian counter after one more period of CLK_T: one tick, or two or none while a slew is due (R312). (log 4, DESIGN CHOICE) -/
def merNext (m : Mer) (t : Word) : Mer × Word :=
  if m.slewWait = 0 && decide (m.slew ≠ 0) then
    if 0 < m.slew then ({ m with slew := m.slew - 1, slewWait := 1023 }, t + 2)
    else ({ m with slew := m.slew + 1, slewWait := 1023 }, t)
  else ({ m with slewWait := m.slewWait - 1 }, t + 1)

/-- A tick of a gear change: at the end of its hold the dividers switch (R447). -/
def gearTick (k : Clk) : Clk :=
  let n := k.since + 1
  if n = k.holdEnd then { k with since := n, gear := k.goal, frac := 0 } else { k with since := n }
/-- One period of CLK_T, 8 root periods, on every clock while the root PLL is locked (R446, R456). (log 4, DESIGN CHOICE) -/
def idleTick (s : State) : State :=
  if s.pwr.rails && s.clk.pllLock then
    let mt := merNext s.mer s.clk.merTick
    let tot := s.clk.frac + 8
    let k := { s.clk with
      merTick := mt.2, roots := s.clk.roots + 8, clkA := s.clk.clkA + tot / clkADiv s.clk.gear, frac := tot % clkADiv s.clk.gear }
    ((s.setMer mt.1).setClk (if k.changing then gearTick k else k))
  else s

end Sys2Proof.Machine
end

