-- ==== Sys2Proof/Machine/Power.lean ====
section
/-! DEFINITION. Power states (R401 to R412, R442, R447 to R450), the cap loop (R413 to R417, R425 to R427), droop (R420) and
temperature (R216 to R218, R421 to R423). -/

namespace Sys2Proof.Machine

/-! ### Rails -/

/-- Every rail is removed (R407, R423, R430): what stays is the flash, the pins, the trip latch and the world outside. A slot or
image write that power cuts short leaves its target invalid (R393, R440). (log 5, DESIGN CHOICE; log 52, DEDUCED) -/
def State.railsOff (s : State) : State :=
  let f := match s.fw.write with
    | some (b, x) => s.flash.setSlot b { x with valid := false }
    | none => s.flash
  let f1 := match s.cfg.write with
    | some x => if f.chosen then { f with img0 := { x with headerOk := false } } else { f with img1 := { x with headerOk := false } }
    | none => f
  { State.reset with
    pending := s.pending, flash := f1, freeTick := s.freeTick
    pwr := { Pwr.reset with pins := s.pwr.pins, charged := s.pwr.charged, trip := s.pwr.trip }
    hif := { Hif.reset with aer := s.hif.aer }
    mem := { Mem.reset with hostMem := s.mem.hostMem } }

/-! ### Commands (R402 to R404) -/

/-- The word of PWR_CMD (Table 18.3). -/
def pwrWord (target state first count mask : Nat) : Word :=
  BitVec.ofNat 64 (target % 16 * 2 ^ 60 + state % 16 * 2 ^ 56 + first % 1024 * 2 ^ 46 + count % 2048 * 2 ^ 35 + mask % 16)
/-- A unit refuses. -/
def State.refuse (s : State) (u : Nat) (st : BitVec 16) : State := s.setPwr { s.pwr with refused := s.pwr.refused ++ [(u, st)] }
def State.addTrans (s : State) (t : Trans) : State := s.setPwr { s.pwr with trans := s.pwr.trans ++ [t] }
/-- Groups with a drain or a fill in progress. -/
def State.groupsMoving (s : State) : Bool := s.mem.groups.any fun kv => kv.2.drain.isSome || kv.2.filling
/-- Status of the lowest-numbered refusal; zero for none. -/
def lowestRefusal (rs : List (Nat × BitVec 16)) : BitVec 16 :=
  match rs.foldl (fun (o : Option (Nat × BitVec 16)) x => match o with
    | none => some x
    | some y => if x.1 < y.1 then some x else some y) none with
  | some x => x.2
  | none => 0
/-- The command has ended once no unit is under way. -/
def State.pwrSettle (s : State) : State :=
  if !s.pwr.busy || s.pwr.quiescing || s.pwr.removing || !s.pwr.trans.isEmpty || s.groupsMoving then s
  else
    let n := s.pwr.refused.length
    (s.setPwr { s.pwr with
      busy := false, refused := [], result := lowestRefusal s.pwr.refused, failed := BitVec.ofNat 10 (if 1023 < n then 1023 else n) })

/-! ### Clusters (R408) -/

/-- A cluster's state code. -/
def ClState.code : ClState → Nat
  | .run => 0 | .gated => 1 | .retain => 2 | .off => 3
def clStateOf (n : Nat) : Option ClState :=
  if n = 0 then some .run else if n = 1 then some .gated else if n = 2 then some .retain else if n = 3 then some .off else none
/-- Transitions of Table 18.1. (log 20, DEDUCED; log 52, DEDUCED) -/
def clMove (a b : ClState) : Bool :=
  match a, b with
  | .run, .gated | .gated, .run | .run, .retain | .retain, .run | .off, .run => true
  | _, .off => true
  | _, _ => false
/-- CLK_A cycles of a cluster since power-up, OFF left out (Table 20.5). -/
def State.cycles (s : State) (c : Nat) : Nat :=
  match (s.cl c).cycFrozen, (s.cl c).cycLeft with
  | some v, _ => v
  | none, some (v, r, g) => v + (s.clk.roots - r) / clkADiv g
  | none, none => ((s.clk.clkA : Int) - (s.cl c).cycOff).toNat
/-- A VALID window covers some of the lines from lo below hi. -/
def Cluster.covers (x : Cluster) (lo hi : Nat) : Bool :=
  x.win.any fun kv => winValid kv.2 && decide (0 < winBound kv.2) && decide (winBase kv.2 < hi) && decide (lo < winBase kv.2 + winBound kv.2)
/-- A task runs on the cluster and has not been parked. -/
def State.clusterRuns (s : State) (c : Nat) : Bool := match s.taskOn c with | some t => decide (t.st ≠ .parked) | none => false
/-- The clamp is asserted while a cluster suppresses issue; an emergency that came of it ends with it (R420). -/
def State.clampSettle (s : State) : State :=
  let more := s.clusters.any fun kv => kv.2.droop
  s.setPwr { s.pwr with clamp := more, clampLong := s.pwr.clampLong && more }
/-- A cluster leaves RUN, or is switched OFF, when the command is taken; it enters RUN when its transition ends. -/
def State.clusterLeave (s : State) (c : Nat) (goal : ClState) : State :=
  let n := s.cycles c
  match goal with
  | .run => s
  | .off => (s.modCl c fun x => { x with
      cstate := .off, cycFrozen := some n, cycLeft := none, units := [], cores := [], seq := Seq.reset, coll := CollEng.reset, droop := false }
      : State).clampSettle
  | st => s.modCl c fun x => { x with cstate := st, cycLeft := some (n, s.clk.roots, s.clk.gear) }
/-- One cluster of a command. (log 20, DEDUCED) -/
def State.clusterCmd (s : State) (code c : Nat) : State :=
  match clStateOf code with
  | none => s.refuse c stStateOrder
  | some goal =>
    let x := s.cl c
    if s.glb.badClusters.contains c then s.refuse c stStateOrder
    else if x.cstate = goal then s
    else if !clMove x.cstate goal then s.refuse c stStateOrder
    else if decide (x.cstate = .run) && s.clusterRuns c then s.refuse c stClusterBusy
    else if decide (goal = .off) && x.covers 0 24576 then s.refuse c stClusterBusy
    else (s.clusterLeave c goal).addTrans (.cluster c goal)
/-- The end of a cluster's transition. (log 20, DEDUCED) -/
def State.clusterDone (s : State) (c : Nat) (goal : ClState) : State :=
  if goal = .run then
    let n := s.cycles c
    s.modCl c fun x => { x with cstate := .run, cycOff := (s.clk.clkA : Int) - (n : Int), cycFrozen := none, cycLeft := none }
  else s

/-! ### Segments (R121, R122) -/

/-- Zero-fills a segment with clean check bits. -/
def Cluster.zeroSeg (x : Cluster) (g : Nat) : Cluster :=
  let lo := 786432 * g
  let out : Nat → Bool := fun a => decide (a < lo) || decide (lo + 786432 ≤ a)
  { x with
    spad := x.spad.filter fun kv => out kv.1
    spadPoison := x.spadPoison.filter fun kv => out (8 * kv.1)
    spadFlaw := x.spadFlaw.filter fun kv => out (8 * kv.1) }
def setBit4 (m : BitVec 4) (i : Nat) (v : Bool) : BitVec 4 := if v then m ||| (1#4 <<< i) else m &&& ~~~(1#4 <<< i)
/-- One segment of a command; its unit number is 4 x cluster + segment. (log 52, DEDUCED) -/
def State.segmentCmd (s : State) (code c g : Nat) : State :=
  let u := 4 * c + g
  let x := s.cl c
  if 1 < code ∨ s.glb.badClusters.contains c ∨ s.glb.badSegs.contains (c, g) then s.refuse u stStateOrder
  else if code = 0 then (if x.segOn.getLsbD g then s else s.addTrans (.segment c g true))
  else if !x.segOn.getLsbD g then s
  else if x.covers (6144 * g) (6144 * (g + 1)) then s.refuse u stSegInUse
  else (s.modCl c fun x => { x.zeroSeg g with segOn := setBit4 x.segOn g false }).addTrans (.segment c g false)
def State.segmentDone (s : State) (c g : Nat) (on : Bool) : State :=
  if on then s.modCl c fun x => { x.zeroSeg g with segOn := setBit4 x.segOn g true } else s

/-! ### Vault groups (R409 to R412) -/

/-- A defined partition maps an extent of the group. -/
def State.groupMapped (s : State) (g : Nat) : Bool :=
  s.parts.any fun kv => kv.2.defined && (kv.2.extents.any fun e => bitOf e.2.toNat 63 && decide (bitsOf e.2.toNat 16 10 / 2 = g))
/-- Contents of a group are lost. -/
def State.groupClear (s : State) (g : Nat) : State :=
  let lo := g * 2 ^ 31
  let out : Nat → Bool := fun a => decide (a < lo) || decide (lo + 2 ^ 31 ≤ a)
  (s.setMem { s.mem with
    dram := s.mem.dram.filter fun kv => out kv.1
    poison := s.mem.poison.filter fun kv => out (32 * kv.1)
    flaw := s.mem.flaw.filter fun kv => out (32 * kv.1)
    cipher := s.mem.cipher.filter fun x => out (2 ^ 30 * x.1)
    opened := s.mem.opened.filter fun k => out (32 * k) })
/-- One group of a command. (log 52, DEDUCED) -/
def State.groupCmd (s : State) (code g : Nat) : State :=
  let v := s.grp g
  if 2 < code ∨ s.glb.badGroups.contains g ∨ v.drain.isSome ∨ v.filling then s.refuse g stStateOrder
  else if code = 0 then match v.st with
    | .active => s
    | .selfRefresh => s.addTrans (.group g .active)
    | .off => s.modGrp g fun v => { v with st := .active, filling := true }
  else if code = 1 then match v.st with
    | .active => (s.modGrp g fun v => { v with drain := some .selfRefresh }).trace .drain
    | .selfRefresh => s
    | .off => s.refuse g stStateOrder
  else match v.st with
    | .off => s
    | _ => if s.groupMapped g then s.refuse g stGroupMapped else (s.modGrp g fun v => { v with drain := some .off }).trace .drain
/-- The outstanding-request counters have reached zero: requests of this model complete in their own command, so the row is the
only place where they count. (log 52, DEDUCED) -/
def drainComplete (g : Nat) (s : State) : State :=
  match (s.grp g).drain with
  | none => s
  | some st =>
    let s1 := s.modGrp g fun v => { v with st := st, drain := none, filling := false }
    (if st = .off then s1.groupClear g else s1).pwrSettle
def execDrainComplete (g : Fin 64) (s : State) : Host.Outcome State Fault Refusal :=
  .next (if s.nightwatch then drainComplete g.val s else s)
/-- 50 µs pass: the group stays in its old state; within LOW that is no refusal of the command (R406). -/
def drainTimeout (g : Nat) (s : State) : State :=
  if (s.grp g).drain.isNone then s else
  let s1 := s.modGrp g fun v => { v with drain := none }
  (if s1.pwr.trans.contains (.device 2) then s1 else s1.refuse g stDrainTimeout).pwrSettle
def execDrainTimeout (g : Fin 64) (s : State) : Host.Outcome State Fault Refusal :=
  .next (if s.nightwatch then drainTimeout g.val s else s)
/-- The zero fill of a group that returns from OFF ends (R214). -/
def groupFillDone (g : Nat) (s : State) : State :=
  if !(s.grp g).filling then s else ((s.groupClear g).modGrp g fun v => { v with filling := false }).pwrSettle
def execGroupFillDone (g : Fin 64) (s : State) : Host.Outcome State Fault Refusal :=
  .next (if s.nightwatch then groupFillDone g.val s else s)

/-! ### The device (R405 to R407, R442) -/

/-- A dark notice on channel 12 over each ACTIVE optical port; its words are not in the spec. -/
def State.darkNotices (s : State) : State := s.tellPorts ((List.range 32).map (7 + ·)) 12 []
/-- LOW: the states that ON brings back are kept. -/
def State.enterLow (s : State) : State :=
  let cs := (List.range 768).filter fun c => decide ((s.cl c).cstate = .run) && !s.glb.badClusters.contains c
  let gs := (List.range 64).filter fun g => decide ((s.grp g).st = .active) && !s.glb.badGroups.contains g
  let s1 : State := s.setPwr { s.pwr with before := cs.map fun c => (c, .run), beforeG := gs.map fun g => (g, .active) }
  let s2 := cs.foldl (fun (s : State) c => s.clusterLeave c .retain) s1
  let s3 := gs.foldl (fun (s : State) g => (s.modGrp g fun v => { v with drain := some .selfRefresh }).trace .drain) s2
  ((s3.darkNotices).addTrans (.device 2)).setAllLit
/-- ON after LOW: clusters, groups and optical lanes return. -/
def State.leaveLow (s : State) : State :=
  let s1 := s.addTrans (.device 0)
  let s2 := s1.pwr.before.foldl (fun (s : State) x => if (s.cl x.1).cstate = x.2 then s else s.addTrans (.cluster x.1 x.2)) s1
  let s3 := s2.pwr.beforeG.foldl (fun (s : State) x => match (s.grp x.1).st with
    | .active => s
    | .selfRefresh => s.addTrans (.group x.1 .active)
    | .off => s.modGrp x.1 fun v => { v with st := .active, filling := true }) s2
  (s3.setPwr { s3.pwr with before := [], beforeG := [] } : State).setAllLit
/-- OFF: no flash write may be in progress; withdrawal messages go out and the device takes no further request. -/
def State.enterOff (s : State) : State :=
  if s.flashBusy then (s.refuse 0 stFlashBusy).fieldStart
  else
    (s.setPwr { s.pwr with removing := true } : State).tellPorts (List.range 39) 12 []
/-- A command to the device. -/
def State.deviceCmd (s : State) (code : Nat) : State :=
  match s.pwr.dev.toNat, code with
  | 0, 0 | 1, 1 | 2, 2 => s
  | 0, 1 => s.setPwr { s.pwr with quiescing := true }
  | 1, 0 => s.addTrans (.device 0)
  | 1, 2 => s.enterLow
  | 2, 0 => s.leaveLow
  | 1, 3 | 2, 3 => s.enterOff
  | _, _ => s.refuse 0 stStateOrder
/-- Every task is parked (R405). -/
def deviceQuiesced (s : State) : State :=
  if !s.nightwatch || !s.pwr.quiescing || !s.allParked (fun _ => true) then s else
  (s.setPwr { s.pwr with quiescing := false, dev := 1 } : State).pwrSettle
def execDeviceQuiesced (s : State) : Host.Outcome State Fault Refusal := .next (deviceQuiesced s)
/-- Parking exceeds PARK_MS: the device is ON again. -/
def stateParkTimeout (s : State) : State :=
  if !s.nightwatch || !s.pwr.quiescing then s else
  (((s.setPwr { s.pwr with quiescing := false } : State).refuse 0 stStateParkTimeout).pwrSettle).unpark
def execStateParkTimeout (s : State) : Host.Outcome State Fault Refusal := .next (stateParkTimeout s)
/-- At 10 ms, or once drained, the rails are removed. -/
def execOrderlyRemovalEnd (s : State) : Host.Outcome State Fault Refusal :=
  .next (if s.live && s.pwr.removing then s.railsOff else s)

/-! ### Gears (R447 to R450) -/

/-- K of a gear in hundredths. -/
def gearK (g : BitVec 2) : Nat := if g = 0 then 100 else if g = 1 then 74 else 40
/-- A gear change begins. Its hold begins 6 µs + 3.2 ns after the command from G2 to G0, and 1.6 ns after it downward (Table 20.2);
for the other upward changes, and for how long it is up to 210 ns, the spec gives no time. (log 52, DEDUCED) -/
def State.gearCmd (s : State) (code : Nat) : State :=
  if 2 < code then s.refuse 0 stStateOrder
  else if code = s.clk.gear.toNat then s
  else
    let ns := (s.freeAt 0).toNat % 211
    let from_ := if s.clk.gear.toNat < code then 2 else if s.clk.gear = 2 ∧ code = 0 then 7504 else (s.freeAt 1).toNat % 7505
    ((s.setClk { s.clk with
      changing := true, was := s.clk.gear, goal := BitVec.ofNat 2 (Fin.ofNat 3 code).val, since := 0, holdAt := from_, holdEnd := from_ + (5 * ns + 3) / 4
      lastHold := BitVec.ofNat 16 ns } : State).addTrans (.gear (Fin.ofNat 3 code))).bump 2
/-- The gear change ends; the dividers have switched, and learned powers are converted (R447, R450). (log 52, DEDUCED) -/
def State.gearDone (s : State) (n : Fin 3) : State :=
  let g := BitVec.ofNat 2 n.val
  let k : Nat → Nat → Nat := fun i v => (divOpen ((s.freeAt 0).getLsbD i) ((v * gearK g : Nat) : Int) (gearK s.clk.was : Int)).toNat
  let al := (List.range s.pwr.almanac.length).map fun i =>
    let a := nth { part := 0, phase := 0, est := 0 } s.pwr.almanac i
    { a with est := k (i % 32) a.est }
  let s1 : State := (s.setPwr { s.pwr with almanac := al, modelEff := k 32 s.pwr.modelEff }).setClk { s.clk with
      gear := g, changing := false, changes := satAdd s.clk.changes 1, frac := if s.clk.gear = g then s.clk.frac else 0 }
  (s1.bump 1).trace .gear

/-! ### Droop (R420) -/

def droopDetect (c : Nat) (s : State) : State :=
  let x := s.cl c
  if !s.live || decide (x.cstate ≠ .run) || x.droop then s else
  let s1 := s.modCl c fun x => { x with droop := true }
  (s1.setPwr { s1.pwr with droopEv := satAdd s1.pwr.droopEv 1, clamp := true } : State).trace .clamp
/-- A droop event that falls within the hold of a gear change takes effect after it (R449). -/
def execDroopDetect (c : Fin 768) (s : State) : Host.Outcome State Fault Refusal :=
  .next (if s.live && s.clk.holding then s.setClk { s.clk with lateDroops := s.clk.lateDroops ++ [c.val] } else droopDetect c.val s)
/-- After the hold of a gear change what fell within it takes effect (R449). -/
def State.afterHold (s : State) : State :=
  if s.clk.holding || (s.clk.lateDroops.isEmpty && s.clk.latePhases.isEmpty) then s else
  let s1 : State := s.setClk { s.clk with lateDroops := [], latePhases := [] }
  s.clk.latePhases.foldl (fun s t => phaseBoundary t s) (s.clk.lateDroops.foldl (fun s c => droopDetect c s) s1)
/-- 64 cycles after the rail has recovered. -/
def droopRecover (c : Nat) (s : State) : State :=
  if !s.live || !(s.cl c).droop then s else
  (s.modCl c fun x => { x with droop := false } : State).clampSettle
def execDroopRecover (c : Fin 768) (s : State) : Host.Outcome State Fault Refusal := .next (droopRecover c.val s)
/-- The clamp has stayed asserted for more than 1 ms. -/
def execDroopEmergency (s : State) : Host.Outcome State Fault Refusal :=
  .next (if s.live && s.pwr.clamp then s.setPwr { s.pwr with clampLong := true } else s)

/-! ### PWR_CMD -/

/-- Carries a command out (R402, R403). (log 52, DEDUCED) -/
def State.pwrApply (s : State) (w : Word) : State :=
  let v := w.toNat
  let target := bitsOf v 63 60
  let code := bitsOf v 59 56
  let first := bitsOf v 55 46
  let n := if bitsOf v 45 35 = 0 then 1 else bitsOf v 45 35
  let mask := bitsOf v 3 0
  let us := (List.range n).map (first + ·)
  let limit := if target = 3 then 64 else 768
  if decide (4 < target) || ((target == 1 || target == 2 || target == 3) && decide (limit < first + n)) then
    s.setPwr { s.pwr with busy := false, result := stCmdRange, failed := 0 }
  else
    let s0 := (s.setPwr { s.pwr with busy := true, refused := [] } : State).trace .stateCmd
    (match target with
    | 0 => s0.deviceCmd code
    | 1 => us.foldl (fun (s : State) c => s.clusterCmd code c) s0
    | 2 => us.foldl (fun (s : State) c => (List.range 4).foldl (fun (s : State) g => if bitOf mask g then s.segmentCmd code c g else s) s) s0
    | 3 => us.foldl (fun (s : State) g => s.groupCmd code g) s0
    | _ => s0.gearCmd code).pwrSettle
/-- A write of PWR_CMD; one that comes during a firmware switch is applied after it (R449). (log 51, DEDUCED) -/
def pwrCmd (w : Word) (s : State) : State :=
  if !s.served then s
  else if s.pwr.busy then s.setPwr { s.pwr with ignored := true }
  else if s.switching then s.setPwr { s.pwr with busy := true, waitCmd := some w }
  else s.pwrApply w
/-- The command that waited for the new firmware. (log 51, DEDUCED) -/
def State.pwrWaited (s : State) : State :=
  match s.pwr.waitCmd with
  | none => s
  | some w => (s.setPwr { s.pwr with waitCmd := none } : State).pwrApply w

def execDeviceQuiesce (s : State) : Host.Outcome State Fault Refusal := .next (pwrCmd (pwrWord 0 1 0 0 0) s)
def execDeviceOn (s : State) : Host.Outcome State Fault Refusal := .next (pwrCmd (pwrWord 0 0 0 0 0) s)
def execDeviceLow (s : State) : Host.Outcome State Fault Refusal := .next (pwrCmd (pwrWord 0 2 0 0 0) s)
def execDeviceOff (s : State) : Host.Outcome State Fault Refusal := .next (pwrCmd (pwrWord 0 3 0 0 0) s)
def execClusterRun (first : BitVec 10) (count : BitVec 11) (s : State) : Host.Outcome State Fault Refusal :=
  .next (pwrCmd (pwrWord 1 0 first.toNat count.toNat 0) s)
def execClusterGate (first : BitVec 10) (count : BitVec 11) (s : State) : Host.Outcome State Fault Refusal :=
  .next (pwrCmd (pwrWord 1 1 first.toNat count.toNat 0) s)
def execClusterRetain (first : BitVec 10) (count : BitVec 11) (s : State) : Host.Outcome State Fault Refusal :=
  .next (pwrCmd (pwrWord 1 2 first.toNat count.toNat 0) s)
def execClusterOff (first : BitVec 10) (count : BitVec 11) (s : State) : Host.Outcome State Fault Refusal :=
  .next (pwrCmd (pwrWord 1 3 first.toNat count.toNat 0) s)
def execSegmentOn (first : BitVec 10) (count : BitVec 11) (mask : BitVec 4) (s : State) : Host.Outcome State Fault Refusal :=
  .next (pwrCmd (pwrWord 2 0 first.toNat count.toNat mask.toNat) s)
def execSegmentOff (first : BitVec 10) (count : BitVec 11) (mask : BitVec 4) (s : State) : Host.Outcome State Fault Refusal :=
  .next (pwrCmd (pwrWord 2 1 first.toNat count.toNat mask.toNat) s)
def execVaultGroupActive (first : BitVec 10) (count : BitVec 11) (s : State) : Host.Outcome State Fault Refusal :=
  .next (pwrCmd (pwrWord 3 0 first.toNat count.toNat 0) s)
def execVaultGroupSelfRefresh (first : BitVec 10) (count : BitVec 11) (s : State) : Host.Outcome State Fault Refusal :=
  .next (pwrCmd (pwrWord 3 1 first.toNat count.toNat 0) s)
def execVaultGroupOff (first : BitVec 10) (count : BitVec 11) (s : State) : Host.Outcome State Fault Refusal :=
  .next (pwrCmd (pwrWord 3 2 first.toNat count.toNat 0) s)
def execGearChange (g : BitVec 4) (s : State) : Host.Outcome State Fault Refusal := .next (pwrCmd (pwrWord 4 g.toNat 0 0 0) s)

/-- Ends one transition. -/
def State.transDone (s : State) (t : Trans) : State :=
  match t with
  | .cluster c st => s.clusterDone c st
  | .segment c g on => s.segmentDone c g on
  | .group g st => s.modGrp g fun v => { v with st := st }
  | .device st => s.setPwr { s.pwr with dev := BitVec.ofNat 2 st.val }
  | .gear g => s.gearDone g
/-- LOW waits for the drains of R409 and for its optical ports to be dark. -/
def State.lowReady (s : State) : Bool :=
  !s.groupsMoving && !(List.range 32).any fun i => decide ((s.po (i + 7)).st = .active)
/-- The transitions in progress end; parked tasks whose clusters are in RUN go on. (log 20, DEDUCED) -/
def unitTransitionDone (s : State) : State :=
  let s0 := if s.pwr.trans.contains (.device 2) then (List.range 32).foldl (fun (s : State) i => s.drainCheck (i + 7)) s else s
  if s0.pwr.trans.isEmpty || (s0.pwr.trans.contains (.device 2) && !s0.lowReady) then s0 else
  let ts := s0.pwr.trans
  (((ts.foldl (fun (s : State) t => s.transDone t) (s0.setPwr { s0.pwr with trans := [] })).pwrSettle).unpark).afterHold
def execUnitTransitionDone (s : State) : Host.Outcome State Fault Refusal :=
  .next (if s.nightwatch then unitTransitionDone s else s)

/-! ### The cap (R413 to R417, R426) -/

/-- A write of PWR_CAP: the register reads as it was written, and acts within 300 to 1,500 (R413, R489). -/
def pwrCapWrite (v : Nat) (s : State) : State := if s.served then s.setPwr { s.pwr with cap := BitVec.ofNat 11 v } else s
def execPwrCapWrite (value : BitVec 32) (s : State) : Host.Outcome State Fault Refusal := .next (pwrCapWrite value.toNat s)
/-- An emergency in the sense of R395. -/
def State.emergency (s : State) : Bool :=
  s.pwr.clampLong || decide (2 ≤ s.pwr.stage.toNat) || decide (s.capW * 1050 < s.pwr.inputMw)
/-- A partition's share of the energy; how it falls to the partition's running tasks is a measurement (R427). (log 52, DEDUCED) -/
def State.giveEnergy (s : State) (p mj : Nat) : State :=
  let s1 := s.modPt p fun P => { P with energy := P.energy + BitVec.ofNat 64 mj }
  let ts := s1.runningTasks.filter fun t => decide (t.id.part.val = p)
  let r := (List.range ts.length).foldl (fun (acc : State × Nat) i =>
    let a := (acc.1.freeAt i).toNat % (acc.2 + 1)
    (match ts[i]? with
      | some t => acc.1.modTask t.id fun t => { t with energy := t.energy + a, energyStep := t.energyStep + a }
      | none => acc.1, acc.2 - a)) (s1, mj)
  r.1.bump ts.length
/-- FIXED_HELD as it stands. -/
def State.setHeld (s : State) : State := s.setPwr { s.pwr with fixedHeld := s.fixedOn }
/-- A 10 µs period: measurements, CAP_UNMET, energy, limits. A cluster without a running task has no limit of R415, and does not count
for CAP_UNMET. (log 53, DESIGN CHOICE) -/
def capPeriod (inputMw clusterMw : Nat) (partMj : List (Fin 64 × Nat)) (unattrMj : Nat) (s : State) : State :=
  if !s.nightwatch then s else
  let unmet := decide (s.effCap < ((inputMw : Nat) : Rat)) && s.runningTasks.all fun T => (s.runClusters T).all fun c => decide ((s.cl c).limit = 1)
  let sum := (partMj.map (·.2)).foldl (· + ·) unattrMj
  let w := inputMw / 1000
  let s1 : State := s.setPwr { s.pwr with
    inputMw := inputMw, input := BitVec.ofNat 11 (if 2047 < w then 2047 else w), otherMw := (inputMw : Int) - (clusterMw : Int)
    capUnmet := unmet, energy := s.pwr.energy + BitVec.ofNat 64 sum, unattr := s.pwr.unattr + BitVec.ofNat 64 unattrMj }
  let s2 := if unmet && !s.pwr.capUnmet then s1.note .throttle 0xFF stCapUnmet [] else s1
  let s3 := partMj.foldl (fun (s : State) x => s.giveEnergy x.1.val x.2) s2
  (s3.setHeld.applyLimits fun _ => true).trace .budget
def execCapControlPeriod (inputMw clusterMw : Nat) (partMj : List (Fin 64 × Nat)) (unattrMj : Nat) (s : State) :
    Host.Outcome State Fault Refusal := .next (capPeriod inputMw clusterMw partMj unattrMj s)

/-! ### Temperature (R216 to R218, R421 to R423) -/

/-- Reading of a sensor in sixteenths of a degree. -/
def State.temp (s : State) (n : Nat) : Int := (mget 0 s.pwr.sensors n).toInt
def isDramSensor (n : Nat) : Bool := decide (224 ≤ n)
/-- Entry and leave temperature of a stage, degrees. -/
def stageEnter (dram : Bool) (k : Nat) : Int := if dram then nth 0 [0, 94, 95, 97] k else nth 0 [0, 95, 100, 105] k
def stageLeave (dram : Bool) (k : Nat) : Int := if dram then nth 0 [0, 92, 93, 95] k else nth 0 [0, 92, 97, 102] k
/-- The highest stage whose entry temperature a sensor has reached. -/
def State.hotStage (s : State) : Nat :=
  (List.range 4).foldl (fun m k =>
    if k ≠ 0 ∧ ((List.range 256).any fun n => decide (16 * stageEnter (isDramSensor n) k ≤ s.temp n)) then k else m) 0
/-- A change of stage: a thermal event, FIXED_HELD, and in stage 3 every limit. -/
def State.toStage (s : State) (k : Nat) : State :=
  let s1 := ((s.setPwr { s.pwr with stage := BitVec.ofNat 2 k } : State).setHeld).note .throttle 0xFF 0 [BitVec.ofNat 64 k]
  if k = 3 then s1.applyLimits fun _ => true else s1
/-- Temperature of a vault group. -/
def State.groupTemp (s : State) (g : Nat) : Int :=
  (List.range 8).foldl (fun (m : Int) d => let t := s.temp (224 + 4 * d + g / 16); if m < t then t else m) (s.temp (224 + g / 16))
/-- Table 9.5 with its hysteresis. -/
def refreshNext (iv : RefreshIv) (t : Int) : RefreshIv :=
  if 94 * 16 ≤ t ∨ (iv = .fastest ∧ 92 * 16 ≤ t) then .fastest
  else if 84 * 16 ≤ t ∨ (iv ≠ .slow ∧ 82 * 16 ≤ t) then .fast
  else .slow
/-- The interval of a group, and the thermal event when its OVER bit comes to be set, also by its return to ACTIVE (R217). -/
def State.refreshGroup (s : State) (g : Nat) : State :=
  let iv := refreshNext (s.grp g).interval (s.groupTemp g)
  let hot := decide (iv = .fastest) && decide ((s.grp g).st = .active)
  let s1 := s.modGrp g fun v => { v with interval := iv, hot := hot }
  if hot && !(s.grp g).hot then s1.note .thermal 0xFF 0 [BitVec.ofNat 64 g] else s1
/-- Every 100 µs: the vault controllers choose their intervals, also during a firmware switch (R217, R397); the stages are
Nightwatch's. -/
def thermalSample (rs : List (Fin 256 × BitVec 16)) (s : State) : State :=
  if !s.live then s else
  let s1 : State := s.setPwr { s.pwr with sensors := rs.foldl (fun m r => mset 0 m r.1.val r.2) s.pwr.sensors }
  let s2 := (List.range 64).foldl (fun (s : State) g => s.refreshGroup g) s1
  if s2.nightwatch && decide (s2.pwr.stage.toNat < s2.hotStage) then s2.toStage s2.hotStage else s2
def execThermalSample (readings : List (Fin 256 × BitVec 16)) (s : State) : Host.Outcome State Fault Refusal :=
  .next (thermalSample readings s)
/-- For 1 ms every sensor has been below the leave temperature. -/
def thermalStageLeave (s : State) : State :=
  let k := s.pwr.stage.toNat
  if !s.nightwatch || k = 0 || !(List.range 256).all (fun n => decide (s.temp n < 16 * stageLeave (isDramSensor n) k)) then s
  else s.toStage (k - 1)
def execThermalStageLeave (s : State) : Host.Outcome State Fault Refusal := .next (thermalStageLeave s)
/-- The comparator trips: a fatal event, then every rail falls and TRIP is asserted. -/
def thermalTrip (n : Nat) (s : State) : State :=
  if !s.pwr.rails then s else
  let s1 := s.fatal (s.mkErr stThermalTrip 3 0xFF 9 n 0 1 0)
  let s2 := s1.railsOff
  (s2.setPwr { s2.pwr with trip := true })
def execThermalTrip (sensor : Fin 256) (s : State) : Host.Outcome State Fault Refusal := .next (thermalTrip sensor.val s)

end Sys2Proof.Machine
end

