-- ==== Sys2Proof/Machine/Guard.lean ====
section
/-! DEFINITION. The guard (R334 to R357): the protection set-up, guard records, the guard log, enrolment and attestation. -/

namespace Sys2Proof.Machine

/-! ### Records (Tables 15.3, 15.4) -/

/-- LEN of an operation. -/
def opLen (typ : Nat) : Option Nat :=
  match typ with
  | 1 => some 12 | 2 => some 4 | 3 => some 12 | 4 => some 8 | 5 => some 8 | 6 => some 16 | 7 => some 8 | 8 => some 8 | 9 => some 140
  | 10 => some 16 | 11 => some 4
  | _ => none
/-- Reserved bytes of an operation. -/
def opResv (typ : Nat) : List (Nat × Nat) :=
  match typ with
  | 1 => [(6, 2)] | 3 => [(9, 3)] | 5 => [(6, 2)] | 6 => [(6, 2)] | 7 => [(6, 2)] | 8 => [(7, 1)] | 9 => [(137, 3)]
  | _ => []
def opType (o : List Byte) : Nat := fieldAt o 0 1
def opPart (o : List Byte) : Nat := fieldAt o 1 1
/-- An operation stands whole at the head of bytes, its reserved fields zero (also those of an admission entry, Table 15.2). -/
def opWhole (bs : List Byte) : Option Nat :=
  match opLen (fieldAt bs 0 1) with
  | none => none
  | some n =>
    if fieldAt bs 2 2 = n && decide (n ≤ bs.length) && ((opResv (fieldAt bs 0 1)).all fun r => decide (fieldAt bs r.1 r.2 = 0))
      && (decide (fieldAt bs 0 1 ≠ 4) || decide (fieldAt bs 7 1 < 2))
      && (decide (fieldAt bs 0 1 ≠ 6) || (!bitOf (fieldAt bs 8 8) 60 && decide (bitsOf (fieldAt bs 8 8) 13 0 = 0))) then some n else none
/-- The operations, if they are well formed and fill the bytes. -/
def parseOps : Nat → List Byte → Option (List (List Byte))
  | 0, bs => if bs.isEmpty then some [] else none
  | n + 1, bs => match opWhole bs with
    | none => none
    | some k => match parseOps n (bs.drop k) with
      | none => none
      | some os => some (bs.take k :: os)
/-- Operations of a record that passes step 1 of R346. -/
def recordOps (bs : List Byte) : Option (List (List Byte)) :=
  let kind := fieldAt bs 2 2
  let n := fieldAt bs 4 4
  let tail := if kind = 2 then 0 else 264
  if n ≠ bs.length ∨ fieldAt bs 0 2 ≠ 1 ∨ 2 < kind ∨ n < 96 + tail ∨ fieldAt bs 28 4 ≠ 0 ∨ (kind ≠ 1 ∧ fieldAt bs 32 64 ≠ 0)
    ∨ 16384 < fieldAt bs 24 4 then none
  else match parseOps (fieldAt bs 24 4) ((bs.take (n - tail)).drop 96) with
    | none => none
    | some os =>
      let rolls := os.any fun o => opType o == 11
      if kind = 1 then (if decide (os.length = 1) && rolls then some os else none)
      else if rolls then none
      else if kind = 2 then
        (if decide (os.length = 2) && (os.all fun o => opType o == 9) && decide ((os.map opPart).contains 0) && decide ((os.map opPart).contains 1)
          then some os else none)
      else some os

/-! ### The set-up that results -/

/-- The set-up while operations are applied: shares of clusters by 64 x cluster + partition, so that two owners show. -/
structure GWork where
  parts  : Map GPart
  shares : Map Nat
  adm    : Map Word
  keyOp  : List Byte
  keyCu  : List Byte
  chip   : Option (BitVec 14)
  /-- An extent was mapped when all 128 entries of its table were in use. -/
  full   : Bool
def GWork.part (g : GWork) (p : Nat) : GPart := mget GPart.none g.parts p
def GWork.setPart (g : GWork) (p : Nat) (x : GPart) : GWork := { g with parts := mset GPart.none g.parts p x }
def GWork.share (g : GWork) (c p mask : Nat) : GWork := { g with shares := mset 0 g.shares (64 * c + p) mask }
def GuardState.part (g : GuardState) (p : Nat) : GPart := mget GPart.none g.parts p
def GuardState.work (g : GuardState) : GWork :=
  { parts := g.parts, shares := g.clusters.foldl (fun m kv => mset 0 m (64 * kv.1 + kv.2 % 64) (kv.2 / 64)) [], adm := g.admTab
    keyOp := g.keyOp, keyCu := g.keyCu, chip := none, full := false }
/-- Owners of a cluster. -/
def GWork.owners (g : GWork) (c : Nat) : List Nat := (g.shares.filter fun kv => decide (kv.1 / 64 = c)).map (·.1 % 64)
/-- Clusters of a partition. -/
def GWork.owns (g : GWork) (p : Nat) : Bool := g.shares.any fun kv => decide (kv.1 % 64 = p)
/-- Fields of an extent word (Table 15.1). -/
def extWord (prot : Bool) (dext pidx : Nat) : Word := BitVec.ofNat 64 (2 ^ 63 + bool2 prot * 2 ^ 62 + dext % 128 * 2 ^ 10 + pidx % 1024)
def extPidx (w : Word) : Nat := bitsOf w.toNat 9 0
def extDext (w : Word) : Nat := bitsOf w.toNat 16 10
def extValid (w : Word) : Bool := bitOf w.toNat 63
def extProt (w : Word) : Bool := bitOf w.toNat 62
/-- The first entry of an extent table that is not in use: which one a new extent takes is not in the spec. (log 49, DEDUCED) -/
def GPart.freeEntry (x : GPart) : Option Nat := (List.range 128).find? fun j => !extValid (mget 0 x.extents j)
/-- What a REG_WRITE names (R339): LNK_CHIP, PART_OWN, an extent entry, CLS_OWNER, with the RWG bits of each. -/
inductive RwgReg where
  | chip | own (p : Nat) | ext (p j : Nat) | cls (c : Nat)
def rwgReg (off : Nat) : Option (RwgReg × Word) :=
  if off % 8 ≠ 0 then none
  else if off = 0x200000 then some (.chip, 0x3FFF)
  else if 0x400000 ≤ off ∧ off < 0x440000 then
    let p := (off - 0x400000) / 0x1000
    let o := off % 0x1000
    if o = 0 then some (.own p, 0x807FFF00FFFFFFFF)
    else if 0x800 ≤ o ∧ o < 0xC00 then some (.ext p ((o - 0x800) / 8), 0xC00000000001FFFF)
    else none
  else if 0x1000000 ≤ off ∧ off < 0x1300000 ∧ off % 0x1000 = 0 then some (.cls ((off - 0x1000000) / 0x1000), 0x800003FF)
  else none
/-- Applies one operation. -/
def GWork.apply (g : GWork) (o : List Byte) : GWork :=
  let p := opPart o
  match opType o with
  | 1 => g.setPart p { g.part p with
      defined := true, vf := BitVec.ofNat 7 (fieldAt o 4 1), share := BitVec.ofNat 8 (fieldAt o 5 1), kvQuota := BitVec.ofNat 32 (fieldAt o 8 4) }
  | 2 => { (g.setPart p GPart.none) with
      shares := g.shares.filter fun kv => decide (kv.1 % 64 ≠ p)
      adm := g.adm.filter fun kv => !(bitOf kv.2.toNat 63 && decide (bitsOf kv.2.toNat 39 34 = p)) }
  | 3 => (List.range (fieldAt o 6 2)).foldl (fun g i => g.share (fieldAt o 4 2 + i) p (fieldAt o 8 1 % 16)) g
  | 4 => match (g.part p).freeEntry with
    | some j => g.setPart p { g.part p with
        extents := mset 0 (g.part p).extents j (extWord (bitOf (fieldAt o 7 1) 0) (fieldAt o 6 1) (fieldAt o 4 2)) }
    | none => { g with full := true }
  | 5 => g.setPart p { g.part p with extents := (g.part p).extents.filter fun kv => decide (extPidx kv.2 ≠ fieldAt o 4 2) }
  | 6 => { g with adm := mset 0 g.adm (fieldAt o 4 2) (BitVec.ofNat 64 (fieldAt o 8 8)) }
  | 7 => { g with adm := mset 0 g.adm (fieldAt o 4 2) 0 }
  | 8 =>
    let re : Nat × Word → Nat × Word := fun kv =>
      if extPidx kv.2 = fieldAt o 4 2 then (kv.1, extWord (decide (fieldAt o 6 1 ≠ 0)) (extDext kv.2) (extPidx kv.2)) else kv
    g.setPart p { g.part p with extents := (g.part p).extents.map re }
  | 9 => if p = 0 then { g with keyOp := (o.drop 4).take 133 } else { g with keyCu := (o.drop 4).take 133 }
  | 10 =>
    let v := fieldAt o 8 8
    match rwgReg (fieldAt o 4 4) with
    | some (.chip, _) => { g with chip := some (BitVec.ofNat 14 v) }
    | some (.own q, _) => g.setPart q { g.part q with
        defined := bitOf v 63, vf := BitVec.ofNat 7 (bitsOf v 54 48), share := BitVec.ofNat 8 (bitsOf v 47 40), kvQuota := BitVec.ofNat 32 v }
    | some (.ext q j, _) => g.setPart q { g.part q with extents := mset 0 (g.part q).extents j (BitVec.ofNat 64 v) }
    | some (.cls c, _) =>
      let h := { g with shares := g.shares.filter fun kv => decide (kv.1 / 64 ≠ c) }
      if bitOf v 31 then h.share c (bitsOf v 9 4) (bitsOf v 3 0) else h
    | none => g
  | _ => g
/-- A partition of the final state is sound: it owns a cluster, and no other has its virtual function. -/
def GWork.partOk (g : GWork) (p : Nat) : Bool :=
  !(g.part p).defined || (g.owns p && decide (1 ≤ (g.part p).vf.toNat) && decide ((g.part p).vf.toNat ≤ 64)
    && !(g.parts.any fun kv => decide (kv.1 ≠ p) && kv.2.defined && decide (kv.2.vf = (g.part p).vf)))
/-- Clusters have one owner. -/
def GWork.clustersOk (g : GWork) (cs : List Nat) : Bool := cs.all fun c => decide ((g.owners c).length ≤ 1)
/-- Extents of a partition: it is defined, PIDX values are unique, and no other partition maps their device extents. -/
def GWork.extentsOk (g : GWork) (p : Nat) : Bool :=
  let mine := ((g.part p).extents.map (·.2)).filter extValid
  let others := (g.parts.filter fun kv => decide (kv.1 ≠ p)).flatMap fun kv => (kv.2.extents.map (·.2)).filter extValid
  (mine.isEmpty || (g.part p).defined) && decide ((mine.map extPidx).eraseDups.length = mine.length)
    && mine.all fun w => !(others.any fun x => decide (extDext x = extDext w))
/-- An admission entry is sound. -/
def GWork.admOk (g : GWork) (w : Word) : Bool :=
  let v := w.toNat
  (!bitOf v 63 || ((g.part (bitsOf v 39 34)).defined && decide (bitsOf v 33 24 ≤ bitsOf v 23 14)))
/-- An operation names something that does not exist, or a REG_WRITE breaks its own condition (step 5 of R346, Table 15.4). (log
49, DEDUCED) -/
def opFails (o : List Byte) : Bool :=
  let p := opPart o
  match opType o with
  | 1 => decide (63 < p) || decide (fieldAt o 4 1 = 0) || decide (64 < fieldAt o 4 1) || decide (fieldAt o 5 1 = 0)
  | 2 => decide (63 < p)
  | 3 => decide (63 < p) || decide (768 < fieldAt o 4 2 + fieldAt o 6 2) || decide (15 < fieldAt o 8 1)
  | 4 => decide (63 < p) || decide (1023 < fieldAt o 4 2) || decide (127 < fieldAt o 6 1)
  | 5 => decide (63 < p) || decide (1023 < fieldAt o 4 2)
  | 6 | 7 => decide (2047 < fieldAt o 4 2)
  | 8 => decide (63 < p) || decide (1023 < fieldAt o 4 2) || decide (1 < fieldAt o 6 1)
  | 9 => decide (1 < p)
  | 10 => match rwgReg (fieldAt o 4 4) with
    | none => true
    | some (_, m) => decide (BitVec.ofNat 64 (fieldAt o 8 8) &&& ~~~m ≠ 0)
  | _ => false
/-- The conditions of step 5 of R346 on a state; what is owned has a defined owner. (log 49, DEDUCED) -/
def GWork.sound (g : GWork) : Bool :=
  !g.full && (List.range 64).all (fun p => g.partOk p && g.extentsOk p) && g.clustersOk (g.shares.map (·.1 / 64))
    && g.shares.all (fun kv => (g.part (kv.1 % 64)).defined) && g.adm.all (fun kv => g.admOk kv.2)
    && (g.keyOp.isEmpty || decide (g.keyOp ≠ g.keyCu))
/-- Index of the operation after which the state stays unsound to the end; `bad` is the one that this holds for so far. -/
def unsoundFrom : List (List Byte) → Nat → GWork → Option Nat → Option Nat
  | [], _, _, bad => bad
  | o :: os, i, g, bad =>
    let h := g.apply o
    unsoundFrom os (i + 1) h (if h.sound then none else match bad with | some k => some k | none => some i)
/-- Applies the operations in order; the state that results decides, and a failure belongs to the first operation that breaks a
condition of its own or leaves the state unsound for good. (log 49, DEDUCED) -/
def applyOps (g : GuardState) (os : List (List Byte)) : Except Nat GWork :=
  let f := os.foldl GWork.apply g.work
  let own := (List.range os.length).find? fun i => opFails (nth [] os i)
  let left := if f.sound then none else match unsoundFrom os 0 g.work none with | some i => some i | none => some 0
  match own, left with
  | none, none => .ok f
  | some i, none => .error i
  | none, some j => .error j
  | some i, some j => .error (if i < j then i else j)
/-- The same as a state to be committed. -/
def GWork.state (g : GWork) (old : GuardState) (seq : BitVec 32) : GuardState :=
  { old with
    parts := g.parts, clusters := g.shares.foldl (fun m kv => mset 0 m (kv.1 / 64) (kv.1 % 64 + 64 * kv.2)) [], admTab := g.adm
    keyOp := g.keyOp, keyCu := g.keyCu, chip := g.chip, logseq := seq, commit := false, digestOk := true }

/-! ### The open state (R343) -/

def openPart : GPart :=
  { defined := true, vf := 1, share := 1, kvQuota := 0, extents := (List.range 128).map fun j => (j, extWord false j j) }
def openSetup : GuardState :=
  { GuardState.blank with parts := [(0, openPart)], clusters := (List.range 768).map fun c => (c, 960), commit := true, digestOk := true }
/-- Keys are enrolled. -/
def GuardState.hasKeys (g : GuardState) : Bool := !g.keyOp.isEmpty && !g.keyCu.isEmpty
/-- The set-up that a loaded state copy stands for. -/
def GuardState.effective (g : GuardState) : GuardState :=
  if g.hasKeys then g else { openSetup with logseq := g.logseq, commit := g.commit, digestOk := g.digestOk }

/-! ### Putting a set-up in force (R337, R348, R354) -/

/-- Zeros one device extent. -/
def State.zeroExtent (s : State) (x : Nat) : State :=
  let out : Nat → Bool := fun a => decide (a / 2 ^ 30 ≠ x)
  (s.setMem { s.mem with
    dram := s.mem.dram.filter fun kv => out kv.1
    poison := s.mem.poison.filter fun kv => out (32 * kv.1)
    flaw := s.mem.flaw.filter fun kv => out (32 * kv.1)
    cipher := s.mem.cipher.filter fun y => decide (y.1 ≠ x)
    opened := s.mem.opened.filter fun k => out (32 * k) })
/-- Mapped extents of a partition as (device extent, protected). -/
def GPart.maps (x : GPart) : List (Nat × Bool) := ((x.extents.map (·.2)).filter extValid).map fun w => (extDext w, extProt w)
/-- Pages that Nightwatch puts on a partition's free list, with those in use and those whose swap writes are in flight up to
KVQUOTA (R336). -/
def State.kvSeed (s : State) (p : Nat) : State :=
  let P := s.pt p
  let used := P.usedPages
  let good : Nat → Bool := fun pg => (P.dev (pg * 65536)).isSome && !used.contains pg && !s.pageRetired p pg
  let keep := P.quotaCut used.length (P.kvFree.filter good)
  let new := P.quotaCut (used.length + keep.length) ((Config.kvPages p).eraseDups.filter fun pg => good pg && !keep.contains pg)
  s.modPt p fun P => { P with kvFree := keep ++ new }
/-- Three keys from the entropy source (R354). -/
def State.freshKeys (s : State) : PartKeys :=
  let e : Nat → BitVec 128 := fun i => Config.entropy (s.freeTick + i)
  { data := e 0 ++ e 1, tweak := e 2 ++ e 3, swap := e 4 ++ e 5 }
/-- One partition's definition; its keys last from its first protected extent to its last (R354). -/
def State.installPart (s : State) (g : GuardState) (p : Nat) : State :=
  let x := g.part p
  let old := s.pt p
  if !x.defined then s.setPt p { Part.reset with shareW := old.shareW, floorW := old.floorW } else
  let base := if old.defined then old else { old with kvTreeBase := Config.treeBase p }
  let prot := x.maps.any (·.2)
  let s1 := if prot && old.keys.isNone then s.bump 6 else s
  (s1.setPt p { base with
    defined := true, vf := x.vf, share := x.share, kvQuota := x.kvQuota, extents := x.extents
    keys := if !prot then none else match old.keys with | some k => some k | none => some s.freshKeys }).kvSeed p
/-- One cluster's owner; segments that are new to a partition are zero-filled (R123). -/
def State.installCluster (s : State) (g : GuardState) (c : Nat) : State :=
  let v := mget 0 g.clusters c
  let x := s.cl c
  let mask := BitVec.ofNat 4 (v / 64)
  let part := BitVec.ofNat 6 v
  let had := if x.owned && decide (x.part = part) then x.segmask else 0
  let fresh := (List.range 4).filter fun i => mask.getLsbD i && !had.getLsbD i
  s.setCl c (fresh.foldl (fun x i => x.zeroSeg i) { x with owned := decide (mask ≠ 0), part := if mask = 0 then 0 else part, segmask := mask })
/-- A task whose clusters have another owner now cannot go on. -/
def State.dropOrphans (s : State) : State :=
  s.endTasks (fun t => t.clusters.any fun c => !(s.cl c).owned || decide ((s.cl c).part.toNat ≠ t.id.part.val)) stGuardReset true
/-- Partition of a virtual function in a set-up. -/
def GuardState.vfPart (g : GuardState) (fn : Nat) : Option Nat :=
  (List.range 64).find? fun p => (g.part p).defined && decide ((g.part p).vf.toNat = fn)
/-- Protected extents that no partition maps any longer, with the keys that their contents are under (R208). -/
def State.leftCoded (s : State) (g : GuardState) : List (Nat × PartKeys) :=
  let kept := (List.range 64).flatMap fun p => (g.part p).maps.map (·.1)
  (List.range 64).flatMap fun p => match (s.pt p).keys with
    | some k => ((s.grd.cur.part p).maps.filter fun m => m.2 && !kept.contains m.1).map fun m => (m.1, k)
    | none => []
/-- The new set-up for the whole device: the reset of the functions whose mapping changes, before and after (R348), and zeros for every device extent
that is new to a partition or changes its protection and for every segment that is new to one (R337). The Almanac's entries of a deleted
partition go (R419). -/
def State.installGuard (s : State) (g : GuardState) : State :=
  let old := s.grd.cur
  let left := s.leftCoded g
  let moved := ((List.range 64).map (· + 1)).filter fun fn => decide (old.vfPart fn ≠ g.vfPart fn)
  let s1 := moved.foldl (fun (s : State) fn => s.vfReset fn) s
  let fills := (List.range 64).flatMap fun p =>
    (((g.part p).maps.filter fun m => !((old.part p).maps.contains m)).map (·.1))
  let s2a := fills.foldl (fun (s : State) x => s.zeroExtent x) s1
  let s2 := s2a.setMem { s2a.mem with cipher := s2a.mem.cipher ++ left }
  let s3 := (List.range 64).foldl (fun (s : State) p =>
    if (old.part p).defined || (g.part p).defined then s.installPart g p else s) s2
  let s4 := (List.range 768).foldl (fun (s : State) c =>
    if mget 0 old.clusters c = mget 0 g.clusters c then s else s.installCluster g c) s3
  let s4a := moved.foldl (fun (s : State) fn => match g.vfPart fn with | some p => s.modPt p Part.hostReset | none => s) s4
  let s5 := s4a.setPwr { s4a.pwr with
    almanac := s4a.pwr.almanac.filter fun a => (g.part a.part).defined
    phaseEnds := s4a.pwr.phaseEnds.filter fun x => (g.part x.1).defined }
  (s5.setGrd { s5.grd with cur := g } : State).dropOrphans

/-! ### Quiescence (R347, R411, R468) -/

/-- Segments that a partition owns in a cluster. -/
def GuardState.maskOf (g : GuardState) (c p : Nat) : Nat :=
  let v := mget 0 g.clusters c
  if v ≠ 0 ∧ v % 64 = p then v / 64 else 0
/-- Admission entries that name a partition as their target. -/
def GuardState.admOf (g : GuardState) (p : Nat) : List (Nat × Word) :=
  g.admTab.filter fun kv => bitOf kv.2.toNat 63 && decide (bitsOf kv.2.toNat 39 34 = p)
/-- A partition that a change affects. (log 49, DEDUCED) -/
def affectedBy (a b : GuardState) (p : Nat) : Bool :=
  (a.part p).defined && (
    !(b.part p).defined || decide ((a.part p).vf ≠ (b.part p).vf) || decide ((a.part p).share ≠ (b.part p).share)
    || decide ((a.part p).kvQuota ≠ (b.part p).kvQuota)
    || ((List.range 768).any fun c => decide (a.maskOf c p &&& b.maskOf c p ≠ a.maskOf c p))
    || ((a.part p).extents.any fun kv => extValid kv.2 && !((b.part p).extents.any fun x => decide (x.2 = kv.2)))
    || ((a.admOf p).any fun kv => decide (mget 0 b.admTab kv.1 ≠ kv.2)))
/-- Cases that end a record with GUARD_BUSY at once. (log 49, DEDUCED) -/
def State.guardBlocked (s : State) (b : GuardState) (aff : List Nat) : Bool :=
  let a := s.grd.cur
  let lostSeg := s.tasks.any fun t => t.clusters.any fun c => (List.range 4).any fun i =>
    bitOf (a.maskOf c t.id.part.val) i && !bitOf (b.maskOf c t.id.part.val) i && (s.cl c).covers (6144 * i) (6144 * (i + 1))
  let lostPage := aff.any fun p =>
    let gone := ((a.part p).extents.map (·.2)).filter fun w => extValid w &&
      !((b.part p).extents.any fun x => extValid x.2 && decide (extPidx x.2 = extPidx w) && decide (extDext x.2 = extDext w))
    (s.pt p).kvSeqs.any fun q => (((q.groups ++ q.ahead).flatMap fun g => ((s.pt p).group g).pages) ++ if q.st = .swapped then q.out else []).any
      fun pg => gone.any fun w => decide (extPidx w = pg / 16384)
  let offGroup := (List.range 64).any fun p => ((b.part p).maps.filter fun m => !((a.part p).maps.contains m)).any fun m => !s.groupOn (m.1 / 2)
  lostSeg || lostPage || offGroup || aff.any fun p => (s.pt p).contained

/-! ### SUBMIT (R345, R346, R350 to R352) -/

/-- CHAIN of the last entry; 64 zero bytes before the first. -/
def Flash.lastChain (f : Flash) : BitVec 512 := match f.log.getLast? with | some e => e.chain | none => 0
/-- Bytes 0 to 95 of an entry with ABORTED left out. -/
def GLog.head (e : GLog) : List Byte :=
  leBytes 4 e.seq.toNat ++ [e.kind, 0, 0, 0] ++ leBytes 8 e.tick.toNat ++ leBytes 16 e.nonce.toNat ++ leBytes 64 e.digest.toNat
/-- A whole log entry (Table 15.5). -/
def GLog.bytes (e : GLog) : List Byte :=
  leBytes 4 e.seq.toNat ++ [e.kind, BitVec.ofNat 8 (bool2 e.aborted), 0, 0] ++ leBytes 8 e.tick.toNat ++ leBytes 16 e.nonce.toNat
    ++ leBytes 64 e.digest.toNat ++ leBytes 64 e.chain.toNat ++ padTo 132 0 (e.sigOp.take 132) ++ padTo 132 0 (e.sigCu.take 132)
    ++ List.replicate 88 0
/-- Ends a record; one that was applied is logged (R388). -/
def State.guardEnd (s : State) (st : BitVec 16) (op : Nat) : State :=
  let s1 : State := s.setGrd { s.grd with busy := false, result := st, op := BitVec.ofNat 16 op, job := none }
  if st = 0 then s1.note .guard 0xFF st [] else s1.trace .guard
/-- Sequence number of the next log entry. (log 49, DEDUCED) -/
def State.nextLogSeq (s : State) : BitVec 32 :=
  match s.flash.log.getLast? with
  | some e => e.seq + 1
  | none => s.grd.cur.logseq + 1
/-- The log entry of a record. -/
def State.guardEntry (s : State) (kind : Nat) (bs : List Byte) : GLog :=
  let n := bs.length
  let e : GLog :=
    { seq := s.nextLogSeq, kind := BitVec.ofNat 8 kind, aborted := false, tick := s.tick, nonce := BitVec.ofNat 128 (fieldAt bs 8 16)
      digest := if kind = 2 then Config.enrolDigest bs else Config.sha512 (bs.take (n - 264)), chain := 0
      sigOp := if kind = 2 then [] else (bs.drop (n - 264)).take 132, sigCu := if kind = 2 then [] else bs.drop (n - 132) }
  let prev : BitVec 512 := if kind = 2 then 0 else s.flash.lastChain
  { e with chain := Config.sha512 (leBytes 64 prev.toNat ++ e.head) }
/-- The record up to step 6: the write of the log entry and the state copy begins. -/
def State.guardCheck (s : State) (bs : List Byte) : State :=
  match recordOps bs with
  | none => s.guardEnd stGuardInvalid 0
  | some os =>
    let kind := fieldAt bs 2 2
    let n := bs.length
    let fresh : State := (s.setGrd { s.grd with nonce := Config.entropy s.freeTick }).setFreeTick (s.freeTick + 1)
    if fieldAt bs 8 16 ≠ s.grd.nonce.toNat then fresh.guardEnd stGuardNonce 0
    else if kind = 2 && s.pwr.pins.enrolN then fresh.guardEnd stEnrolStrap 0
    else if kind ≠ 2 && s.grd.locked then fresh.guardEnd stGuardLocked 0
    else if kind ≠ 2 && !s.grd.enrolled then fresh.guardEnd stGuardNotEnrolled 0
    else
      let d := Config.sha512 (bs.take (n - 264))
      if kind ≠ 2 && !(Config.sigVerify s.grd.cur.keyOp d ((bs.drop (n - 264)).take 132) && Config.sigVerify s.grd.cur.keyCu d (bs.drop (n - 132)))
      then fresh.guardEnd stGuardSig 0
      else if kind = 1 && decide (fieldAt bs 32 64 ≠ s.flash.lastChain.toNat) then fresh.guardEnd stGuardInvalid 0
      else
        let base := if kind = 2 && (s.grd.enrolled || s.grd.locked) then openSetup else s.grd.cur
        match applyOps base os with
        | .error i => fresh.guardEnd stGuardInvalid i
        | .ok w =>
          if kind = 0 && decide (4096 ≤ s.flash.log.length) then fresh.guardEnd stGuardLogFull 0
          else
            let next := w.state base s.nextLogSeq
            let aff := if kind = 0 then (List.range 64).filter (affectedBy s.grd.cur next) else []
            (fresh.setGrd { fresh.grd with
              job := some { step := .writing, kind := kind, next := next, affected := aff, entry := s.guardEntry kind bs } })
/-- GRD_CMD.SUBMIT. (log 49, DEDUCED) -/
def submitNow (length : Nat) (s : State) : State :=
  if !s.nightwatch || s.grd.busy then s else
  let s1 : State := s.setGrd { s.grd with busy := true }
  if length = 0 ∨ 16384 < length then s1.guardEnd stGuardInvalid 0 else s1.guardCheck (rdBytes s.grd.buf 0 length)
def submit (length : BitVec 15) (s : State) : State := s.orWait (.submit length) (submitNow length.toNat)
/-- The ENROL strap as it is sampled (R475). -/
def State.strap (s : State) (enrolN : Bool) : State := s.setPwr { s.pwr with pins := { s.pwr.pins with enrolN := enrolN } }
def execSubmit (length : BitVec 15) (enrolN : Bool) (s : State) : Host.Outcome State Fault Refusal :=
  .next (submit length (s.strap enrolN))

/-! ### Steps 6 to 9 (R347 to R349, R351, R353) -/

def Flash.setGuard (f : Flash) (i : Bool) (g : GuardState) : Flash := if i then { f with guard1 := g } else { f with guard0 := g }
/-- The committed state copy. -/
def Flash.guardCopy (f : Flash) : GuardState := if f.guardCur then f.guard1 else f.guard0
/-- Marks the last log entry ABORTED. -/
def Flash.abortLast (f : Flash) : Flash :=
  { f with log := match f.log.getLast? with | some e => f.log.dropLast ++ [{ e with aborted := true }] | none => f.log }
/-- Step 7 fails. -/
def State.guardAbort (s : State) (kind : Nat) : State :=
  ((if kind = 0 then s.setFlash s.flash.abortLast else s).guardEnd stGuardBusy 0).unpark
/-- The log entry and the state copy are in flash; the affected partitions are quiesced. The entry of a roll or an enrolment goes
into the new log when it is applied. -/
def guardStateWritten (s : State) : State :=
  match s.grd.job with
  | none => s
  | some j =>
    if !s.nightwatch || decide (j.step ≠ .writing) then s else
    let f := s.flash.setGuard (!s.flash.guardCur) j.next
    let s1 : State := s.setFlash (if j.kind = 0 then { f with log := f.log ++ [j.entry] } else f)
    if j.kind = 0 && s1.guardBlocked j.next j.affected then s1.guardAbort j.kind
    else s1.setGrd { s1.grd with job := some { j with step := .quiescing } }
def execGuardStateWritten (s : State) : Host.Outcome State Fault Refusal := .next (guardStateWritten s)
/-- Erases the log and makes an entry its first. -/
def State.newLog (s : State) (e : GLog) : State := s.setFlash { s.flash with log := [e] }
/-- Everything that enrolment over existing keys does (R353). -/
def State.enrolWipe (s : State) : State :=
  let s1 := s.endTasks (fun _ => true) stGuardReset true
  let s2 := (List.range 64).foldl (fun (s : State) p => if (s.pt p).defined then s.flrPart p else s) s1
  ((((s2.setParts []).setMem { s2.mem with dram := [], poison := [], flaw := [], cipher := [], opened := [] }).setClusters (s2.clusters.map fun kv => (kv.1, (List.range 4).foldl (fun x i => x.zeroSeg i) kv.2))).setGrd { s2.grd with cur := { s2.grd.cur with parts := [], clusters := [] } })
/-- The affected partitions are quiet: the new set-up takes effect, unless a case of R347 or R468 has come up meanwhile. (log 49,
DEDUCED) -/
def guardQuiesced (s : State) : State :=
  match s.grd.job with
  | none => s
  | some j =>
    if !s.nightwatch || decide (j.step ≠ .quiescing) || !s.allParked (fun p => j.affected.contains p) then s
    else if s.guardBlocked j.next j.affected then s.guardAbort j.kind
    else if j.kind = 2 && s.pwr.pins.enrolN then s.guardEnd stEnrolStrap 0
    else
      let s1 : State := s.setGrd { s.grd with job := some { j with step := .applied } }
      let s2 := if j.kind = 2 && (s1.grd.enrolled || s1.grd.locked) then s1.enrolWipe else s1
      let s3 := if j.kind = 0 then s2 else s2.newLog j.entry
      let s4 := s3.installGuard j.next
      let s5 : State := s4.setGrd { s4.grd with enrolled := j.next.hasKeys, locked := false }
      match j.next.chip with
      | none => s5
      | some v => if v = s5.lnk.chip then s5 else (s5.setLnk { s5.lnk with chip := v } : State).reIdentifyAll.chooseParent
def execGuardQuiesced (enrolN : Bool) (s : State) : Host.Outcome State Fault Refusal := .next (guardQuiesced (s.strap enrolN))
/-- Quiescence exceeds GRD_QUIESCE.MS. -/
def guardQuiesceTimeout (s : State) : State :=
  match s.grd.job with
  | none => s
  | some j => if s.nightwatch && decide (j.step = .quiescing) then s.guardAbort j.kind else s
def execGuardQuiesceTimeout (s : State) : Host.Outcome State Fault Refusal := .next (guardQuiesceTimeout s)
/-- COMMIT is written: IDENT is rewritten if LNK_CHIP has changed (R287, R349), and the parked tasks go on. (log 49, DEDUCED) -/
def guardCommit (s : State) : State :=
  match s.grd.job with
  | none => s
  | some j =>
    if !s.nightwatch || decide (j.step ≠ .applied) then s else
    let g := { j.next with commit := true }
    let i := !s.flash.guardCur
    let s1 : State := (s.setFlash { s.flash.setGuard i g with guardCur := i }).setGrd { s.grd with cur := g }
    let s2 := match g.chip with
      | some v => if s1.identSettled v then s1 else s1.imageAsk (.ident v)
      | none => s1
    (s2.guardEnd 0 0).unpark
def execGuardCommit (s : State) : Host.Outcome State Fault Refusal := .next (guardCommit s)

/-! ### Attestation (R355 to R357) -/

/-- Words of a partition's table entry, with the segments that it owns in each cluster, and of its extent table (R339). -/
def GuardState.tableWords (g : GuardState) (p : Nat) : List Word :=
  let x := g.part p
  BitVec.ofNat 64 (bool2 x.defined * 2 ^ 63 + x.vf.toNat * 2 ^ 48 + x.share.toNat * 2 ^ 40 + x.kvQuota.toNat)
    :: ((List.range 768).map fun c => BitVec.ofNat 64 (g.maskOf c p)) ++ (List.range 128).map fun j => mget 0 x.extents j
/-- Words of a partition for M_PART. -/
def GuardState.partWords (g : GuardState) (p : Nat) : List Word := g.tableWords p ++ (g.admOf p).map (·.2)
/-- Words of a whole state copy for M_GUARD. -/
def GuardState.words (g : GuardState) : List Word :=
  let key : List Byte → List Word := fun k => k.map fun b => b.setWidth 64
  g.logseq.setWidth 64 :: ((List.range 64).flatMap g.tableWords) ++ ((List.range 2048).map fun i => mget 0 g.admTab i) ++ key g.keyOp ++ key g.keyCu
/-- Bytes 0 to 767 of the report (Table 15.6). -/
def State.reportHead (s : State) (part : BitVec 8) : List Byte :=
  let f := s.flash
  let flags := bool2 s.fw.booted + 2 * bool2 s.fw.active + 4 * bool2 (!s.grd.enrolled && !s.grd.locked) + 8 * bool2 s.glb.cfgDefaulted
  leBytes 2 1 ++ leBytes 2 1024 ++ leBytes 2 s.lnk.chip.toNat ++ [part, BitVec.ofNat 8 flags] ++ leBytes 8 s.tick.toNat
    ++ leBytes 4 f.slotA.version.toNat ++ leBytes 4 f.slotB.version.toNat ++ leBytes 4 s.cfg.version.toNat ++ leBytes 4 s.grd.cur.logseq.toNat
    ++ rdBytes s.grd.report 32 64 ++ leBytes 64 Config.mRom.toNat ++ leBytes 64 (Config.sha512 f.slotA.image).toNat ++ leBytes 64 (Config.sha512 f.slotB.image).toNat
    ++ leBytes 64 s.cfg.measure.toNat ++ leBytes 64 (Config.sha512 (Config.guardBytes s.flash.guardCopy.words ++ leBytes 64 f.lastChain.toNat)).toNat
    ++ (if part = 0xFF then List.replicate 64 0 else leBytes 64 (Config.sha512 (Config.partBytes (s.grd.cur.partWords part.toNat))).toNat)
    ++ padTo 133 0 ((Config.pubKey s.grd.attKey).take 133) ++ [0, 0, 0] ++ padTo 132 0 (s.grd.endorse.take 132) ++ List.replicate 20 0
/-- GRD_CMD.ATTEST; without an identity every request fails. (log 49, DEDUCED) -/
def attestNow (part : BitVec 8) (s : State) : State :=
  if !s.nightwatch || s.grd.busy then s
  else if s.grd.idFault then s.setGrd { s.grd with result := stIdFault }
  else
    let h := s.reportHead part
    let all := h ++ padTo 132 0 ((Config.sign s.grd.attKey (Config.sha512 h)).take 132) ++ List.replicate 124 0
    (s.setGrd { s.grd with report := wrBytes s.grd.report 0 all } : State).trace .attest
def attest (part : BitVec 8) (s : State) : State := s.orWait (.attest part) (attestNow part)
def execAttest (part : BitVec 8) (s : State) : Host.Outcome State Fault Refusal := .next (attest part s)

end Sys2Proof.Machine
end

