-- ==== Sys2Proof/Machine/Activation.lean ====
section
/-! DEFINITION. Warm activation of a firmware slot (R394 to R400) and the rows of the log and trace registers (R387 to R391).
The state table of R396 is the state of this model, which a switch does not touch; its bytes in control SRAM are open. -/

namespace Sys2Proof.Machine

/-! ### Requests (R394) -/

def State.setAct (s : State) (a : Option Activation) : State :=
  let f := { s.fw with act := a }
  (s.setFw { f with state := if a.isSome then f.actCode else f.idleCode })
/-- Ends a request: the parked tasks are released and the re-shard plans go on. -/
def State.actEnd (s : State) (st : BitVec 16) (t : Tp) : State :=
  ((((s.setAct none).fwResult st).note t 0xFF st []).unpark).reshAll
/-- FW_CMD.ACTIVATE. (log 19, DEDUCED) -/
def activate (slot persist : Bool) (s : State) : State :=
  if !s.nightwatch || s.fw.act.isSome then s else
  let x := s.flash.slot slot
  let out := (s.flash.slot s.fw.active).stateOut
  if slot = s.fw.active then (s.fwResult stActSameSlot).note .actRequest 0xFF stActSameSlot []
  else if !x.valid then (s.fwResult stFwSig).note .actRequest 0xFF stFwSig []
  else if out.toNat < x.stateLo.toNat ∨ x.stateHi.toNat < out.toNat then (s.fwResult stActStateVersion).note .actRequest 0xFF stActStateVersion []
  else (s.setAct (some { slot := slot, persist := persist, st := .deferred, copy := x })).trace .actRequest
def execActivate (slot persist : Bool) (s : State) : Host.Outcome State Fault Refusal := .next (activate slot persist s)
/-- FW_CMD.CANCEL. (log 51, DEDUCED) -/
def cancel (s : State) : State :=
  match s.fw.act with
  | none => s
  | some _ => if s.nightwatch then (((s.setAct none).trace .deferral).unpark).reshAll else s
def execCancel (s : State) : Host.Outcome State Fault Refusal := .next (cancel s)

/-! ### Waiting and parking (R395, R396) -/

/-- The emergencies have been clear for 100 ms. (log 19, DEDUCED) -/
def activationParkStart (s : State) : State :=
  match s.fw.act with
  | some a =>
    if s.nightwatch && decide (a.st = .deferred) && !s.emergency then (s.setAct (some { a with st := .parking })).trace .actPark else s
  | none => s
def execActivationParkStart (s : State) : Host.Outcome State Fault Refusal := .next (activationParkStart s)
/-- 10 s from the request without parking. -/
def deferTimeout (s : State) : State :=
  match s.fw.act with
  | some a => if s.nightwatch && decide (a.st = .deferred) then s.actEnd stDeferTimeout .deferral else s
  | none => s
def execDeferTimeout (s : State) : Host.Outcome State Fault Refusal := .next (deferTimeout s)
/-- PARK_MS has passed. -/
def actParkTimeout (s : State) : State :=
  match s.fw.act with
  | some a => if s.nightwatch && decide (a.st = .parking) then s.actEnd stActParkTimeout .actPark else s
  | none => s
def execActParkTimeout (s : State) : Host.Outcome State Fault Refusal := .next (actParkTimeout s)
/-- What an activation lets finish: tasks up to their boundary, the current re-shard records, a guard record, a slot write. -/
def State.actQuiet (s : State) : Bool :=
  s.allParked (fun _ => true) && !(s.parts.any fun kv => match kv.2.reshPlan with | some q => q.asked | none => false)
    && s.grd.job.isNone && s.fw.write.isNone

/-! ### The switch (R396 to R399) -/

/-- The old firmware writes its state table to control SRAM (R396 step 4). (log 75, DESIGN CHOICE) -/
def State.tableOut (s : State) : State :=
  (s.setMem { s.mem with ctrlSram := wrBytes s.mem.ctrlSram Config.tableBase.toNat (Config.stateTable s.freeTick) } : State).bump 1
/-- A firmware image is loaded into control SRAM and starts on the working cores (R396 step 5). (log 75, DESIGN CHOICE) -/
def State.startImage (s : State) (x : FwSlot) : State :=
  (s.setMem { s.mem with ctrlSram := x.loadInto s.mem.ctrlSram } : State).setCcores []
/-- Everything is parked: the switch begins, or with an emergency the request waits again. -/
def firmwareSwitch (s : State) : State :=
  match s.fw.act with
  | some a =>
    if !s.nightwatch || decide (a.st ≠ .parking) || !s.actQuiet then s
    else if s.emergency then (((s.setAct (some { a with st := .deferred })).trace .deferral).unpark).reshAll
    else ((s.trace .actSwitch).setAct (some { a with st := .switching })).tableOut
  | none => s
def execFirmwareSwitch (s : State) : Host.Outcome State Fault Refusal := .next (firmwareSwitch s)
/-- Writes the events held during the switch with FLAGS.HELD (R397). (log 51, DEDUCED) -/
def State.logHeld (s : State) : State :=
  s.log.held.foldl (fun (s : State) e =>
    if (e.sev < 4 && decide (e.sev < s.log.minSev.toNat)) || !s.served then s else s.logPut e true) (s.setLog { s.log with held := [] })
/-- A command that waited for the end of a switch. -/
def runWaiting (c : NwCmd) (s : State) : State :=
  match c with
  | .detach x => detachNow x s
  | .attach x => attachNow x s
  | .ring p n en => if en then ringEnableNow p n s else ringDisableNow p n s
  | .vfFlr k => vfFlrNow k.val s
  | .pfFlr => pfFlrNow s
  | .release p => releaseNow p.val s
  | .lnkMode v => litLanesNow v s
  | .chip c => chipAssignNow c s
  | .adopt m => adoptNow m s
  | .retrain n => retrainNow n.val s
  | .submit len => submitNow len.toNat s
  | .attest p => attestNow p s
  | .cfgWrite => cfgWriteNow s
/-- What follows the switch, whichever firmware resumes: the commands that came during it are taken in their order. -/
def State.actResume (s : State) (st : BitVec 16) (t : Tp) : State :=
  let s1 := (((s.setAct none).fwResult st).logHeld).note t 0xFF st []
  let s2 := s1.fw.waiting.foldl (fun s c => runWaiting c s) (s1.setFw { s1.fw with waiting := [] })
  s2.pwrWaited.unpark.reshAll
/-- The new firmware's loops have resumed. (log 51, DEDUCED) -/
def activationDone (s : State) : State :=
  match s.fw.act with
  | some a =>
    if !s.served || decide (a.st ≠ .switching) then s else
    let f := { s.fw with active := a.slot, lpl := (s.flash.slot a.slot).lpl }
    (((s.startImage a.copy).setFw f).setFlash { s.flash with bootSlot := if a.persist then a.slot else s.flash.bootSlot } : State).actResume 0 .actSwitch
  | none => s
def execActivationDone (s : State) : Host.Outcome State Fault Refusal := .next (activationDone s)
/-- The old slot restarts from its staging copy. -/
def actFallback (s : State) : State :=
  match s.fw.act with
  | some a =>
    if s.served && decide (a.st = .switching) then (s.startImage (s.flash.slot s.fw.active)).actResume stActFallback .fallback else s
  | none => s
def execActFallback (s : State) : Host.Outcome State Fault Refusal := .next (actFallback s)

/-! ### Log and trace registers (R387 to R391) -/

/-- A write of TRC_MARK. -/
def traceMark (point : BitVec 8) (data : BitVec 56) (s : State) : State :=
  let n := 0xF0 + point.toNat % 16
  if s.served && s.log.en && s.log.mask.getLsbD n then
    (s.traceRaw n 8 0xFF (data.setWidth 64) (s.freeAt 0) (s.freeAt 1)).bump 2
  else s
def execTraceMark (point : BitVec 8) (data : BitVec 56) (s : State) : Host.Outcome State Fault Refusal := .next (traceMark point data s)
/-- TRC_CTRL.EN becomes 1. -/
def traceEnable (s : State) : State :=
  if !s.served || s.log.en then s else (s.setLog { s.log with en := true } : State).traceEpoch
def execTraceEnable (s : State) : Host.Outcome State Fault Refusal := .next (traceEnable s)
/-- Bit 31 of the Meridian counter has changed. -/
def execEpochRecord (s : State) : Host.Outcome State Fault Refusal := .next (if s.served then s.traceEpoch else s)
def clearLost (s : State) : State := if s.served then s.setLog { s.log with lost := 0 } else s
def execClearLost (s : State) : Host.Outcome State Fault Refusal := .next (clearLost s)

/-! ### CLEAR fields of the cluster pages (R101, R124, R241, R249) -/

def execSpadStatusClear (c : Fin 768) (s : State) : Host.Outcome State Fault Refusal :=
  .next (if s.served then s.modCl c.val fun x => { x with corrected := 0, uncorrected := 0, winFaults := 0 } else s)
def execVecStatusClear (c : Fin 768) (s : State) : Host.Outcome State Fault Refusal :=
  .next (if s.served then s.modCl c.val fun x => { x with flushes := 0, overflows := 0, invalids := 0 } else s)
def execXcStatusClear (c : Fin 768) (s : State) : Host.Outcome State Fault Refusal :=
  .next (if s.served then s.modCl c.val fun x => { x with expStalls := 0, rawTiles := 0, indexFaults := 0 } else s)
def execSparseStatusClear (c : Fin 768) (s : State) : Host.Outcome State Fault Refusal :=
  .next (if s.served then s.modCl c.val fun x => { x with imbalance := 0, worst := 0, splitFaults := 0 } else s)

end Sys2Proof.Machine
end

