-- ==== Sys2Proof/Machine/Dram.lean ====
section
/-! DEFINITION. The vault controllers' own rows (R196 to R208, R215 to R219), the scratchpad scrubber (R125) and the gather units
(R201). Timing and the order in which a controller serves its queue are not modelled: a row takes effect whole. -/

namespace Sys2Proof.Machine

/-! ### Requests -/

/-- See log 65, DESIGN CHOICE. -/
def State.answer (s : State) (st : BitVec 16) (data : List Byte) (poison : List Nat) : State :=
  s.setMem { s.mem with ans := { status := st, data := data, poison := poison } }
/-- A read of n bytes of device memory. -/
def State.memRead (s : State) (a n : Nat) : State :=
  if !s.devOn a n then s.answer stGroupOff [] []
  else
    let s1 := s.vaultRead a n
    s1.answer 0 (s1.devRd a n) (s1.devPoison a n)
/-- A write of device memory; one that reaches a group that is not ACTIVE is discarded and logged (R410). -/
def State.memWrite (s : State) (a : Nat) (bs : List Byte) : State :=
  if !s.devOn a bs.length then (s.groupOffLog a (s.ownerOfDev a) s.lnk.chip).answer stGroupOff [] []
  else (s.vaultWrite a bs).answer 0 [] []
/-- A range of the 2^37 device bytes. (log 15, DEDUCED) -/
def inDram (a n : Nat) : Bool := decide (a + n ≤ 2 ^ 37)

/-- n whole bursts from the one that holds an address. (log 15, DEDUCED) -/
def burstRead (a n : Nat) (s : State) : State :=
  let b := a / 256 * 256
  if s.live && inDram b (256 * n) then s.memRead b (256 * n) else s
def execBurstRead (addr : BitVec 37) (n : Nat) (s : State) : Host.Outcome State Fault Refusal := .next (burstRead addr.toNat n s)
/-- Whole bursts: bytes that do not fill a last burst belong to the narrow path. (log 15, DEDUCED) -/
def burstWrite (a : Nat) (data : List Byte) (s : State) : State :=
  let b := a / 256 * 256
  let bs := data.take (data.length / 256 * 256)
  if s.live && inDram b bs.length then s.memWrite b bs else s
def execBurstWrite (addr : BitVec 37) (data : List Byte) (s : State) : Host.Outcome State Fault Refusal :=
  .next (burstWrite addr.toNat data s)
def narrowRead (a n : Nat) (s : State) : State := if s.live && inDram a n then s.memRead a n else s
def execNarrowRead (addr : BitVec 37) (len : Nat) (s : State) : Host.Outcome State Fault Refusal := .next (narrowRead addr.toNat len s)
def narrowWrite (a : Nat) (data : List Byte) (s : State) : State := if s.live && inDram a data.length then s.memWrite a data else s
def execNarrowWrite (addr : BitVec 37) (data : List Byte) (s : State) : Host.Outcome State Fault Refusal :=
  .next (narrowWrite addr.toNat data s)

/-! ### Memory-side adders (R204 to R207) -/

/-- The die-sector after an update of its elements from a byte on; a value that does not fill an element updates nothing. -/
def atomSector (op ty : Nat) (old data : List Byte) : List Byte :=
  let n := atomBytes ty
  (List.range (data.length / n)).flatMap fun i => leBytes n (atomVal op ty (fieldAt old (n * i) n) (fieldAt data (n * i) n))
/-- One update of a die-sector: a poisoned target stays as it is, a poisoned value poisons the target (R207). -/
def State.atomAt (s : State) (op ty a : Nat) (data : List Byte) (poisoned : Bool) : State :=
  let b := a / atomBytes ty * atomBytes ty
  let bs := data.take (32 - b % 32)
  let s1 := s.vaultRead (b / 256 * 256) 256
  if mget false s1.mem.poison (b / 32) then s1
  else if poisoned then s1.devPoisonSet [b / 32]
  else s1.devWr b (atomSector op ty (s1.devRd b bs.length) bs)
/-- AOP 3 is reserved (R175): no update. (log 21, DEDUCED) -/
def memoryAtomic (a op ty : Nat) (data : List Byte) (poisoned : Bool) (s : State) : State :=
  if !s.live || op = 3 then s
  else if !s.devOn a 1 then (s.groupOffLog a (s.ownerOfDev a) s.lnk.chip).answer stGroupOff [] []
  else (s.atomAt op ty a data poisoned).answer 0 [] []
def execMemoryAtomic (addr : BitVec 37) (aop atype : BitVec 2) (data : List Byte) (poisoned : Bool) (s : State) :
    Host.Outcome State Fault Refusal := .next (memoryAtomic addr.toNat aop.toNat atype.toNat data poisoned s)

/-! ### The home gather unit (R201 to R203) -/

/-- A bag of a table of partition p: the output row, in the format of the destination. -/
def State.bag (s : State) (p : Nat) (t : Ten) (ixs : List (Except (BitVec 16) Nat)) (ofmt : Nat) : State :=
  let reach := gathReach true t ixs
  if !reach.all fun r => s.partOn p r.1 r.2 then s.answer stGroupOff [] []
  else
    let s1 := reach.foldl (fun s r => s.partTouch p r.1 r.2) s
    let g := gathBag true t ofmt (dramRd s1 p) (fun k => s1.freeAt k) ixs
    let data := g.vals.flatMap (leBytes (eltBytes ofmt))
    (s1.answer g.flt data (if g.pois.any id then List.range (ceilDiv data.length 32) else [])).bump (t.e 0)
def pooledBag (p : Nat) (table : BitVec 256) (slots : List (Option Nat)) (outFmt : Nat) (s : State) : State :=
  if !s.live || !(s.pt p).defined then s else
  s.bag p (mkOpd table).t (slots.map fun x => match x with | some n => .ok n | none => .ok (emptyIdx true)) outFmt
def execPooledBag (p : Fin 64) (table : BitVec 256) (slots : List (Option Nat)) (outFmt : BitVec 8) (s : State) :
    Host.Outcome State Fault Refusal := .next (pooledBag p.val table slots outFmt.toNat s)

/-! ### Refresh, scrubs, error table (R125, R215, R217, R219) -/

/-- Refreshes are counted; they hold their bank for 120 ns and keep its data. (log 65, DESIGN CHOICE) -/
def refresh (v die bank : Nat) (s : State) : State :=
  if s.live && decide ((s.grp (v / 8)).st = .active) then
    s.setMem { s.mem with refreshes := mmod 0 s.mem.refreshes (128 * v + 16 * die + bank) (· + 1) }
  else s
def execRefresh (v : Fin 512) (die : Fin 8) (bank : Fin 16) (s : State) : Host.Outcome State Fault Refusal :=
  .next (refresh v.val die.val bank.val s)
/-- Device address of burst i of a vault, in ascending order. -/
def scrubAddr (v i : Nat) : Nat := (v / 8) * 2 ^ 31 + (i / 16) * 2 ^ 15 + (v % 8) * 2 ^ 12 + (i % 16) * 2 ^ 8
/-- One burst of each vault of an ACTIVE group. (log 60, DEDUCED) -/
def patrolScrub (g : Nat) (s : State) : State :=
  if !s.live || !decide ((s.grp g).st = .active) then s else
  let i := mget 0 s.mem.scrubPos g
  let s1 := (List.range 8).foldl (fun (s : State) k => s.vaultRead (scrubAddr (8 * g + k) i) 256) s
  let wrap := decide (1048575 ≤ i)
  (s1.setMem { s1.mem with
    scrubPos := mset 0 s1.mem.scrubPos g (if wrap then 0 else i + 1)
    scrubPasses := if wrap && g == 0 then satAdd s1.mem.scrubPasses 1 else s1.mem.scrubPasses })
def execPatrolScrub (g : Fin 64) (s : State) : Host.Outcome State Fault Refusal := .next (patrolScrub g.val s)
/-- Entry idx of a vault's error table goes. -/
def errorEntryExpire (v idx : Nat) (s : State) : State :=
  if !s.live then s else
  s.setMem { s.mem with errTab := mset [] s.mem.errTab v ((mget [] s.mem.errTab v).eraseIdx idx) }
def execErrorEntryExpire (v : Fin 512) (idx : Nat) (s : State) : Host.Outcome State Fault Refusal :=
  .next (errorEntryExpire v.val idx s)
/-- The next line that the scrubber visits: lines of segments that are not ON are passed over. -/
def Cluster.scrubNext (x : Cluster) : Option Nat :=
  let l := x.scrubLine % 24576
  if x.segOn.getLsbD (l / 6144) then some l
  else ((List.range 4).map fun k => (l / 6144 + 1 + k) % 4).find? (fun g => x.segOn.getLsbD g) |>.map (6144 * ·)
/-- The scrubber works while CLK_A of the cluster runs (R125, Table 20.5). (log 60, DEDUCED) -/
def scratchpadScrub (c : Nat) (s : State) : State :=
  if !s.live || decide ((s.cl c).cstate = .off) then s else
  match (s.cl c).scrubNext with
  | none => s
  | some l => (s.spadTouch c (128 * l) 128).modCl c fun x => { x with scrubLine := (l + 1) % 24576 }
def execScratchpadScrub (c : Fin 768) (s : State) : Host.Outcome State Fault Refusal := .next (scratchpadScrub c.val s)

end Sys2Proof.Machine
end

