-- ==== Sys2Proof/Machine/PowerUp.lean ====
section
/-! DEFINITION. Insertion, power-up and boot (R428 to R435, R437, R438, R441, R224 to R226, R341, R355, R356), and what removes the
rails (R430, R443, R446, R472). -/

namespace Sys2Proof.Machine

/-! ### Pins -/

/-- RMV_OK is high while no rail is up (R431). -/
def State.rmvOk (s : State) : Bool := !s.pwr.rails
def State.setPins (s : State) (f : Pins → Pins) : State := s.setPwr { s.pwr with pins := f s.pwr.pins }
/-- The blade connector mates and the bulk capacitance charges. -/
def bladeMate (s : State) : State :=
  if s.pwr.pins.present then s else
  let s1 := s.setPins fun x => { x with present := true, vin := 64000 }
  (s1.setPwr { s1.pwr with charged := true })
def execBladeMate (s : State) : Host.Outcome State Fault Refusal := .next (bladeMate s)
/-- The sequencer removes the rails. -/
def State.cut (s : State) : State := if s.pwr.rails then s.railsOff else s
/-- ENABLE goes low; it clears the trip latch. -/
def enableLow (s : State) : State :=
  let s1 := s.setPins fun x => { x with enable := false }
  (s1.setPwr { s1.pwr with trip := false } : State).cut
def execEnableLow (s : State) : Host.Outcome State Fault Refusal := .next (enableLow s)
/-- The input has been below 56 V, or above 72 V, for 10 µs; its value in mV is not given. (log 54, DEDUCED) -/
def inputUndervoltage (s : State) : State :=
  ((s.setPins fun x => { x with vin := (s.freeAt 0).toNat % 56000 }).bump 1).cut
def execInputUndervoltage (s : State) : Host.Outcome State Fault Refusal := .next (inputUndervoltage s)
/-- See log 54, DEDUCED. -/
def inputOvervoltage (s : State) : State :=
  ((s.setPins fun x => { x with vin := 72001 + (s.freeAt 0).toNat }).bump 1).cut
def execInputOvervoltage (s : State) : Host.Outcome State Fault Refusal := .next (inputOvervoltage s)
def execRefclkLoss (s : State) : Host.Outcome State Fault Refusal := .next (s.setPins fun x => { x with refclk := false }).cut
def execPllLockLoss (s : State) : Host.Outcome State Fault Refusal := .next s.cut
/-- The module leaves its slot: no pin is driven from the board any longer (Table 22.4). (log 54, DEDUCED) -/
def surpriseRemoval (s : State) : State :=
  let s1 := s.setPins fun _ => Pwr.reset.pins
  (s1.setPwr { s1.pwr with trip := false, charged := false } : State).cut
def execSurpriseRemoval (s : State) : Host.Outcome State Fault Refusal := .next (surpriseRemoval s)

/-! ### Self-test (steps 6 and 7, R441) -/

/-- Segments of a cluster that failed. -/
def badSegsOf (e : BootEnv) (c : Nat) : List Nat := (e.badSegs.filter fun x => decide (x.1.val = c)).map (·.2.val)
/-- Clusters that failed, or lost all four segments. -/
def lostClusters (e : BootEnv) : List Nat :=
  (List.range 768).filter fun c => (e.badClusters.any fun x => decide (x.val = c)) || (List.range 4).all fun g => (badSegsOf e c).contains g
/-- The order n of P-521 (FIPS 186-5). (log 12, PRESUMED) -/
abbrev p521Order : Nat := 0x01FFFFFFFFFFFFFFFFFFFFFFFFFFFFFFFFFFFFFFFFFFFFFFFFFFFFFFFFFFFFFFFFFFFA51868783BF2F966B7FCC0148F709A5D03BB5C9B8899C47AEBB6FB71E91386409
/-- A private key from bytes: SHA-512 modulo n - 1, plus 1 (R355, R356). -/
def deriveKey (bs : List Byte) : BitVec 528 := BitVec.ofNat 528 ((Config.sha512 bs).toNat % (p521Order - 1) + 1)
/-- The identity key of a seed: the bytes of "ID" follow it. -/
def identityKey (seed : List Byte) : BitVec 528 := deriveKey (seed ++ [0x49, 0x44])
/-- The state when the core rail is up and the clocks run, with what self-test has found; a vault group that failed stays OFF, in
recovery too (R441). (log 54, DEDUCED) -/
def State.selfTest (s : State) (e : BootEnv) : State :=
  let glb : Glb := { Glb.reset with
    badCores := e.badCores.map (·.val), badClusters := lostClusters e, badSegs := e.badSegs.map fun x => (x.1.val, x.2.val)
    badGroups := e.badGroups.map (·.val), badPorts := e.badPorts.map (·.val), badOptical := e.badOptical.map (·.val), bootMs := e.bootMs }
  let bad := !(e.badCores.isEmpty && glb.badClusters.isEmpty && e.badSegs.isEmpty && e.badGroups.isEmpty && e.badPorts.isEmpty
    && e.badOptical.isEmpty)
  let grps : Map VGroup := (List.range 64).filterMap fun g =>
    if glb.badGroups.contains g then some (g, { VGroup.reset with st := .off }) else none
  let s0 := s.railsOff
  let s1 := s0.setMem { s0.mem with groups := grps }
  ((((s1.setPwr { s1.pwr with rails := true, slotId := e.slotStraps, boot := .booting }).setClk { s1.clk with pllLock := true }).setGlb { glb with degraded := bad }).setGrd { s1.grd with
    idFault := !(e.identityOk && s1.flash.certOk), nonce := e.nonce, certIn := true, seed := Config.pufSeed, dId := identityKey Config.pufSeed }).setHif { s1.hif with
    serial := BitVec.ofNat 64 (Config.sha512 (Config.pubKey (identityKey Config.pufSeed))).toNat }
/-- Units without which the boot does not complete: one control core, one cluster with a segment, one vault group. (log 54, DEDUCED) -/
def State.canServe (s : State) : Bool :=
  !s.workingCores.isEmpty && ((List.range 768).any fun c => !s.glb.badClusters.contains c)
    && (List.range 64).any fun g => !s.glb.badGroups.contains g

/-! ### Slot and keys (steps 9 and 10) -/

/-- The slot that boots, if one verifies. -/
def Flash.bootable (f : Flash) : Option Bool :=
  if (f.slot f.bootSlot).valid then some f.bootSlot else if (f.slot (!f.bootSlot)).valid then some (!f.bootSlot) else none
/-- Keys and endorsement for the slot; the seed and the identity key are cleared (R356). -/
def State.attestKeys (s : State) (m : BitVec 512) : State :=
  let d := s.grd.dId
  let k := deriveKey (leBytes 66 d.toNat ++ leBytes 64 Config.mRom.toNat ++ leBytes 64 m.toNat)
  (s.setGrd { s.grd with
    attKey := k, seed := [], dId := 0
    endorse := Config.sign d (Config.sha512 (Config.pubKey k ++ leBytes 64 Config.mRom.toNat ++ leBytes 64 m.toNat)) })

/-! ### Image and repair (steps 11 and 12) -/

/-- DEFAULTED of an image: bit n for section n (R438); the whole image defaults with its header. (log 54, DEDUCED) -/
def CfgImage.defaults (x : CfgImage) : BitVec 7 :=
  if !x.headerOk then 0x7F else
  BitVec.ofNat 7 (bool2 x.ident.isNone + 2 * bool2 x.power.isNone + 4 * bool2 x.neighbours.isNone + 8 * bool2 x.routes.isNone
    + 16 * bool2 x.link.isNone + 32 * bool2 x.host.isNone + 64 * bool2 x.fieldRep.isNone)
/-- The image that the boot uses: the chosen one, or one with every section absent. -/
def Flash.boots (f : Flash) : CfgImage :=
  let x := f.img f.chosen
  if x.headerOk then x else CfgImage.blank
/-- See log 54, DEDUCED. -/
def State.selectImage (s : State) : State :=
  let x := s.flash.boots
  (((s.setGlb { s.glb with cfgDefaulted := !x.headerOk }).setCfg { Cfg.reset with version := x.version, defaulted := x.defaults, measure := if x.headerOk then x.measure else Config.cfgDefault }).setHif { s.hif with
    apGib := match x.host with | some h => h.2.2 | none => 16
    apBoot := match x.host with | some h => h.2.2 | none => 16 })
/-- Entries of types 1 and 2. -/
def Repair.spares (r : Repair) : Repair := { Repair.none with remaps := r.remaps, badSpares := r.badSpares }
/-- Entries of types 3 and 4. -/
def Repair.blocks (r : Repair) : Repair := { Repair.none with retired := r.retired, failed := r.failed }
/-- The row test remaps a failing row; without a spare its block is retired with cause 2. -/
def Mem.rowFails (m : Mem) (x : Fin 512 × Fin 8 × Fin 16 × BitVec 12) : Mem :=
  let v := x.1.val
  let d := x.2.1.val
  let b := x.2.2.1.val
  let row := x.2.2.2.toNat
  match m.freeSpare v d b with
  | some sp => { m with factory := { m.factory with
      remaps := m.factory.remaps ++ [{ vault := v, die := d, bank := b, row := row, spare := sp, fails := 0 }] } }
  | none =>
    let k := blockOf v b row / 4096
    if m.field.retired.any fun y => decide (y.1 = k) then m
    else
      let m1 := { m with bootRetired := m.bootRetired ++ [4096 * k] }
      if 4096 ≤ m.field.retired.length then { m1 with retireFull := true }
      else { m1 with field := { m.field with retired := m.field.retired ++ [(k, 2)] } }
/-- Factory and field repair. (log 54, DEDUCED) -/
def State.loadRepair (s : State) (rows : List (Fin 512 × Fin 8 × Fin 16 × BitVec 12)) : State :=
  let fr := s.flash.boots.fieldRep
  let field := match fr with | some r => r.stored | none => Repair.none
  let skip := fr.isNone
  if s.flash.factA.ok then s.setMem { s.mem with factory := s.flash.factA.repair, field := field, fieldSkip := skip }
  else if s.flash.factB.ok then s.setMem { s.mem with factory := s.flash.factB.repair, field := field, fieldSkip := skip, factoryB := true }
  else
    let m := rows.foldl Mem.rowFails { s.mem with factory := Repair.none, field := field.blocks, fieldSkip := skip, rebuilt := true }
    (((s.setMem m).setFlash { s.flash with factA := FactCopy.of m.factory, factB := FactCopy.of m.factory }).setCfg { s.cfg with dirty := decide (m.field ≠ field) })

/-! ### Guard store (step 14, R341, R342, R349) -/

/-- The copy that counts: its digest checks, COMMIT is written, its LOGSEQ is higher. -/
def Flash.guardPick (f : Flash) : Option Bool :=
  let ok : GuardState → Bool := fun g => g.digestOk && g.commit
  if ok f.guard0 && ok f.guard1 then some (decide (f.guard0.logseq.toNat < f.guard1.logseq.toNat))
  else if ok f.guard0 then some false else if ok f.guard1 then some true else none
/-- Log entries that the copy does not reflect were never committed. -/
def Flash.abortAfter (f : Flash) (seq : BitVec 32) : Flash :=
  { f with log := f.log.map fun e => if serialBefore seq e.seq then { e with aborted := true } else e }
/-- With no copy that counts, the entry of a record whose copy was written without COMMIT is the one that was not committed (R349). -/
def Flash.abortLoose (f : Flash) : Flash :=
  let loose : BitVec 32 → Bool := fun q => [f.guard0, f.guard1].any fun g => g.digestOk && !g.commit && decide (g.logseq = q)
  { f with log := f.log.map fun e => if loose e.seq then { e with aborted := true } else e }
def State.loadGuard (s : State) : State :=
  match s.flash.guardPick with
  | none => (s.setFlash s.flash.abortLoose).setGrd { s.grd with locked := true, enrolled := false, cur := GuardState.blank }
  | some i =>
    let g := if i then s.flash.guard1 else s.flash.guard0
    ((s.setFlash { s.flash.abortAfter g.logseq with guardCur := i }).setGrd { s.grd with locked := false, enrolled := g.hasKeys, cur := g.effective })

/-! ### Nightwatch starts (step 15) -/

/-- A cluster at step 15: every working segment ON and zero, RUN unless the cluster failed (R434, R441). -/
def bootCluster (s : State) (c : Nat) : Cluster :=
  let v := mget 0 s.grd.cur.clusters c
  let bad := s.glb.badClusters.contains c
  let mask := (List.range 4).foldl (fun m g => if bad || s.glb.badSegs.contains (c, g) then m else m + 2 ^ g) 0
  { Cluster.reset with
    cstate := if bad then .off else .run
    cycFrozen := if bad then some 0 else none
    segOn := BitVec.ofNat 4 mask, owned := decide (v / 64 % 16 ≠ 0), part := BitVec.ofNat 6 (if v / 64 % 16 = 0 then 0 else v), segmask := BitVec.ofNat 4 (v / 64) }
/-- Settings of the image and the guard state are loaded; partitions are set up. -/
def State.nightwatchStart (s : State) : State :=
  let x := s.flash.boots
  let es := match x.neighbours with | some l => l | none => []
  let ports : Map Port := (List.range 39).foldl (fun m n =>
    let e := nth (0x3FFF, 0x3F) es n
    mset Port.reset m n { Port.reset with expectChip := e.1, expectPort := if n < 7 then BitVec.ofNat 6 (6 - n) else e.2 }) []
  let id := match x.ident with | some v => v | none => 0x3FFF
  let lnk : Lnk := { Lnk.reset with
    chip := id
    routes := match x.routes with | some m => m | none => []
    boardRobust := match x.link with | some l => l.1 | none => Lnk.reset.boardRobust
    timeout := match x.link with | some l => l.2 | none => Lnk.reset.timeout
    ports := ports }
  let cls : Map Cluster := (List.range 768).map fun c => (c, bootCluster s c)
  let s1 : State := ((((s.setLnk lnk).setClusters cls).setPwr { s.pwr with cap := x.power.getD 0x258 }).setHif { s.hif with
      retainS := match x.host with | some h => h.1 | none => Hif.reset.retainS
      hbMs := match x.host with | some h => h.2.1 | none => Hif.reset.hbMs }).setLog { s.log with base := Config.logBase, trcBase := Config.trcBase }
  (List.range 64).foldl (fun (s : State) p => if (s.grd.cur.part p).defined then s.installPart s.grd.cur p else s) s1
/-- The boot from step 9 on. (log 54, DEDUCED) -/
def State.bootSlot (s : State) (rows : List (Fin 512 × Fin 8 × Fin 16 × BitVec 12)) : State :=
  let few := decide (s.workingCores.length < 4)
  match s.flash.bootable with
  | none =>
    let s1 := (s.selectImage).loadRepair rows
    (((s1.setGlb { s1.glb with noFw := true }).setPwr { s1.pwr with boot := .recovery }).setFw { s1.fw with degraded := few })
  | some b =>
    let x := s.flash.slot b
    let s1 : State := ((((s.setGlb { s.glb with slotFallback := decide (b ≠ s.flash.bootSlot), noFw := false }).setFlash { s.flash with bootSlot := b }).setFw { s.fw with active := b, booted := b, degraded := few, lpl := x.lpl }).setPwr { s.pwr with boot := .booting }).setMem { s.mem with
      dram := [], poison := [], flaw := [], ctrlSram := x.loadInto [] }
    ((((s1.attestKeys (Config.sha512 x.image)).selectImage).loadRepair rows).loadGuard).nightwatchStart
/-- ENABLE goes high: the board keeps R429, so the reference is present and the
input lies in 60 to 68 V. The rails do not rise again until ENABLE has been low. (log 54, DEDUCED) -/
def powerUp (e : BootEnv) (s : State) : State :=
  if !s.pwr.pins.present || !s.pwr.charged || s.pwr.pins.enable || s.pwr.rails || s.pwr.trip then s else
  let v := s.pwr.pins.vin
  let good := decide (60000 ≤ v) && decide (v ≤ 68000)
  let s0 := (s.setPins fun x => { x with
    enable := true, refclk := true, slot := e.slotStraps, enrolN := e.enrolN
    vin := if good then v else 60000 + (s.freeAt 0).toNat % 8001 }).bump (if good then 0 else 1)
  let s1 := s0.selfTest e
  if s1.canServe then s1.bootSlot e.badRows else s1.setPwr { s1.pwr with boot := .noCore }
def execPowerUp (env : BootEnv) (s : State) : Host.Outcome State Fault Refusal := .next (powerUp env s)

/-! ### Step 16 and recovery -/

/-- A severity-3 log entry for each disabled unit. -/
def State.unitsLog (s : State) : State :=
  let us := s.glb.badCores.map (fun n => (6, n)) ++ s.glb.badClusters.map (fun n => (1, n))
    ++ s.glb.badSegs.map (fun x => (2, 4 * x.1 + x.2)) ++ s.glb.badGroups.map (fun n => (3, n)) ++ s.glb.badPorts.map (fun n => (5, n))
    ++ s.glb.badOptical.map (fun n => (5, 64 + n))
  us.foldl (fun (s : State) u => s.noteSev .error 3 0xFF 0 [BitVec.ofNat 64 u.1, BitVec.ofNat 64 u.2]) s
/-- The repair events of the blocks that the row test retired (R223). -/
def State.retiredLog (s : State) : State :=
  let s1 := s.mem.bootRetired.foldl (fun (s : State) a =>
    s.note .repair (s.ownerOfDev a) 0 [BitVec.ofNat 64 a, BitVec.ofNat 64 (groupOf a)]) s
  s1.setMem { s1.mem with bootRetired := [] }
/-- Step 16: configuration requests complete and fabric ports train. (log 54, DEDUCED) -/
def bootComplete (s : State) : State :=
  if !s.live || decide (s.pwr.boot ≠ .booting) then s else
  ((s.setPwr { s.pwr with boot := .ready } : State).unitsLog.retiredLog).startPorts
def execBootComplete (s : State) : Host.Outcome State Fault Refusal := .next (bootComplete s)
/-- The slot write ends; in recovery the boot repeats from step 9 if it succeeded, with a new nonce and an open BOOT_MS. (log 54, DEDUCED) -/
def slotWriteDone (ok : Bool) (s : State) : State :=
  if !s.fwServed || s.fw.write.isNone then s else
  let s1 := s.slotWritten ok
  if s1.pwr.boot = .recovery ∧ s1.flash.bootable.isSome then
    (((s1.setGlb { s1.glb with bootMs := (s1.freeAt 1).setWidth 16 }).setGrd { s1.grd with nonce := Config.entropy s1.freeTick } : State).bump 2).bootSlot []
  else s1
def execSlotWriteDone (ok : Bool) (s : State) : Host.Outcome State Fault Refusal := .next (slotWriteDone ok s)

end Sys2Proof.Machine
end

