-- ==== Sys2Proof/Machine/Errors.lean ====
section
/-! DEFINITION. The rows of the error classes (R458 to R462, R465, R469). -/

namespace Sys2Proof.Machine

/-- A write of any bytes to a list of ranges, with the free values from place k on. -/
def anyPlan (free : Nat → Word) : List (Nat × Nat) → Nat → Plan
  | [], _ => []
  | r :: rs, k => (r.1, (List.range r.2).map fun i => (free (k + i)).setWidth 8) :: anyPlan free rs (k + r.2)
/-- Leaves ranges of a tensor's space undefined; host memory and another chip's are not the machine's. Nothing is read for it. -/
def State.undefAt (s : State) (c : Nat) (t : Ten) (rs : List (Nat × Nat)) : State :=
  let pl := anyPlan s.freeAt rs 0
  let P := s.pt (s.cl c).part.toNat
  let s1 :=
    if t.space = 0 then pl.foldl (fun (s : State) y => s.modCl c fun x => x.spadWr (winPhys (mget 0 x.win t.win) y.1) y.2) s
    else if s.local t then
      pl.foldl (fun (s : State) y => ((P.runs y.1 y.2.length).foldl (fun (acc : State × List Byte) r =>
        (acc.1.devWr r.1 (acc.2.take r.2), acc.2.drop r.2)) (s, y.2)).1) s
    else s
  s1.bump ((rs.map (·.2)).sum)
/-- Bytes of partition memory that a KVAPP appends. -/
def State.kvappCells (s : State) (c : Nat) (j : Job) : List (Nat × Nat) :=
  let p := (s.cl c).part.toNat
  match kvGood s p (nth 0 j.scal 0) with
  | none => []
  | some (b, l) =>
    let els := List.replicate l.row ({ val := 0, exp := 0, fl := 0, bad := none } : Raw)
    (List.range b.count).flatMap fun i => (List.range ((j.ten 0).e 1)).flatMap fun tok =>
      let (_, pos, src) := s.kvRowOf p b l (kLayer j.word) i tok
      (kvRowPlan l src false (pos % l.p) els ++ kvRowPlan l src true (pos % l.p) els).map fun x => (x.1, x.2.length)
/-- Leaves the outputs of a job that its unit abandons undefined (R465). (log 67, DEDUCED) -/
def State.undefJob (s : State) (c u : Nat) (j : Job) : State :=
  let here : Ten := decDesc 0
  if j.dead then s else
  match j.op with
  | .sfill | .scopy =>
    s.undefAt c { here with space := 0, win := fld j.word 30 29 } [((nth 0 j.scal 0).toNat % 2 ^ 32, (nth 0 j.scal 2).toNat % 2 ^ 32)]
  | .kvapp => s.undefAt c { here with space := 1 } (s.kvappCells c j)
  | .atom => s.undefAt c (j.ten 0) ((List.range (j.ten 0).count).flatMap fun i => ((j.ten 0).cells i).take 1)
  | _ =>
    if u = 5 && !(j.collOf s c).writes then s else
    j.dests.foldl (fun s t => s.undefAt c t
      (if t.xc then [(t.span.1.toNat, t.spanLen)] else (List.range t.count).flatMap t.cells)) s
/-- Leaves the outputs of everything that a cluster's units hold undefined. -/
def State.undefUnits (s : State) (c : Nat) : State :=
  (s.cl c).units.foldl (fun s kv => kv.2.foldl (fun s j => s.undefJob c kv.1 j) s) s
/-- A CLASS 2 error in a cluster's unit: the outputs of what its units held are undefined, its collectives abort, and its owner, if
any, is contained (R465, R466). (log 55, DEDUCED) -/
def unitInternalError (c : Nat) (s : State) : State :=
  if !s.live then s else
  let x := s.cl c
  let r := s.mkErr stErrUnitInternal 2 (s.partOf c) 1 c 0 1 0
  (if x.owned then (s.collTaskEnd [c] stPartContained).undefUnits c else s).class2 r (if x.owned then some (finPart x.part.toNat) else none) (some c) x.task |>.reshStop x.part.toNat
def execUnitInternalError (c : Fin 768) (s : State) : Host.Outcome State Fault Refusal := .next (unitInternalError c.val s)
/-- A host request of a partition that came back with an error. -/
def hostRequestError (p : Fin 64) (s : State) : State :=
  if !s.live || !(s.pt p.val).defined then s else
  s.class2 (s.mkErr stErrHostRequest 2 (BitVec.ofNat 8 p.val) 7 0 0 1 0) (some p) none none |>.reshStop p.val
def execHostRequestError (p : Fin 64) (s : State) : Host.Outcome State Fault Refusal := .next (hostRequestError p s)
/-- Codes of CLASS 3. -/
def class3Codes : List (BitVec 16) :=
  [stErrCtrlSram, stErrWatchdog, stErrMesh, stErrVaultInternal, stErrPowerStage, stThermalTrip]
/-- A CLASS 3 error; a status of another class names none. (log 55, DEDUCED) -/
def fatalError (status unit index : BitVec 16) (akind : BitVec 8) (addr : Word) (s : State) : State :=
  if s.live && class3Codes.contains status then s.fatal (s.mkErr status 3 0xFF unit.toNat index.toNat addr.toNat 1 akind) else s
def execFatalError (status unit index : BitVec 16) (akind : BitVec 8) (addr : Word) (s : State) : Host.Outcome State Fault Refusal :=
  .next (fatalError status unit index akind addr s)
def watchdogExpiry (k : Nat) (s : State) : State :=
  if s.live && !s.glb.badCores.contains k then s.fatal (s.mkErr stErrWatchdog 3 0xFF 6 k 0 1 0) else s
def execWatchdogExpiry (k : Fin 8) (s : State) : Host.Outcome State Fault Refusal := .next (watchdogExpiry k.val s)
/-- Codes of CLASS 0. -/
def class0Codes : List (BitVec 16) := [stErrCorrectedMem, stErrCorrectedLink, stErrCorrectedPcie]
/-- Units whose corrected count is in the state: scratchpads, die slices and fabric ports (Table 21.3). -/
def countedUnit (unit : Nat) : Bool := unit == 2 || unit == 4 || unit == 5
/-- A second has passed in which a unit's corrected count rose; the next pass writes the record, with the rise and the last address
(R462). For a unit whose count is not in the state they come with the row. (log 55, DEDUCED) -/
def correctedRecord (status unit index : BitVec 16) (part akind : BitVec 8) (addr : Word) (count : BitVec 32) (s : State) : State :=
  let k := 65536 * unit.toNat + index.toNat
  let r := if countedUnit unit.toNat then mget Rise.zero s.log.rise k else { count := count, addr := addr }
  if s.live && class0Codes.contains status && decide (r.count ≠ 0) then
    s.setLog
      { s.log with errq := s.log.errq ++ [s.mkErr status 0 part unit.toNat index.toNat r.addr.toNat r.count.toNat akind]
                   rise := if countedUnit unit.toNat then mset Rise.zero s.log.rise k Rise.zero else s.log.rise }
  else s
def execCorrectedRecord (status unit index : BitVec 16) (part akind : BitVec 8) (addr : Word) (count : BitVec 32) (s : State) :
    Host.Outcome State Fault Refusal := .next (correctedRecord status unit index part akind addr count s)

end Sys2Proof.Machine
end

