-- ==== Sys2Proof/Machine/HostPort.lean ====
section
/-! DEFINITION. The PCI Express port: resets, link, D-states, configuration requests (R359, R360, R433) and the memory apertures
(R361, R362, R386, R410, R464). -/

namespace Sys2Proof.Machine

/-! ### Resets and the link -/

/-- The controller and its configuration space start again; an armed heartbeat turns that into HOST_LOST (R359). (log 57, DEDUCED) -/
def State.pcieReset (s : State) : State :=
  let s1 : State := s.setHif { s.hif with
      linkUp := false, training := false, d3 := [], latch := [], cpl := .none, msix := [], apGib := s.hif.apBoot, vfGib := Hif.reset.vfGib }
  if s1.served && s1.hif.hbArmed && !s1.lost none then s1.enterLost none else s1
def execConventionalReset (s : State) : Host.Outcome State Fault Refusal :=
  .next ((s.setPwr { s.pwr with pins := { s.pwr.pins with perstN := false } } : State).pcieReset)
def execHotReset (s : State) : Host.Outcome State Fault Refusal := .next s.pcieReset
def execPerstDeassert (s : State) : Host.Outcome State Fault Refusal :=
  .next ((s.setPwr { s.pwr with pins := { s.pwr.pins with perstN := true } }).setHif { s.hif with training := s.pwr.rails })
/-- The link trains: below 16 GT/s or narrower than x8 it is degraded. -/
def execPcieLinkUp (gtPerS10 width : Nat) (s : State) : Host.Outcome State Fault Refusal :=
  .next (if !s.pwr.rails || !s.pwr.pins.perstN then s else
    s.setHif { s.hif with linkUp := true, training := false, degraded := decide (gtPerS10 < 160) || decide (width < 8) })
/-- The link goes down: with the heartbeat armed the device enters HOST_LOST (R375, R434). (log 57, DEDUCED) -/
def execPcieLinkDown (s : State) : Host.Outcome State Fault Refusal :=
  let s1 : State := s.setHif { s.hif with linkUp := false }
  .next (if s1.served && s1.hif.hbArmed && !s1.lost none then s1.enterLost none else s1)
def execD3hotEntry (fn : Fin 65) (s : State) : Host.Outcome State Fault Refusal :=
  .next (s.setHif { s.hif with d3 := if s.hif.d3.contains fn.val then s.hif.d3 else s.hif.d3 ++ [fn.val] })
def execD0Return (fn : Fin 65) (s : State) : Host.Outcome State Fault Refusal :=
  .next (s.setHif { s.hif with d3 := s.hif.d3.filter fun f => decide (f ≠ fn.val) })
/-- What the capability structures report (R358, R360, Table 16.1): the features that the table does not list are absent. -/
def State.cfgSpace (s : State) : CfgSpace :=
  { maxPayload := 512, maxRead := 4096, msixVectors := 8, totalVfs := 64, firstVf := 1, vfStride := 1, pfGib := s.hif.apGib, vfGib := s.hif.vfGib
    serial := if s.grd.idFault then 0 else s.hif.serial, noSoftReset := true, ats := false, pageRequest := false, pasid := false
    atomics := false, intx := false, msi := false, aspm := false, rates := [64, 32, 16], widths := [16, 8], tagBits := (14, 10), requests := 768
    ari := true, aerCap := true, linkFeature := true, dpc := true, flr := true, d3hot := true, resizable := true, l1Sub := false }
/-- Sizes that the BARs of Table 16.2 take. -/
def barSizes (vf : Bool) : List Nat := if vf then [1, 2, 4, 8, 16] else [16, 32, 64, 128]
/-- A configuration request: its data, or Request Retry Status before step 16 (R433). Configuration space stays readable after a
fatal error (R469) and in recovery (R435). A Resizable BAR takes the sizes of Table 16.2. (log 57, DEDUCED) -/
def configRequest (q : CfgReq) (s : State) : State :=
  let up := decide (s.pwr.boot = .ready) || decide (s.pwr.boot = .recovery)
  if !s.pwr.rails then s.setHif { s.hif with cpl := .none }
  else if !up then s.setHif { s.hif with cpl := .retry }
  else
    let s1 : State := match q with
      | .read => s
      | .resize vf gib => if !(barSizes vf).contains gib then s
        else if vf then s.setHif { s.hif with vfGib := gib } else s.setHif { s.hif with apGib := gib }
    s1.setHif { s1.hif with cpl := .config s1.cfgSpace }
def execConfigRequest (q : CfgReq) (s : State) : Host.Outcome State Fault Refusal := .next (configRequest q s)

/-! ### Apertures -/

/-- Where an access through an aperture goes: device runs, the partition it reaches, or why it is refused. The Boolean says that
R362 counts the refusal. -/
def apertureRuns (s : State) (fn off len : Nat) : Except Bool (List (Nat × Nat)) :=
  if fn = 0 then
    let a := s.hif.aperture.toNat * 2 ^ 34 + off
    if s.hif.apGib * 2 ^ 30 < off + len ∨ 2 ^ 37 < a + len then .error false
    else if len ≠ 0 ∧ ((List.range ((a + len - 1) / 2 ^ 30 + 1 - a / 2 ^ 30)).any fun i => s.devProt ((a / 2 ^ 30 + i) * 2 ^ 30)) then .error true
    else .ok [(a, len)]
  else match s.partOfFn fn with
    | none => .error false
    | some p =>
      if s.hif.vfGib * 2 ^ 30 < off + len ∨ !(s.pt p).mappedRange off len then .error false
      else .ok ((s.pt p).runs off len)
/-- Memory requests are served once the device is up, and through the physical function also in recovery (R435). -/
def State.aperturesOn (s : State) (fn : Nat) : Bool := s.served || (s.live && decide (s.pwr.boot = .recovery) && fn == 0)
def State.protDeny (s : State) (b : Bool) : State :=
  if b then s.setHif { s.hif with protDenied := satAdd s.hif.protDenied 1 } else s
/-- See log 65, DESIGN CHOICE. -/
def State.reply (s : State) (c : HostCpl) : State := s.setHif { s.hif with cpl := c }
/-- Partition that an aperture access concerns. -/
def aperturePart (s : State) (fn a : Nat) : BitVec 8 :=
  if fn = 0 then s.ownerOfDev a else match s.partOfFn fn with | some p => BitVec.ofNat 8 p | none => 0xFF

/-- Where the poisoned die-sectors of device runs begin in the bytes that the runs give, from byte `off` on. -/
def State.epOf (s : State) : List (Nat × Nat) → Nat → List Nat
  | [], _ => []
  | r :: rs, off => (s.devPoison r.1 r.2).map (fun k => off + (32 * k - r.1)) ++ s.epOf rs (off + r.2)
/-- A host read: EP marks the data of each poisoned die-sector, which are recorded (R464). -/
def apertureRead (fn off len : Nat) (s : State) : State :=
  if !s.aperturesOn fn then s.reply .unsupported else
  match apertureRuns s fn off len with
  | .error b => (s.protDeny b).reply .unsupported
  | .ok rs =>
    if !(rs.all fun r => s.devOn r.1 r.2) then s.reply .unsupported
    else
      let s1 := rs.foldl (fun s r => s.vaultRead r.1 r.2) s
      let pois := rs.flatMap fun r => s1.devPoison r.1 r.2
      let data := rs.flatMap fun r => s1.devRd r.1 r.2
      let s2 := match pois with
        | [] => s1
        | k :: ks =>
          let lo := ks.foldl (fun m x => if x < m then x else m) k
          s1.poisonRec (aperturePart s1 fn (32 * lo)) 3 (vaultOf (32 * lo)) (32 * lo) pois.length 1
      s2.reply (.data data (s1.epOf rs 0))
def execApertureRead (fn : Fin 65) (off : BitVec 37) (len : Nat) (s : State) : Host.Outcome State Fault Refusal :=
  .next (apertureRead fn.val off.toNat len s)

/-- A host write; a poisoned one is stored poisoned, with a CLASS 1 record (R459, R464). -/
def apertureWrite (fn off : Nat) (data : List Byte) (ep : Bool) (s : State) : State :=
  if !s.aperturesOn fn then s else
  match apertureRuns s fn off data.length with
  | .error b => s.protDeny b
  | .ok rs =>
    if !(rs.all fun r => s.devOn r.1 r.2) then
      let a := (nth (0, 0) rs 0).1
      s.groupOffLog a (aperturePart s fn a) s.lnk.chip
    else
      let s1 := (rs.foldl (fun (acc : State × List Byte) r => (acc.1.vaultWrite r.1 (acc.2.take r.2), acc.2.drop r.2)) (s, data)).1
      if !ep then s1 else
      let ks := rs.flatMap fun r => sectorsOf r.1 r.2
      let a := (nth (0, 0) rs 0).1
      (s1.devPoisonSet ks).errNote (s1.mkErr stErrDeferredHost 1 (aperturePart s fn a) 7 0 a 1 1)
def execApertureWrite (fn : Fin 65) (off : BitVec 37) (data : List Byte) (ep : Bool) (s : State) : Host.Outcome State Fault Refusal :=
  .next (apertureWrite fn.val off.toNat data ep s)

end Sys2Proof.Machine
end

