-- ==== Sys2Proof/Machine/Pass.lean ====
section
/-! DEFINITION. The scheduling pass (R383). -/

namespace Sys2Proof.Machine

/-- Ticks from one pass to the next: 4 µs with fewer than four working cores, else 1 µs (R383, R384). -/
def State.passTicks (s : State) : Nat := if s.workingCores.length < 4 then 5000 else 1250
/-- A pass that begins off the aligned ticks follows one that had not finished at its tick: FW_PASS.OVERRUNS counts one (R383, R384).
(log 61, DEDUCED) -/
def State.passLate (s : State) : State :=
  if s.tick.toNat % s.passTicks = 0 then s else s.setFw { s.fw with overruns := satAdd s.fw.overruns 1 }
/-- Steps 2 and 3 of a pass: completions and faults of tasks, then PHASE boundaries (R383). -/
def State.passTasks (s : State) : State :=
  let s1 := s.tasks.foldl (fun (s : State) T => taskEnd T.id (taskFail T.id s)) s
  if s1.clk.holding then s1 else s1.tasks.foldl (fun (s : State) T => phaseBoundary T.id s) s1
/-- Partitions whose rings a pass serves: those defined, and on a locked device all of them (R342, R383). -/
def State.passParts (s : State) : List Nat := (s.parts.filter fun kv => kv.2.defined || s.grd.locked).map (·.1)
/-- What comes before the rings: what the memory controllers owe, and events that waited for room. -/
def State.passBegin (s : State) : State :=
  let s1 := s.passLate.settle.trace .passStart
  s1.passParts.foldl (fun (s : State) p => if s.hostHeld p then s else s.flushEvents p) s1
/-- Step 1: every ring of every partition, in their order (R365, R383). -/
def State.passRings (s : State) (ps : List Nat) : State :=
  ps.foldl (fun (s : State) p => (List.range 4).foldl (fun (s : State) n => s.fetchRing (finPart p) ⟨n % 4, Nat.mod_lt _ (by decide)⟩) s) s
/-- The steps after the rings: tasks, records, the Almanac, key-value pages, parked tasks and re-shards. -/
def State.passRest (s : State) (ps : List Nat) : State :=
  let s1 := s.passTasks
  let s2 := (s1.tasks.foldl (fun (s : State) T => s.rangeFlushAll T) s1).errFlush.almanacUpdate
  let s3 := ps.foldl (fun (s : State) p => if (s.pt p).contained then s else (s.refill p).pressure p) s2
  s3.unpark.reshAll.trace .passEnd
/-- A scheduling pass (R383). `host` is what the host has written to its own memory since the last pass. (log 61, DEDUCED) -/
def schedulingPass (host : List (Nat × Byte)) (s : State) : State :=
  let s0 : State := s.setMem { s.mem with hostMem := host.foldl (fun m x => mset 0 m x.1 x.2) s.mem.hostMem }
  if !s0.nightwatch then s0 else
  (s0.passBegin.passRings s0.passParts).passRest s0.passParts
/-- See log 6, DESIGN CHOICE. -/
def execSchedulingPass (host : List (Nat × Byte)) (s : State) : Host.Outcome State Fault Refusal := .next (schedulingPass host s)

end Sys2Proof.Machine
end

