-- ==== Sys2Proof/Machine/System.lean ====
section
/-! DEFINITION. The system class (CLASS 0x3F), Table 8.19: WINW, TSTART, TPARK and TRESUME. MRD and MWR are in
`Machine/Regs.lean`, beside the registers. -/

namespace Sys2Proof.Machine

/-- The first task with a handle: a handle does not name the partition (R80). -/
def State.taskBy (s : State) (h : Word) : Option Task := s.tasks.find? fun t => decide (t.id.hnd = h)
/-- Checks of a system instruction: only control cores execute them (R126, R190). -/
def State.sys (s : State) (a : Agent) (w : Word) (fs : List (Nat × Nat)) (body : State → State) : State :=
  s.guarded a w [(badBits w fs, stIllegalInstr), (!isCore a, stPrivilege)] body

/-- The cluster that a register of WINW names; one that names none of Table 0.1 has no stated result: a free one, or none (768).
(log 63, DESIGN CHOICE) -/
def State.winwCluster (s : State) (d : Nat) : Nat := if d < 768 then d else (s.freeAt 0).toNat % 769
/-- Writes a window register; its reserved bits read as zero (Table 6.2, R10). (log 63, DESIGN CHOICE) -/
def winwOp (a : Agent) (w : Word) (s : State) : State :=
  s.sys a w [fDst, fA, (1, 0)] fun s =>
    let d := (s.regS a (wDst w)).toNat
    let c := s.winwCluster d
    let s1 := if c < 768 then
        s.modCl c fun x => { x with win := mset 0 x.win (fld w 1 0) (s.regS a (wA w) &&& 0x800000007FFF7FFF) }
      else s
    (if d < 768 then s1 else s1.bump 1).advance a
def execWinw (a : Agent) (w : Word) (s : State) : Host.Outcome State Fault Refusal := .next (s.issue a 0xFC0 w (winwOp a w))

/-- Loads the start state of R128 again, the phase table with it, and starts the sequencers; the program is the one that the task
was started with. -/
def tstartOp (a : Agent) (w : Word) (s : State) : State :=
  s.sys a w [fA] fun s =>
    (match s.taskBy (s.regS a (wA w)) with
    | none => s
    | some T => match s.loadProg T.id.part T.prog.toNat T.len T.phasesAt.toNat with
      | (.error st, s1) => s1.taskStop T.id st
      | (.ok r, s1) => (s1.modTask T.id fun t => { t with phases := r.2 }).startAll T r.1).advance a
def execTstart (a : Agent) (w : Word) (s : State) : Host.Outcome State Fault Refusal := .next (s.issue a 0xFC1 w (tstartOp a w))
def tparkOp (a : Agent) (w : Word) (s : State) : State :=
  s.sys a w [fA] fun s =>
    (match s.taskBy (s.regS a (wA w)) with
    | none => s
    | some T => s.modTask T.id fun t => { t with parkReq := true }).advance a
def execTpark (a : Agent) (w : Word) (s : State) : Host.Outcome State Fault Refusal := .next (s.issue a 0xFC2 w (tparkOp a w))
/-- Releases a parked task, once its clusters are in RUN (R408). -/
def tresumeOp (a : Agent) (w : Word) (s : State) : State :=
  s.sys a w [fA] fun s =>
    (match s.taskBy (s.regS a (wA w)) with
    | none => s
    | some T =>
      let s1 := s.modTask T.id fun t => { t with parkReq := false }
      if decide (T.st = TaskSt.parked) && T.fault.isNone && s1.allRun T then s1.releaseTask { T with parkReq := false } else s1).advance a
def execTresume (a : Agent) (w : Word) (s : State) : Host.Outcome State Fault Refusal := .next (s.issue a 0xFC3 w (tresumeOp a w))

end Sys2Proof.Machine
end

