-- ==== Sys2Proof/Machine/Regs.lean ====
section
/-! DEFINITION. The register map (R8, R10, R338, R453, R484 to R489): what each register reads as, what a write of it does, the
windows of the functions, and MRD and MWR (R190). -/

namespace Sys2Proof.Machine

/-! ### Registers (Tables 23.2 to 23.8) -/

inductive Reg where
  | glbStatus | glbUnits | glbFatal (i : Nat) | glbErr | clkStatus | thmSensor (n : Nat) | cfgStatus | cfgStage | cfgCmd
  | pwrCmd | pwrCmdStatus | pwrCap | pwrState | pwrCtrl | pwrModel | pwrDroop | pwrTiming | pwrEnergy | pwrUnattr | pwrShare (p : Nat)
  | grdNonce (i : Nat) | grdCmd | grdStatus | grdState | grdLogSel | grdQuiesce
  | fwStatus | fwVersion | fwCmd | fwStage | fwAct | fwPass
  | logBase | logSeq | logRead | logLost | logCtrl | trcBase | trcWptr | trcRptr | trcCtrl | trcMask (i : Nat) | trcMark | trcDrops
  | hifState | hifCmd | hifHb | hifTiming | hifAperture
  | ringBase (p n : Nat) | ringCpl (p n : Nat) | ringCtrl (p n : Nat) | hostWin (p k : Nat) | evq (p : Nat) | pstate (p : Nat)
  | pcmd (p : Nat) | phb (p : Nat)
  | memStatus | memErr | memRepair | memScrub | memHot | memOver | memRetSel | memRetEntry
  | lnkChip | lnkAssign | lnkMode | lnkLpl | lnkTimeout | lnkAdopt
  | portStatus (n : Nat) | portExpect (n : Nat) | portCtrl (n : Nat) | portFec (n : Nat) | portErr (n : Nat) | route (chip : Nat)
  | merTick | merStatus
  | partOwn (p : Nat) | taskCtrl (p : Nat) | rngStatus (p : Nat) | precCtrl (p : Nat) | rangeBase (p : Nat) | precStatus (p : Nat)
  | kvCtrl (p : Nat) | kvWmark (p : Nat) | kvSwap (p : Nat) | kvSwapSize (p : Nat) | kvStatus (p : Nat) | kvCount (p : Nat)
  | kvTree (p : Nat) | collBase (p : Nat) | collStatus (p : Nat) | reshStatus (p : Nat) | partEnergy (p : Nat) | errState (p : Nat)
  | errRecord (p i : Nat) | extent (p j : Nat)
  | clsOwner (c : Nat) | taskStatus (c : Nat) | taskFault (c : Nat) | taskInstr (c : Nat) | spadStatus (c : Nat) | spadWin (c i : Nat)
  | vecStatus (c : Nat) | xcStatus (c : Nat) | sparseStatus (c : Nat) | clsCycles (c : Nat) | clsActive (c : Nat)
  deriving DecidableEq, Repr

/-- A register at an offset: it, and its width in bytes. -/
abbrev Spot := Option (Reg × Nat)

def glbAt (o : Nat) : Spot :=
  if o = 0 then some (.glbStatus, 4) else if o = 8 then some (.glbUnits, 8)
  else if 0x100 ≤ o ∧ o < 0x120 ∧ o % 8 = 0 then some (.glbFatal ((o - 0x100) / 8), 8) else if o = 0x120 then some (.glbErr, 8) else none
def cfgAt (o : Nat) : Spot :=
  if o = 0 then some (.cfgStatus, 8) else if o = 8 then some (.cfgStage, 8) else if o = 0x10 then some (.cfgCmd, 4) else none
def pwrAt (o : Nat) : Spot :=
  match o with
  | 0x000 => some (.pwrCmd, 8) | 0x008 => some (.pwrCmdStatus, 4) | 0x010 => some (.pwrCap, 4) | 0x018 => some (.pwrState, 4)
  | 0x020 => some (.pwrCtrl, 4) | 0x028 => some (.pwrModel, 4) | 0x030 => some (.pwrDroop, 8) | 0x038 => some (.pwrTiming, 4)
  | 0x040 => some (.pwrEnergy, 8) | 0x048 => some (.pwrUnattr, 8)
  | _ => if 0x400 ≤ o ∧ o < 0x600 ∧ o % 8 = 0 then some (.pwrShare ((o - 0x400) / 8), 4) else none
def grdAt (o : Nat) : Spot :=
  match o with
  | 0x000 => some (.grdNonce 0, 8) | 0x008 => some (.grdNonce 1, 8) | 0x010 => some (.grdCmd, 4) | 0x018 => some (.grdStatus, 8)
  | 0x020 => some (.grdState, 4) | 0x028 => some (.grdLogSel, 4) | 0x030 => some (.grdQuiesce, 4) | _ => none
def fwAt (o : Nat) : Spot :=
  match o with
  | 0x000 => some (.fwStatus, 8) | 0x008 => some (.fwVersion, 8) | 0x010 => some (.fwCmd, 4) | 0x018 => some (.fwStage, 8)
  | 0x020 => some (.fwAct, 4) | 0x028 => some (.fwPass, 8) | _ => none
def logAt (o : Nat) : Spot :=
  match o with
  | 0x000 => some (.logBase, 8) | 0x008 => some (.logSeq, 4) | 0x010 => some (.logRead, 4) | 0x018 => some (.logLost, 4)
  | 0x020 => some (.logCtrl, 4) | 0x100 => some (.trcBase, 8) | 0x108 => some (.trcWptr, 8) | 0x110 => some (.trcRptr, 8)
  | 0x118 => some (.trcCtrl, 4) | 0x120 => some (.trcMask 0, 8) | 0x128 => some (.trcMask 1, 8) | 0x130 => some (.trcMask 2, 8)
  | 0x138 => some (.trcMask 3, 8) | 0x140 => some (.trcMark, 8) | 0x148 => some (.trcDrops, 4) | _ => none
def ringAt (p o : Nat) : Spot :=
  if o < 0x80 then
    (match o % 0x20 with
    | 0x00 => some (.ringBase p (o / 0x20), 8) | 0x08 => some (.ringCpl p (o / 0x20), 8) | 0x10 => some (.ringCtrl p (o / 0x20), 4)
    | _ => none)
  else if 0x100 ≤ o ∧ o < 0x180 ∧ o % 8 = 0 then some (.hostWin p ((o - 0x100) / 8), 8)
  else if o = 0x180 then some (.evq p, 8) else if o = 0x190 then some (.pstate p, 4) else if o = 0x198 then some (.pcmd p, 4)
  else if o = 0x1A0 then some (.phb p, 8) else none
def hifAt (o : Nat) : Spot :=
  match o with
  | 0x000 => some (.hifState, 4) | 0x008 => some (.hifCmd, 4) | 0x010 => some (.hifHb, 8) | 0x018 => some (.hifTiming, 4)
  | 0x020 => some (.hifAperture, 8)
  | _ => if 0x4000 ≤ o ∧ o < 0x14000 then ringAt ((o - 0x4000) / 0x400) (o % 0x400) else none
def memAt (o : Nat) : Spot :=
  match o with
  | 0x000 => some (.memStatus, 4) | 0x008 => some (.memErr, 8) | 0x010 => some (.memRepair, 4) | 0x018 => some (.memScrub, 8)
  | 0x020 => some (.memHot, 8) | 0x028 => some (.memOver, 8) | 0x030 => some (.memRetSel, 4) | 0x038 => some (.memRetEntry, 8)
  | _ => none
def lnkAt (o : Nat) : Spot :=
  match o with
  | 0x000 => some (.lnkChip, 4) | 0x008 => some (.lnkAssign, 4) | 0x010 => some (.lnkMode, 4) | 0x018 => some (.lnkLpl, 4)
  | 0x020 => some (.lnkTimeout, 4) | 0x028 => some (.lnkAdopt, 8)
  | _ =>
    if 0x1000 ≤ o ∧ o < 0x1000 + 0x40 * 39 then
      let n := (o - 0x1000) / 0x40
      (match o % 0x40 with
      | 0x00 => some (.portStatus n, 8) | 0x08 => some (.portExpect n, 4) | 0x10 => some (.portCtrl n, 4)
      | 0x18 => some (.portFec n, 8) | 0x20 => some (.portErr n, 8) | _ => none)
    else if 0x10000 ≤ o ∧ o < 0x20000 ∧ o % 4 = 0 then some (.route ((o - 0x10000) / 4), 4) else none
def partAt (p o : Nat) : Spot :=
  match o with
  | 0x000 => some (.partOwn p, 8) | 0x140 => some (.taskCtrl p, 4) | 0x180 => some (.rngStatus p, 4) | 0x1C0 => some (.precCtrl p, 4)
  | 0x1C8 => some (.rangeBase p, 8) | 0x1D0 => some (.precStatus p, 4) | 0x300 => some (.kvCtrl p, 4) | 0x308 => some (.kvWmark p, 8)
  | 0x310 => some (.kvSwap p, 8) | 0x318 => some (.kvSwapSize p, 4) | 0x320 => some (.kvStatus p, 8) | 0x328 => some (.kvCount p, 8)
  | 0x330 => some (.kvTree p, 8) | 0x340 => some (.collBase p, 8) | 0x348 => some (.collStatus p, 8) | 0x350 => some (.reshStatus p, 8)
  | 0x388 => some (.partEnergy p, 8) | 0x3C0 => some (.errState p, 4) | 0x3C8 => some (.errRecord p 0, 8) | 0x3D0 => some (.errRecord p 1, 8)
  | 0x3D8 => some (.errRecord p 2, 8) | 0x3E0 => some (.errRecord p 3, 8)
  | _ => if 0x800 ≤ o ∧ o < 0xC00 ∧ o % 8 = 0 then some (.extent p ((o - 0x800) / 8), 8) else none
def clsAt (c o : Nat) : Spot :=
  match o with
  | 0x000 => some (.clsOwner c, 4) | 0x100 => some (.taskStatus c, 8) | 0x108 => some (.taskFault c, 8) | 0x110 => some (.taskInstr c, 8)
  | 0x200 => some (.spadStatus c, 8) | 0x220 => some (.spadWin c 0, 8) | 0x228 => some (.spadWin c 1, 8) | 0x230 => some (.spadWin c 2, 8)
  | 0x238 => some (.spadWin c 3, 8) | 0x240 => some (.vecStatus c, 8) | 0x260 => some (.xcStatus c, 8) | 0x280 => some (.sparseStatus c, 8)
  | 0x2A0 => some (.clsCycles c, 8) | 0x2A8 => some (.clsActive c, 8) | _ => none
/-- The register that begins at an offset of the management window (Table 23.1). -/
def regAt (off : Nat) : Spot :=
  if off < 0x10000 then glbAt off
  else if off < 0x20000 then (if off = 0x10000 then some (.clkStatus, 8) else none)
  else if off < 0x30000 then pwrAt (off - 0x20000)
  else if off < 0x40000 then (if 0x30100 ≤ off ∧ off < 0x30500 ∧ off % 4 = 0 then some (.thmSensor ((off - 0x30100) / 4), 4) else none)
  else if off < 0x50000 then cfgAt (off - 0x40000)
  else if off < 0x60000 then grdAt (off - 0x50000)
  else if off < 0x70000 then fwAt (off - 0x60000)
  else if off < 0x80000 then logAt (off - 0x70000)
  else if off < 0x100000 then hifAt (off - 0x80000)
  else if off < 0x200000 then memAt (off - 0x100000)
  else if off < 0x300000 then lnkAt (off - 0x200000)
  else if off < 0x400000 then (if off = 0x300000 then some (.merTick, 8) else if off = 0x300008 then some (.merStatus, 4) else none)
  else if off < 0x440000 then partAt ((off - 0x400000) / 0x1000) (off % 0x1000)
  else if 0x1000000 ≤ off ∧ off < 0x1300000 then clsAt ((off - 0x1000000) / 0x1000) (off % 0x1000)
  else none

/-! ### Reads -/

def b64 (b : Bool) (i : Nat) : Nat := if b then 2 ^ i else 0
/-- A bit map of a condition on the numbers below n. -/
def bitMap (n : Nat) (f : Nat → Bool) : Nat := foldN (fun v i => v + b64 (f i) i) 0 n
def count (n : Nat) (f : Nat → Bool) : Nat := ((List.range n).filter f).length
def capAt (n v : Nat) : Nat := if n < v then n else v
/-- Code of a port's state (Table 13.12). -/
def PortSt.code : PortSt → Nat
  | .dark => 0 | .training => 1 | .quarantine => 2 | .active => 3 | .down => 4
/-- Current value of a register (Table 0.5): reserved and write-only fields read as zero. (log 56, DEDUCED; log 58, DEDUCED) -/
def regVal (s : State) : Reg → Nat
  | .glbStatus => b64 s.glb.cfgDefaulted 31 + b64 s.glb.slotFallback 30 + b64 s.glb.noFw 29 + b64 s.glb.degraded 28 + s.glb.bootMs.toNat
  | .glbUnits => if s.pwr.boot = .off then 0 else
    count 768 (fun c => !s.glb.badClusters.contains c) * 2 ^ 54 + count 64 (fun g => !s.glb.badGroups.contains g) * 2 ^ 47
      + count 39 (fun n => !s.badPort n) * 2 ^ 41 + bitMap 4 (fun e => !s.glb.badOptical.contains e) * 2 ^ 37
      + (s.glb.badSegs.filter fun x => !s.glb.badClusters.contains x.1).eraseDups.length % 4096 * 2 ^ 25
  | .glbFatal i => s.glb.fatal.toNat >>> (64 * i)
  | .glbErr => s.glb.errCorrected.toNat * 2 ^ 32 + s.glb.errDeferred.toNat * 2 ^ 16 + s.glb.errContained.toNat
  | .clkStatus => s.clk.changes.toNat * 2 ^ 32 + b64 s.clk.pllLock 31 + b64 s.clk.changing 30 + s.clk.gear.toNat * 2 ^ 28 + s.clk.lastHold.toNat
  | .thmSensor n => (mget 0 s.pwr.sensors n).toNat
  | .cfgStatus => s.cfg.result.toNat * 2 ^ 48 + b64 s.cfg.busy 47 + s.cfg.version.toNat * 2 ^ 8 + s.cfg.defaulted.toNat * 2
  | .cfgStage => s.cfg.stage.toNat
  | .pwrCmdStatus => b64 s.pwr.busy 31 + b64 s.pwr.ignored 30 + s.pwr.failed.toNat * 2 ^ 16 + s.pwr.result.toNat
  | .pwrCap => s.pwr.cap.toNat
  | .pwrState => s.pwr.dev.toNat * 2 ^ 30 + s.clk.gear.toNat * 2 ^ 28 + s.pwr.stage.toNat * 2 ^ 26 + b64 s.pwr.capUnmet 25
      + b64 (s.pwr.fixedHeld && s.fixedOn) 24 + b64 s.pwr.clamp 23 + s.pwr.input.toNat
  | .pwrCtrl => b64 s.pwr.fixed 31 + b64 s.pwr.freeze 30 + s.pwr.rate.toNat * 2 ^ 27
      + (if s.pwr.boot = .off then 0 else (fixedFloor s.capW - 1) % 256)
  | .pwrModel => s.pwr.model.toNat
  | .pwrDroop => s.pwr.droopEv.toNat * 2 ^ 32 + s.pwr.droopTh.toNat
  | .pwrTiming => s.pwr.parkMs.toNat
  | .pwrEnergy => s.pwr.energy.toNat
  | .pwrUnattr => s.pwr.unattr.toNat
  | .pwrShare p => (s.pt p).shareW.toNat * 2 ^ 24 + (s.pt p).floorW.toNat
  | .grdNonce i => s.grd.nonce.toNat >>> (64 * i)
  | .grdStatus => b64 s.grd.busy 63 + s.grd.result.toNat * 2 ^ 32 + s.grd.op.toNat * 2 ^ 16
  | .grdState => b64 s.grd.enrolled 31 + b64 s.grd.locked 30 + b64 s.grd.idFault 29 + b64 (!s.pwr.pins.enrolN) 28 + s.flash.log.length % 8192
  | .grdLogSel => s.grd.logSel.toNat
  | .grdQuiesce => s.grd.quiesceMs.toNat
  | .fwStatus => (if s.pwr.boot = .off then 0 else bitMap 8 (fun k => s.workingCores.contains k)) * 2 ^ 56 + b64 s.fw.active 55 + b64 s.flash.bootSlot 54 + b64 s.fw.degraded 53
      + s.fw.state.toNat * 2 ^ 50 + s.fw.result.toNat
  | .fwVersion => if s.pwr.boot = .off then 0 else
    let v : FwSlot → Nat := fun x => if x.valid then x.version.toNat else 0
    v s.flash.slotB * 2 ^ 32 + v s.flash.slotA
  | .fwStage => s.fw.stage.toNat
  | .fwAct => s.fw.parkMs.toNat
  | .fwPass => s.fw.overruns.toNat * 2 ^ 32
  | .logBase => s.log.base.toNat
  | .logSeq => s.log.seq.toNat
  | .logRead => s.log.read.toNat
  | .logLost => s.log.lost.toNat
  | .logCtrl => s.log.minSev.toNat
  | .trcBase => s.log.trcBase.toNat
  | .trcWptr => s.log.wptr.toNat
  | .trcRptr => s.log.rptr.toNat
  | .trcCtrl => b64 s.log.full 2 + b64 s.log.stopFull 1 + b64 s.log.en 0
  | .trcMask i => s.log.mask.toNat >>> (64 * i)
  | .trcDrops => s.log.drops.toNat
  | .hifState => b64 s.hif.hostLost 31 + b64 s.hif.detached 30 + b64 s.hif.degraded 29 + s.hif.protDenied.toNat
  | .hifTiming => s.hif.retainS.toNat * 2 ^ 16 + s.hif.hbMs.toNat
  | .hifAperture => s.hif.aperture.toNat * 2 ^ 34
  | .ringBase p n => ((s.pt p).ring n).base.toNat
  | .ringCpl p n => ((s.pt p).ring n).cpl.toNat
  | .ringCtrl p n =>
    let r := (s.pt p).ring n
    b64 r.en 31 + b64 r.loc 30 + b64 r.irq 29 + b64 r.overrun 28 + r.size.toNat
  | .hostWin p k => (mget 0 (s.pt p).hostWin k).toNat
  | .evq p =>
    let P := s.pt p
    P.evBase.toNat / 64 * 64 + b64 P.evIrq 5 + b64 P.evEn 4 + P.evSize.toNat
  | .pstate p =>
    let P := s.pt p
    b64 (P.hostLost || s.hif.hostLost) 31 + b64 (P.detached || s.hif.detached) 30 + capAt 0x3FFF (P.held.length + P.evHeld.length) * 2 ^ 16
      + P.evLost.toNat
  | .phb p => (s.pt p).phbMs.toNat * 2 ^ 48
  | .memStatus => b64 s.mem.rebuilt 31 + b64 s.mem.factoryB 30 + b64 s.mem.fieldSkip 29 + b64 s.mem.fieldFull 28 + b64 s.mem.retireFull 27
      + b64 (!s.mem.field.failed.isEmpty) 26 + s.mem.field.retired.length % 8192
  | .memErr => s.mem.corrected.toNat * 2 ^ 32 + s.mem.recon.toNat * 2 ^ 16 + s.mem.poisoned.toNat
  | .memRepair => s.mem.remapCount.toNat * 2 ^ 16 + s.mem.badCount.toNat
  | .memScrub => s.mem.scrubPasses.toNat * 2 ^ 48 + scrubAddr 0 (mget 0 s.mem.scrubPos 0)
  | .memHot => bitMap 64 fun g => decide ((s.grp g).st = .active) && decide ((s.grp g).interval ≠ .slow)
  | .memOver => bitMap 64 fun g => decide ((s.grp g).st = .active) && decide ((s.grp g).interval = .fastest)
  | .memRetSel => s.mem.retiredSel.toNat
  | .memRetEntry => match s.mem.field.retired[s.mem.retiredSel.toNat]? with
    | some x => 2 ^ 63 + x.2 % 8 * 2 ^ 60 + x.1 % 2 ^ 25 * 2 ^ 12
    | none => 0
  | .lnkChip => s.lnk.chip.toNat
  | .lnkMode => b64 s.lnk.busy 31 + b64 s.lnk.boardRobust 30 + s.lnk.machineLit.toNat * 2 ^ 6 + s.lnk.groupLit.toNat * 2 ^ 4 + b64 s.lnk.mode 0
  | .lnkLpl => s.fw.lpl.toNat
  | .lnkTimeout => s.lnk.timeout.toNat
  | .portStatus n =>
    let p := s.po n
    p.st.code * 2 ^ 60 + p.lanes.toNat * 2 ^ 56 + p.lpl.toNat * 2 ^ 48 + p.foundChip.toNat * 2 ^ 34 + p.foundPort.toNat * 2 ^ 28
      + p.foundSlot.toNat * 2 ^ 25 + b64 p.mismatch 24
  | .portExpect n => (s.po n).expectChip.toNat * 2 ^ 6 + (s.po n).expectPort.toNat
  | .portFec n => (s.po n).fec.toNat
  | .portErr n => (s.po n).replays.toNat * 2 ^ 32 + (s.po n).crcFail.toNat * 2 ^ 16 + (s.po n).discards.toNat
  | .route chip => (mget routeNone s.lnk.routes chip).toNat
  | .merTick => s.clk.merTick.toNat
  | .merStatus => b64 s.mer.locked 31 + b64 s.mer.degraded 30 + b64 s.mer.root 29 + b64 s.mer.depthOver 28 + capAt 15 s.mer.depth * 2 ^ 24
      + s.mer.parent.toNat * 2 ^ 14 + s.mer.rootChip.toNat
  | .partOwn p =>
    let P := s.pt p
    b64 P.defined 63 + P.vf.toNat * 2 ^ 48 + P.share.toNat * 2 ^ 40 + capAt 255 (P.extents.filter fun kv => extValid kv.2).length * 2 ^ 32
      + P.kvQuota.toNat
  | .taskCtrl p => (s.pt p).waitLimit.toNat
  | .rngStatus p => (s.pt p).rngFaults.toNat * 2 ^ 16 + capAt 511 (s.pt p).claims.length
  | .precCtrl p => (s.pt p).precCtrl.toNat
  | .rangeBase p => (s.pt p).rangeBase.toNat
  | .precStatus p => (s.pt p).repeats.toNat * 2 ^ 16
      + b64 (s.tasks.any fun t => decide (t.id.part.val = p) && t.ref && decide (t.st = .running)) 0
  | .kvCtrl p => b64 (s.pt p).kvShare 31 + b64 (s.pt p).kvSwapOn 30
  | .kvWmark p => (s.pt p).kvHigh.toNat * 2 ^ 32 + (s.pt p).kvLow.toNat
  | .kvSwap p => (s.pt p).kvSwap.toNat / 65536 * 65536
  | .kvSwapSize p => (s.pt p).kvSlots.toNat
  | .kvStatus p =>
    let P := s.pt p
    P.kvFree.length % 2 ^ 32 * 2 ^ 32 + (P.kvSeqs.filter fun q => decide (q.st = .swapped) || decide (q.st = .resuming)).length % 65536 * 2 ^ 16
      + (P.kvNodes.filter (·.valid)).length % 65536
  | .kvCount p => (s.pt p).kvPreempts.toNat * 2 ^ 48 + (s.pt p).kvEvicted.toNat * 2 ^ 32 + (s.pt p).kvCopies.toNat
  | .kvTree p => (s.pt p).kvTreeBase.toNat
  | .collBase p => (s.pt p).collBase.toNat
  | .collStatus p => (s.pt p).collDone.toNat * 2 ^ 32 + (s.pt p).collFailed.toNat * 2 ^ 16 + (s.pt p).collFull.toNat
  | .reshStatus p => (s.pt p).reshMoved.toNat * 2 ^ 32 + (s.pt p).reshFailed.toNat * 2 ^ 16 + b64 (s.pt p).reshPlan.isSome 0
  | .partEnergy p => (s.pt p).energy.toNat
  | .errState p => b64 (s.pt p).contained 31 + (s.pt p).more.toNat
  | .errRecord p i => (s.pt p).errRecord.toNat >>> (64 * i)
  | .extent p j => (mget 0 (s.pt p).extents j).toNat
  | .clsOwner c => b64 (s.cl c).owned 31 + (s.cl c).part.toNat * 2 ^ 4 + (s.cl c).segmask.toNat
  | .taskStatus c => if (s.cl c).task.isSome then (s.cl c).seq.status.toNat else 0
  | .taskFault c => (s.cl c).faultReg.toNat
  | .taskInstr c => (s.cl c).faultInstr.toNat
  | .spadStatus c =>
    let x := s.cl c
    x.corrected.toNat * 2 ^ 32 + x.uncorrected.toNat * 2 ^ 16 + x.winFaults.toNat * 2 ^ 8 + x.segOn.toNat * 2 ^ 4
  | .spadWin c i => if (s.cl c).task.isSome then (mget 0 (s.cl c).win i).toNat else 0
  | .vecStatus c => (s.cl c).flushes.toNat * 2 ^ 32 + (s.cl c).overflows.toNat * 2 ^ 16 + (s.cl c).invalids.toNat * 2 ^ 8
  | .xcStatus c => (s.cl c).expStalls.toNat * 2 ^ 32 + (s.cl c).rawTiles.toNat * 2 ^ 16 + (s.cl c).indexFaults.toNat * 2 ^ 8
  | .sparseStatus c => (s.cl c).imbalance.toNat * 2 ^ 32 + (s.cl c).worst.toNat * 2 ^ 16 + (s.cl c).splitFaults.toNat * 2 ^ 8
  | .clsCycles c => s.cycles c % 2 ^ 48
  | .clsActive c => (s.cl c).active.toNat
  | .cfgCmd | .pwrCmd | .grdCmd | .fwCmd | .trcMark | .hifCmd | .hifHb | .pcmd _ | .lnkAssign | .lnkAdopt | .portCtrl _ => 0
/-- The same as 64 bits. (log 56, DEDUCED) -/
def regRead (s : State) (r : Reg) : Nat := regVal s r % 2 ^ 64

/-! ### Writes -/

/-- Bits of a written value under a mask, beside the bits that stay. -/
def mergeBits (old v m : Nat) : Nat := ((BitVec.ofNat 64 old &&& ~~~BitVec.ofNat 64 m) ||| (BitVec.ofNat 64 v &&& BitVec.ofNat 64 m)).toNat
/-- Applies a field write of a ring. -/
def State.modRing (s : State) (p n : Nat) (f : Ring → Ring) : State := s.modPt p fun P => P.setRing n (f (P.ring n))
/-- A partition page takes writes while the partition is defined (R338). -/
def State.modDefined (s : State) (p : Nat) (f : Part → Part) : State := if (s.pt p).defined then s.modPt p f else s
def finRing (n : Nat) : Fin 4 := ⟨n % 4, Nat.mod_lt _ (by decide)⟩
/-- A write of HIF_RINGn_CTRL: the fields are stored before EN acts. -/
def ringCtrlWrite (p n w : Nat) (s : State) : State :=
  let s1 := s.modRing p n fun r => { r with
    loc := bitOf w 30, irq := bitOf w 29, overrun := r.overrun && !bitOf w 28, size := BitVec.ofNat 5 w }
  if bitOf w 31 then ringEnable (finPart p) (finRing n) s1 else ringDisable (finPart p) (finRing n) s1
/-- A write of FW_CMD: several commands of one write act from the low bit up. (log 51, DEDUCED; log 56, DEDUCED) -/
def fwCmdWrite (w : Nat) (s : State) : State :=
  let s1 := if bitOf w 0 then fwWrite (bitOf w 3) s else s
  let s2 := if bitOf w 1 then activate (bitOf w 3) (bitOf w 4) s1 else s1
  if bitOf w 2 then cancel s2 else s2
/-- DETACH comes before ATTACH when one write sets both. (log 56, DEDUCED) -/
def hifCmdWrite (x : Option (Fin 64)) (w : Nat) (s : State) : State :=
  let s1 := if bitOf w 0 then detach x s else s
  if bitOf w 1 then attach x s1 else s1
/-- A write of TRC_CTRL. -/
def trcCtrlWrite (w : Nat) (s : State) : State :=
  let s1 : State := s.setLog { s.log with full := s.log.full && !bitOf w 2, stopFull := bitOf w 1 }
  if bitOf w 0 then traceEnable s1 else s1.setLog { s1.log with en := false }
/-- What a host write of bits v under mask m of a register does (Table 0.5). (log 56, DEDUCED) -/
def regWrite (r : Reg) (v m : Nat) (s : State) : State :=
  let w := mergeBits (regRead s r) v m
  let t := mergeBits 0 v m
  match r with
  | .cfgStage => s.setCfg { s.cfg with stage := BitVec.ofNat 37 w }
  | .cfgCmd => if bitOf t 0 then configWrite s else s
  | .pwrCmd => if t = 0 ∧ m ≠ 2 ^ 64 - 1 then s else pwrCmd (BitVec.ofNat 64 t) s
  | .pwrCmdStatus => s.setPwr { s.pwr with ignored := s.pwr.ignored && !bitOf t 30 }
  | .pwrCap => pwrCapWrite w s
  | .pwrCtrl => s.setPwr { s.pwr with fixed := bitOf w 31, freeze := bitOf w 30, rate := BitVec.ofNat 3 (w / 2 ^ 27) }
  | .pwrModel => s.setPwr { s.pwr with model := BitVec.ofNat 16 w, modelEff := w % 65536 }
  | .pwrDroop => s.setPwr { s.pwr with droopTh := BitVec.ofNat 8 w }
  | .pwrTiming => s.setPwr { s.pwr with parkMs := BitVec.ofNat 16 w }
  | .pwrShare p => s.modPt p fun P => { P with shareW := BitVec.ofNat 8 (w / 2 ^ 24), floorW := BitVec.ofNat 11 w }
  | .grdCmd =>
    if s.grd.busy then s else
    let s1 := if bitOf t 0 then submit (BitVec.ofNat 15 (bitsOf t 31 17)) s else s
    if bitOf t 1 then attest (BitVec.ofNat 8 (bitsOf t 16 9)) s1 else s1
  | .grdLogSel => s.setGrd { s.grd with logSel := BitVec.ofNat 12 w }
  | .grdQuiesce => s.setGrd { s.grd with quiesceMs := BitVec.ofNat 16 w }
  | .fwCmd => fwCmdWrite t s
  | .fwStage => s.setFw { s.fw with stage := BitVec.ofNat 64 w &&& 0xFFFFFF1FFFFFFFFF }
  | .fwAct => s.setFw { s.fw with parkMs := BitVec.ofNat 16 w }
  | .logRead => s.setLog { s.log with read := BitVec.ofNat 32 w }
  | .logCtrl =>
    let s1 := if bitOf t 31 then clearLost s else s
    (s1.setLog { s1.log with minSev := BitVec.ofNat 3 w })
  | .trcRptr => s.setLog { s.log with rptr := BitVec.ofNat 64 w }
  | .trcCtrl => trcCtrlWrite w s
  | .trcMask i => s.setLog { s.log with
      mask := BitVec.ofNat 256 (s.log.mask.toNat - bitsOf s.log.mask.toNat (64 * i + 63) (64 * i) * 2 ^ (64 * i) + w * 2 ^ (64 * i)) }
  | .trcMark => if t = 0 ∧ m ≠ 2 ^ 64 - 1 then s else traceMark (BitVec.ofNat 8 (t / 2 ^ 56)) (BitVec.ofNat 56 t) s
  | .hifCmd => hifCmdWrite none t s
  | .hifHb => if t = 0 ∧ m ≠ 2 ^ 64 - 1 then s else heartbeat s
  | .hifTiming => s.setHif { s.hif with retainS := BitVec.ofNat 16 (w / 65536), hbMs := BitVec.ofNat 16 w }
  | .hifAperture => s.setHif { s.hif with aperture := BitVec.ofNat 3 (w / 2 ^ 34) }
  | .ringBase p n => s.modRing p n fun r => { r with base := BitVec.ofNat 64 (w / 64 * 64) }
  | .ringCpl p n => s.modRing p n fun r => { r with cpl := BitVec.ofNat 64 (w / 32 * 32) }
  | .ringCtrl p n => ringCtrlWrite p n v s
  | .hostWin p k => s.modPt p fun P => { P with hostWin := mset 0 P.hostWin k (BitVec.ofNat 64 w &&& 0xFFFFFFFFFF000FFF) }
  | .evq p => s.modPt p fun P => { P with
      evBase := BitVec.ofNat 64 (w / 64 * 64), evIrq := bitOf w 5, evEn := bitOf w 4, evSize := BitVec.ofNat 4 w }
  | .pcmd p => hifCmdWrite (some (finPart p)) t s
  | .phb p =>
    let s1 := s.modPt p fun P => { P with phbMs := BitVec.ofNat 16 (w / 2 ^ 48) }
    if t % 2 ^ 48 = 0 ∧ m ≠ 2 ^ 64 - 1 then s1 else partitionHeartbeat p s1
  | .memRetSel => s.setMem { s.mem with retiredSel := BitVec.ofNat 12 w }
  | .lnkAssign => chipAssign (BitVec.ofNat 14 t) s
  | .lnkMode => litLanesChange (BitVec.ofNat 32 w) s
  | .lnkTimeout => s.setLnk { s.lnk with timeout := BitVec.ofNat 16 w }
  | .lnkAdopt => if t = 0 ∧ m ≠ 2 ^ 64 - 1 then s else adopt (BitVec.ofNat 39 t) s
  | .portCtrl n => if bitOf t 0 then retrain n s else s
  | .route chip => (s.setLnk { s.lnk with
      routes := mset routeNone s.lnk.routes chip (BitVec.ofNat 32 w &&& 0xBFFFFFC0) } : State).trace .routeWrite
  | .taskCtrl p => s.modDefined p fun P => { P with waitLimit := BitVec.ofNat 16 w }
  | .precCtrl p => s.modDefined p fun P => { P with precCtrl := BitVec.ofNat 32 w &&& 0xE01F0000 }
  | .rangeBase p => s.modDefined p fun P => { P with rangeBase := BitVec.ofNat 64 w &&& 0xFFFF00FFFFFFFF00 }
  | .kvCtrl p => s.modDefined p fun P => { P with kvShare := bitOf w 31, kvSwapOn := bitOf w 30 }
  | .kvWmark p => s.modDefined p fun P => { P with kvHigh := BitVec.ofNat 32 (w / 2 ^ 32), kvLow := BitVec.ofNat 32 w }
  | .kvSwap p => s.modDefined p fun P => { P with kvSwap := BitVec.ofNat 64 (w / 65536 * 65536) }
  | .kvSwapSize p => s.modDefined p fun P => { P with kvSlots := BitVec.ofNat 32 w }
  | .collBase p => s.modDefined p fun P => { P with collBase := BitVec.ofNat 64 w &&& 0xFFFF00FFFFFFFFC0 }
  | .errState p => if bitOf t 30 then releasePart p s else s
  | .spadStatus c => if bitOf t 0 then s.modCl c fun x => { x with corrected := 0, uncorrected := 0, winFaults := 0 } else s
  | .vecStatus c => if bitOf t 0 then s.modCl c fun x => { x with flushes := 0, overflows := 0, invalids := 0 } else s
  | .xcStatus c => if bitOf t 0 then s.modCl c fun x => { x with expStalls := 0, rawTiles := 0, indexFaults := 0 } else s
  | .sparseStatus c => if bitOf t 0 then s.modCl c fun x => { x with imbalance := 0, worst := 0, splitFaults := 0 } else s
  | _ => s

/-! ### Byte arrays of GRD -/

/-- An offset lies in a byte array. -/
def grdArray (off : Nat) : Bool :=
  let o := off - 0x50000
  decide (0x50000 ≤ off) && ((decide (0x4000 ≤ o) && decide (o < 0x8000)) || (decide (0x8000 ≤ o) && decide (o < 0x8200))
    || (decide (0xA000 ≤ o) && decide (o < 0xC000)) || (decide (0xC000 ≤ o) && decide (o < 0xC400)))
/-- One byte. -/
def grdByte (s : State) (off : Nat) : Byte :=
  let o := off - 0x50000
  if o < 0x8000 then mget 0 s.grd.buf (o - 0x4000)
  else if o < 0x8200 then (match s.flash.log[s.grd.logSel.toNat]? with | some e => if s.served then nth 0 e.bytes (o - 0x8000) else 0 | none => 0)
  else if o < 0xC000 then (if s.grd.certIn then nth 0 Config.certificate (o - 0xA000) else 0)
  else mget 0 s.grd.report (o - 0xC000)
/-- One byte of a write: the buffer while BUSY is 0, and the challenge. -/
def grdPut (s : State) (off : Nat) (b : Byte) : State :=
  let o := off - 0x50000
  if 0x4000 ≤ o ∧ o < 0x8000 then (if s.grd.busy then s else s.setGrd { s.grd with buf := mset 0 s.grd.buf (o - 0x4000) b })
  else if 0xC020 ≤ o ∧ o < 0xC060 then s.setGrd { s.grd with report := mset 0 s.grd.report (o - 0xC000) b }
  else s

/-! ### Windows (Tables 16.2, 16.3, 23.1) -/

/-- Bytes of a function's register window. -/
def windowSize (fn : Nat) : Nat := if fn = 0 then 2 ^ 26 else 2 ^ 20
/-- Where an offset of a function's window lies in the management window. -/
def windowOff (s : State) (fn off : Nat) : Option Nat :=
  if windowSize fn ≤ off then none
  else if fn = 0 then some off
  else match s.partOfFn fn with
    | none => none
    | some p =>
      if off < 0x1000 then some (0x400000 + 0x1000 * p + off)
      else if off < 0x1400 then some (0x84000 + 0x400 * p + (off - 0x1000))
      else if 0x40000 ≤ off then
        match (s.owned p)[(off - 0x40000) / 0x400]? with
        | some c => some (0x1000000 + 0x1000 * c + off % 0x400)
        | none => none
      else none
/-- The part of the window that is in service: everything, or GLB and FW in recovery (R435). (log 56, DEDUCED) -/
def inService (s : State) (fn off : Nat) : Bool :=
  s.served || (decide (s.pwr.boot = .recovery) && fn == 0 && (decide (off < 0x10000) || (decide (0x60000 ≤ off) && decide (off < 0x70000))))
/-- After a fatal error GLB and HIF stay readable (R469). -/
def afterFatal (fn off : Nat) : Bool := fn == 0 && (decide (off < 0x10000) || (decide (0x80000 ≤ off) && decide (off < 0x100000)))
/-- A window answers: rails up, and booted or in recovery. -/
def windowUp (s : State) : Bool := s.pwr.rails && (decide (s.pwr.boot = .ready) || decide (s.pwr.boot = .recovery))
/-- The register that covers the 4-byte word at an offset, and which half of it. -/
def halfAt (o : Nat) : Option (Reg × Nat × Bool) :=
  match regAt o with
  | some (r, n) => some (r, n, false)
  | none => match (if o < 4 then none else regAt (o - 4)) with
    | some (r, n) => if n = 8 then some (r, n, true) else none
    | none => none
/-- Some byte of a range belongs to a register. -/
def touchesReg (o n : Nat) : Bool := (List.range (n / 4 + 2)).any fun i => decide (o / 4 * 4 + 4 * i < o + n) && (halfAt (o / 4 * 4 + 4 * i)).isSome

/-- Some byte of a range of a window belongs to a register. -/
def windowTouches (s : State) (fn off n : Nat) : Bool :=
  (List.range (n / 4 + 2)).any fun i =>
    let a := off / 4 * 4 + 4 * i
    decide (a < off + n) && (match windowOff s fn a with | some o => (halfAt o).isSome | none => false)
/-- Byte of an array of GRD at an offset of a window. -/
def windowByte (s : State) (fn off : Nat) : Option Nat := match windowOff s fn off with | some o => if grdArray o then some o else none | none => none

/-- A 4-byte read at an aligned offset of a window: the value, and the latch. (log 56, DEDUCED) -/
def read4 (s : State) (fn off : Nat) : State × Nat :=
  match windowOff s fn off with
  | none => (s, 0)
  | some o =>
    if grdArray o then (s, leNat ((List.range 4).map fun i => grdByte s (o + i)))
    else match halfAt o with
      | none => (s, 0)
      | some (r, n, hi) =>
        let k := 2 ^ 26 * fn + (if hi then off - 4 else off)
        if n = 4 then (s, regRead s r % 2 ^ 32)
        else if hi then match mget none s.hif.latch k with
          | some h => (s.setHif { s.hif with latch := mset none s.hif.latch k none }, h.toNat)
          | none => (s, regRead s r / 2 ^ 32)
        else ((s.setHif { s.hif with latch := mset none s.hif.latch k (some (BitVec.ofNat 32 (regRead s r / 2 ^ 32))) } : State),
              regRead s r % 2 ^ 32)
/-- An aligned 8-byte read: one register, or two 4-byte reads. -/
def read8 (s : State) (fn off : Nat) : State × Nat :=
  match (windowOff s fn off).bind regAt with
  | some (r, 8) => (s, regRead s r)
  | _ =>
    let a := read4 s fn off
    let b := read4 a.1 fn (off + 4)
    (b.1, a.2 + b.2 * 2 ^ 32)
/-- A host read of a register window (R485, R486). (log 56, DEDUCED) -/
def windowRead (fn off size : Nat) (s : State) : State :=
  if !s.pwr.rails then s.reply .none
  else if !windowUp s then s.reply .unsupported
  else if s.glb.fatalSet && !afterFatal fn off then s.reply .unsupported
  else if !s.glb.fatalSet && !inService s fn off then s.reply (.data (List.replicate size 0) [])
  else if size = 4 ∧ off % 4 = 0 then (let r := read4 s fn off; r.1.reply (.data (leBytes 4 r.2) []))
  else if size = 8 ∧ off % 8 = 0 then (let r := read8 s fn off; r.1.reply (.data (leBytes 8 r.2) []))
  else if windowTouches s fn off size then s.reply .unsupported
  else s.reply (.data ((List.range size).map fun i => match windowByte s fn (off + i) with | some o => grdByte s o | none => 0) [])

/-- A 4-byte write at an aligned offset. (log 56, DEDUCED) -/
def write4 (fn off v : Nat) (s : State) : State :=
  match windowOff s fn off with
  | none => s
  | some o =>
    if grdArray o then (List.range 4).foldl (fun s i => grdPut s (o + i) (BitVec.ofNat 8 (v / 2 ^ (8 * i)))) s
    else match halfAt o with
      | none => s
      | some (r, _, hi) => if hi then regWrite r (v % 2 ^ 32 * 2 ^ 32) ((2 ^ 32 - 1) * 2 ^ 32) s else regWrite r (v % 2 ^ 32) (2 ^ 32 - 1) s
/-- A host write of a register window. (log 56, DEDUCED) -/
def windowWrite (fn off size v : Nat) (s : State) : State :=
  if !windowUp s || s.glb.fatalSet || !inService s fn off then s
  else if size = 4 ∧ off % 4 = 0 then write4 fn off v s
  else if size = 8 ∧ off % 8 = 0 then
    match (windowOff s fn off).bind regAt with
    | some (r, 8) => regWrite r (v % 2 ^ 64) (2 ^ 64 - 1) s
    | _ => write4 fn (off + 4) (v / 2 ^ 32) (write4 fn off v s)
  else if windowTouches s fn off size then s
  else (List.range size).foldl (fun s i => match windowByte s fn (off + i) with
    | some o => grdPut s o (BitVec.ofNat 8 (v / 2 ^ (8 * i)))
    | none => s) s
def execRegisterRead (fn : Fin 65) (off : BitVec 26) (size : Nat) (s : State) : Host.Outcome State Fault Refusal :=
  .next (windowRead fn.val off.toNat size s)
def execRegisterWrite (fn : Fin 65) (off : BitVec 26) (size value : Nat) (s : State) : Host.Outcome State Fault Refusal :=
  .next (windowWrite fn.val off.toNat size value s)

/-! ### MRD and MWR (R190, R339) -/

/-- RWG fields take a control core's write while a guard record is applied. -/
def State.guardApplies (s : State) : Bool := match s.grd.job with | some j => decide (j.step = .applied) | none => false
/-- See log 56, DEDUCED. -/
def rwgWrite (r : Reg) (v : Nat) (s : State) : State :=
  match r with
  | .lnkChip => s.setLnk { s.lnk with chip := BitVec.ofNat 14 v }
  | .partOwn p => s.modPt p fun P => { P with
      defined := bitOf v 63, vf := BitVec.ofNat 7 (v / 2 ^ 48), share := BitVec.ofNat 8 (v / 2 ^ 40), kvQuota := BitVec.ofNat 32 v }
  | .extent p j => s.modPt p fun P => { P with extents := mset 0 P.extents j (BitVec.ofNat 64 v &&& 0xC00000000001FFFF) }
  | .clsOwner c => s.modCl c fun x => { x with owned := bitOf v 31, part := BitVec.ofNat 6 (v / 16), segmask := BitVec.ofNat 4 v }
  | _ => s
/-- A whole register at its own offset; what a core reads at an offset inside a register is not stated. -/
def coreRead (s : State) (o : Nat) : State × Word :=
  match regAt o with
  | some (r, n) => (s, BitVec.ofNat 64 (if n = 8 then regRead s r else regRead s r % 2 ^ 32))
  | none =>
    if grdArray o ∧ o % 8 = 0 then (s, BitVec.ofNat 64 (leNat ((List.range 8).map fun i => grdByte s (o + i))))
    else if touchesReg o 1 then (s.bump 1, s.freeAt 0)
    else (s, 0)
def coreWrite (o : Nat) (v : Word) (s : State) : State :=
  match regAt o with
  | some (r, n) =>
    let s1 := regWrite r v.toNat (if n = 8 then 2 ^ 64 - 1 else 2 ^ 32 - 1) s
    if s.guardApplies then rwgWrite r v.toNat s1 else s1
  | none => if grdArray o ∧ o % 8 = 0 then (List.range 8).foldl (fun s i => grdPut s (o + i) (BitVec.ofNat 8 (v.toNat / 2 ^ (8 * i)))) s else s
/-- See log 56, DEDUCED. -/
def mrdOp (a : Agent) (w : Word) (s : State) : State :=
  s.sys a w [fDst, fA] fun s =>
    let r := coreRead s (s.regS a (wA w)).toNat
    (r.1.setS a (wDst w) r.2).advance a
def execMrd (a : Agent) (w : Word) (s : State) : Host.Outcome State Fault Refusal := .next (s.issue a 0xFC4 w (mrdOp a w))
/-- See log 56, DEDUCED. -/
def mwrOp (a : Agent) (w : Word) (s : State) : State :=
  s.sys a w [fA, fB] fun s => (coreWrite (s.regS a (wA w)).toNat (s.regS a (wB w)) s).advance a
def execMwr (a : Agent) (w : Word) (s : State) : Host.Outcome State Fault Refusal := .next (s.issue a 0xFC5 w (mwrOp a w))

end Sys2Proof.Machine
end

