-- ==== Sys2Proof/Machine/Remote.lean ====
section
/-! DEFINITION. Packets that arrive (R201, R284 to R286, R290 to R294, R297, R340, R410, R442, R443, R465): data flits, requests of
other chips, responses, system messages, and the ends of requests. -/

namespace Sys2Proof.Machine

/-! ### Admission (R286, R340) -/

/-- OFFSET and SPACE of a packet's machine address (Table 13.3). -/
def pkOff (k : Packet) : Nat := bitsOf k.addr.toNat 41 0
def pkSpace (k : Packet) : Nat := bitsOf k.addr.toNat 63 60
/-- The bytes that a request spans at its target. -/
def pkSpan (k : Packet) : Nat := 32 * k.len.toNat
/-- An entry of Table 15.2 that permits a request over n bytes of partition memory. (log 45, DEDUCED) -/
def admits (w : Word) (src spart : Nat) (wr : Bool) (pa n : Nat) : Bool :=
  let e := w.toNat
  bitOf e 63 && bitOf e (if wr then 61 else 62) && decide (bitsOf e 59 46 = src) && decide (bitsOf e 45 40 = spart)
    && decide (bitsOf e 33 24 ≤ pa / 2 ^ 30) && decide ((pa + (n - 1)) / 2 ^ 30 ≤ bitsOf e 23 14)
/-- The target partition that the admission table names. -/
def State.admitted (s : State) (src spart : Nat) (wr : Bool) (pa n : Nat) : Option Nat :=
  (s.grd.cur.admTab.find? fun kv => admits kv.2 src spart wr pa n).map fun kv => bitsOf kv.2.toNat 39 34
/-- Some reserved bit or field of a request is not zero, or its LEN is above 16 (Table 13.8). (log 45, DEDUCED) -/
def pkBad (k : Packet) : Bool :=
  k.resv || decide (bitsOf k.addr.toNat 59 56 ≠ 0) || decide (16 < k.len.toNat) || decide (k.status ≠ 0)
    || (if k.typ = tyAtomic then decide (bitsOf k.op.toNat 3 0 ≠ 0) else if k.typ = tyGather then decide (bitsOf k.op.toNat 5 0 ≠ 0) else decide (k.op ≠ 0))
    || (if k.typ = tyWrite ∨ k.typ = tyGather then false else decide (k.aux ≠ 0))
    || (if pkSpace k = 0 then decide (bitsOf (pkOff k) 41 40 ≠ 0) else if pkSpace k = 2 then decide (bitsOf (pkOff k) 41 37 ≠ 0) else false)
/-- Where a request lands: a partition, device memory outside every extent, or the management window. -/
inductive Landing where
  | part (p : Nat) | device | window
  deriving DecidableEq, Repr
/-- The landing of a request over n bytes from an offset, or the status that it completes with. (log 45, DEDUCED) -/
def State.landing (s : State) (k : Packet) (wr : Bool) (a n : Nat) : Except (BitVec 16) Landing :=
  if s.pwr.removing then .error stChipLost
  else if pkBad k then .error stAddrRange
  else if pkSpace k = 0 then
    match s.admitted k.src.toNat k.spart.toNat wr a n with
    | none => .error stAdmitDenied
    | some p =>
      if (s.pt p).contained then .error stPartContained
      else if (s.pt p).mappedRange a n then .ok (.part p) else .error stAddrRange
  else if (pkSpace k = 2 ∨ pkSpace k = 3) ∧ k.vc.toNat < 12 then .error stAddrRange
  else if pkSpace k = 2 then
    if inDram a n && (n = 0 || (decide (s.ownerOfDev a = 0xFF) && decide (s.ownerOfDev (a + n - 1) = 0xFF))) then .ok .device
    else .error stAddrRange
  else if pkSpace k = 3 then (if a + n ≤ 2 ^ 26 then .ok .window else .error stAddrRange)
  else .error stAddrRange
/-- Device runs of n bytes from an offset of a landing. -/
def State.runsAt (s : State) (t : Landing) (a n : Nat) : List (Nat × Nat) :=
  match t with
  | .part p => (s.pt p).runs a n
  | .device => if n = 0 then [] else [(a, n)]
  | .window => []
def State.onAt (s : State) (t : Landing) (a n : Nat) : Bool := (s.runsAt t a n).all fun r => s.devOn r.1 r.2
/-- Partition byte of a landing, for the log. -/
def State.partAt (s : State) (t : Landing) (a : Nat) : BitVec 8 :=
  match t with
  | .part p => BitVec.ofNat 8 p
  | _ => s.ownerOfDev a
/-- A request completes to its source with a status; one that is not admitted is logged with its source and address. (log 45, DEDUCED) -/
def State.turnAway (s : State) (k : Packet) (st : BitVec 16) : State :=
  let s1 := if st = stAdmitDenied then
      s.noteSev .portState 3 0xFF stAdmitDenied [k.src.setWidth 64, k.spart.setWidth 64, k.addr] else s
  s1.respond k st [] 0
/-- A write, or an update, that meets a closed group is discarded and logged (R410). -/
def State.turnAwayOff (s : State) (k : Packet) (t : Landing) (a n : Nat) : State :=
  let dev := match (s.runsAt t a n).find? fun r => !s.devOn r.1 r.2 with | some r => r.1 | none => 0
  (s.groupOffLog dev (s.partAt t a) k.src).respond k stGroupOff [] 0

/-! ### READ and WRITE -/

/-- Bytes of a landing with the poison of each, after the reads' own effect. -/
def State.fetchAt (s : State) (t : Landing) (a n : Nat) : State × List Byte × List Bool :=
  let rs := s.runsAt t a n
  let s1 := rs.foldl (fun (s : State) r => s.vaultRead r.1 r.2) s
  (s1, rs.flatMap fun r => s1.devRd r.1 r.2, rs.flatMap fun r => (List.range r.2).map fun i => mget false s1.mem.poison ((r.1 + i) / 32))
/-- Granules that hold a poisoned byte, as POISON bits. -/
def poisonBits (ps : List Bool) : BitVec 16 := BitVec.ofNat 16 (boolsNat ((chunksOf 32 ps).map fun c => c.any id))
/-- n bytes of the management window, eight at a time. -/
def windowBytes (off n : Nat) (s : State) : State × List Byte :=
  (List.range (n / 8)).foldl (fun (acc : State × List Byte) i =>
    let o := off + 8 * i
    let r := if inService acc.1 0 o then read8 acc.1 0 o else (acc.1, 0)
    (r.1, acc.2 ++ leBytes 8 r.2)) (s, [])
/-- The link that a response on channel 14 leaves by carries coded data (R304). -/
def State.codedLink (s : State) (k : Packet) : Bool :=
  match s.routeOf k.src 14 0 with
  | .ok (n, _) => decide (3 ≤ (s.po n).lpl.toNat)
  | .error _ => true
/-- Layout of the coded page of a lent sequence that an address lies in. -/
def State.codedAt (s : State) (p a : Nat) : Option KvLay :=
  (s.pt p).kvSeqs.findSome? fun q =>
    if q.lent ≠ 0 ∧ (q.groups.any fun g => ((s.pt p).group g).pages.contains (a / 65536)) then
      (kvLayout q.layout).filter (·.xc) else none
/-- Part of a coded page as the sending interface expands it (R238): every tile RAW, with the index that says so. (log 73, DESIGN CHOICE) -/
def State.expandedAt (s : State) (p : Nat) (l : KvLay) (a n : Nat) : State × List Byte × List Bool :=
  let pg := a / 65536
  let s1 := (s.pageGet p pg l).1
  let r := rawPage l (dramRd s1 p) (pg * 65536)
  let off : Nat → Nat := fun i => a % 65536 + i
  let at_ : Nat → Byte := fun o => match r.1.find? fun x => decide (x.1 ≤ o) && decide (o < x.1 + x.2.length) with
    | some x => nth 0 x.2 (o - x.1)
    | none => nth 0 (s1.partRd p (pg * 65536 + o) 1) 0
  (s1, (List.range n).map fun i => at_ (off i), (List.range n).map fun i => r.2.contains (off i / 32 * 32))
def remoteRead (k : Packet) (s : State) : State :=
  let a := pkOff k
  let n := pkSpan k
  match s.landing k false a n with
  | .error st => s.turnAway k st
  | .ok .window => let r := windowBytes a n s; r.1.respond k 0 (granules r.2) 0
  | .ok t =>
    if !s.onAt t a n then s.respond k stGroupOff [] 0
    else
      let l := match t with
        | .part p => if k.vc = 13 ∧ !s.codedLink k then (s.codedAt p a).map fun l => (p, l) else none
        | _ => none
      let r := match l with
        | some x => s.expandedAt x.1 x.2 a n
        | none => s.fetchAt t a n
      r.1.respond k 0 (granules r.2.1) (poisonBits r.2.2)

/-- Byte i of granule j of a WRITE is enabled: the enables hold for the first and the last granule. (log 45, DEDUCED) -/
def pkByteOn (k : Packet) (j i : Nat) : Bool :=
  (j ≠ 0 || k.aux.getLsbD (32 + i)) && (j + 1 ≠ k.len.toNat || k.aux.getLsbD i)
/-- The enabled bytes of a WRITE, by offset. -/
def pkPlan (k : Packet) : Plan :=
  coalesce ((List.range k.len.toNat).flatMap fun j => ((List.range 32).filter (pkByteOn k j)).map fun i =>
    (pkOff k + 32 * j + i, [BitVec.ofNat 8 ((nth 0 k.data j).toNat >>> (8 * i))]))
/-- Stores a plan at a landing. -/
def State.storeAt (s : State) (t : Landing) (pl : Plan) : State :=
  pl.foldl (fun (s : State) x => ((s.runsAt t x.1 x.2.length).foldl (fun (acc : State × List Byte) r =>
    (acc.1.vaultWrite r.1 (acc.2.take r.2), acc.2.drop r.2)) (s, x.2)).1) s
/-- Writes of the management window: whole registers, or their halves. (log 45, DEDUCED) -/
def windowStore (k : Packet) (s : State) : State :=
  (List.range (pkSpan k / 8)).foldl (fun (s : State) q =>
    let v := (nth 0 k.data (q / 4)).toNat >>> (64 * (q % 4)) % 2 ^ 64
    let on : Nat → Bool := fun h => (List.range 4).all fun i => pkByteOn k (q / 4) (8 * (q % 4) + 4 * h + i)
    let o := pkOff k + 8 * q
    if on 0 && on 1 then windowWrite 0 o 8 v s
    else if on 0 then windowWrite 0 o 4 (v % 2 ^ 32) s
    else if on 1 then windowWrite 0 (o + 4) 4 (v / 2 ^ 32) s
    else s) s
def remoteWrite (k : Packet) (s : State) : State :=
  let a := pkOff k
  let n := pkSpan k
  match s.landing k true a n with
  | .error st => s.turnAway k st
  | .ok .window => (windowStore k s).respond k 0 [] 0
  | .ok t =>
    if !s.onAt t a n then s.turnAwayOff k t a n
    else
      let bad := (List.range k.len.toNat).filter fun j => k.poison.getLsbD j && (List.range 32).any (pkByteOn k j)
      let cells := bad.flatMap fun j => (s.runsAt t (a + 32 * j) 32).flatMap fun r => sectorsOf r.1 r.2
      ((s.storeAt t (pkPlan k)).devPoisonSet cells).respond k 0 [] 0

/-! ### ATOMIC and GATHER -/

/-- Each granule of values updates the die-sector at its place; AOP 3 is reserved and updates nothing. (log 21, DEDUCED) -/
def remoteAtomic (k : Packet) (s : State) : State :=
  let a := pkOff k
  let n := pkSpan k
  let op := bitsOf k.op.toNat 7 6
  let ty := bitsOf k.op.toNat 5 4
  match s.landing k true a n with
  | .error st => s.turnAway k st
  | .ok .window => s.turnAway k stAddrRange
  | .ok t =>
    if !s.onAt t a n then s.turnAwayOff k t a n
    else if op = 3 then s.respond k 0 [] 0
    else
      let s1 := (List.range k.len.toNat).foldl (fun (s : State) j => match s.runsAt t (a + 32 * j) 32 with
        | r :: _ => s.atomAt op ty r.1 (leBytes 32 (nth 0 k.data j).toNat) (k.poison.getLsbD j)
        | [] => s) s
      s1.respond k 0 [] 0

/-- A row of the home gather unit: element bits, and the poison of its granules. -/
structure HomeRow where
  vals : List Nat
  pois : List Bool
  deriving DecidableEq, Repr
/-- Row n of a table whose rows hold e elements of a format. -/
def State.homeRow (s : State) (t : Landing) (base e fmt : Nat) (n : Option Nat) : State × HomeRow :=
  let m := eltBytes fmt
  match n with
  | none => (s, { vals := List.replicate e 0, pois := List.replicate (ceilDiv (e * m) 32) false })
  | some i =>
    let r := s.fetchAt t (base + i * (e * m)) (e * m)
    (r.1, { vals := (chunksOf m r.2.1).map leNat, pois := (chunksOf 32 r.2.2).map fun c => c.any id })
/-- A bag in slot order from +0: poison reaches the whole row (R201 to R203). -/
def homeSum (e fmt ofmt : Nat) (rows : List HomeRow) : HomeRow :=
  let sum : Nat → Nat := fun i => rows.foldl (fun acc r => poolAdd fmt acc (nth 0 r.vals i)) 0
  { vals := (List.range e).map fun i => if fmt = 0x20 then sum i else poolOut ofmt (sum i)
    pois := List.replicate (ceilDiv (e * eltBytes ofmt) 32) (rows.any fun r => r.pois.any id) }
/-- Responses of at most 16 granules each; at least one. (log 45, DEDUCED) -/
def State.respondAll (s : State) (k : Packet) (gs : List (BitVec 256)) (ps : List Bool) : State :=
  if gs.isEmpty then s.respond k 0 [] 0 else
  (List.range (ceilDiv gs.length 16)).foldl (fun (s : State) i =>
    s.respond k 0 ((gs.drop (16 * i)).take 16) (BitVec.ofNat 16 (boolsNat ((ps.drop (16 * i)).take 16)))) s
/-- GATHER: AUX is the table's base, the payload names the rows. (log 45, DEDUCED) -/
def remoteGather (k : Packet) (s : State) : State :=
  let pool := bitOf k.op.toNat 7
  let g := Config.gatherList (bitOf k.op.toNat 6) (k.data.flatMap fun x => leBytes 32 x.toNat)
  let e := g.1.1
  let fmt := g.1.2.1
  let base := bitsOf k.aux.toNat 41 0
  let w := e * eltBytes fmt
  let reach := g.2.filterMap fun x => x.map fun i => (base + i * w, w)
  let land := reach.map fun r => s.landing k false r.1 r.2
  match land.findSome? fun x => match x with | .error st => some st | .ok .window => some stAddrRange | .ok _ => none with
  | some st => s.turnAway k st
  | none =>
    match s.landing k false base 0 with
    | .error st => s.turnAway k st
    | .ok .window => s.turnAway k stAddrRange
    | .ok t =>
      if !reach.all fun r => s.onAt t r.1 r.2 then s.respond k stGroupOff [] 0
      else
        let rd := g.2.foldl (fun (acc : State × List HomeRow) x =>
          let r := acc.1.homeRow t base e fmt x
          (r.1, acc.2 ++ [r.2])) (s, [])
        let live := (List.zip g.2 rd.2).filterMap fun x => x.1.map fun _ => x.2
        if pool then
          let r := homeSum e fmt g.1.2.2 live
          rd.1.respondAll k (granules (r.vals.flatMap (leBytes (eltBytes g.1.2.2)))) r.pois
        else rd.1.respondAll k (granules (rd.2.flatMap fun r => r.vals.flatMap (leBytes (eltBytes fmt)))) (rd.2.flatMap (·.pois))

/-! ### Responses and collective segments -/

/-- A response completes its request; one that nothing waits for is discarded and counted (R293). -/
def remoteResp (n : Nat) (k : Packet) (s : State) : State :=
  let r := s.reqDone k.tag (listedStatus k.status) k.data k.poison
  if r.2 then r.1 else r.1.modPo n fun p => { p with discards := satAdd p.discards 1 }
/-- The segment that a COLL packet carries (Table 14.5); the indices of MAX and MIN have no place in it. (log 17, DEDUCED) -/
def pkSegment (k : Packet) (free : Nat → Word) : Segment :=
  let bs := k.data.flatMap fun x => leBytes 32 x.toNat
  let f : (w : Nat) → Nat → Nat → BitVec w := fun w i n => BitVec.ofNat w (fieldAt bs i n)
  { part := ⟨k.spart.toNat, k.spart.isLt⟩, src := k.src, handle := f 16 0 2, num := f 16 2 2, seg := f 32 4 4, rank := f 16 8 2
    wire := f 8 11 1, count := f 16 12 2, xlen := f 16 14 2, book := f 8 16 1, check := f 32 20 4, index := f 16 24 2
    data := bs.drop 32, vc := k.vc, idx := if k.idx.isEmpty then (List.range (fieldAt bs 12 2)).map free else k.idx }
/-- A set-up segment in a packet is the row COLL_SETUP, since Table 14.5 does not lay out its items. (log 17, DEDUCED) -/
def remoteColl (n : Nat) (k : Packet) (s : State) : State :=
  let g := pkSegment k s.freeAt
  let kind := fieldAt (k.data.flatMap fun x => leBytes 32 x.toNat) 10 1
  let s1 := s.bump g.count.toNat
  if kind = 0 then s1.collArrive n (.contrib g) k.src
  else if kind = 1 then s1.collArrive n (.result g) k.src
  else if kind = 3 then s1.collArrive n (.stop g (faultStatus k.status)) k.src
  else s

/-! ### A packet arrives -/

/-- Plans of a re-sharding go on with what came in. -/
def State.goOn (s : State) : State := if s.nightwatch then s.reshAll else s
/-- Types of Table 13.9. -/
def knownType (t : BitVec 8) : Bool := [tyRead, tyWrite, tyAtomic, tyGather, tyReadResp, tyAck, tyGatherResp, tyColl, tySys].contains t
/-- A packet on a port: one of a reserved type is discarded and counted, any other goes on to its chip or is delivered here (R290,
R297); a system message is taken by its own row. -/
def State.arrive (s : State) (n : Nat) (k : Packet) : State :=
  if !s.live || decide ((s.po n).st ≠ .active) then s
  else if !knownType k.typ then s.modPo n fun p => { p with discards := satAdd p.discards 1 }
  else if k.dst ≠ s.lnk.chip then
    let r := s.send k
    if r.2 = 0 then r.1 else r.1.bounce k r.2
  else if k.typ = tyRead then remoteRead k s
  else if k.typ = tyWrite then remoteWrite k s
  else if k.typ = tyAtomic then remoteAtomic k s
  else if k.typ = tyGather then remoteGather k s
  else if k.typ = tyReadResp ∨ k.typ = tyAck ∨ k.typ = tyGatherResp then (remoteResp n k s).goOn
  else if k.typ = tyColl then remoteColl n k s
  else s
def execRead (n : Fin 39) (k : Packet) (s : State) : Host.Outcome State Fault Refusal := .next (s.arrive n.val { k with typ := tyRead })
def execWrite (n : Fin 39) (k : Packet) (s : State) : Host.Outcome State Fault Refusal := .next (s.arrive n.val { k with typ := tyWrite })
def execAtomic (n : Fin 39) (k : Packet) (s : State) : Host.Outcome State Fault Refusal := .next (s.arrive n.val { k with typ := tyAtomic })
def execGather (n : Fin 39) (k : Packet) (s : State) : Host.Outcome State Fault Refusal := .next (s.arrive n.val { k with typ := tyGather })
def execReadResp (n : Fin 39) (k : Packet) (s : State) : Host.Outcome State Fault Refusal :=
  .next (s.arrive n.val { k with typ := tyReadResp })
def execAck (n : Fin 39) (k : Packet) (s : State) : Host.Outcome State Fault Refusal := .next (s.arrive n.val { k with typ := tyAck })
def execGatherResp (n : Fin 39) (k : Packet) (s : State) : Host.Outcome State Fault Refusal :=
  .next (s.arrive n.val { k with typ := tyGatherResp })

/-! ### Flits (R288 to R292, R295, R299) -/

/-- The 15 slots of a flit. -/
def flitSlots (f : RawFlit) : List (BitVec 128) := (List.range 15).map fun i => f.slots.extractLsb' (128 * i) 128
/-- The granule that two slots hold. -/
def pairOf (lo hi : BitVec 128) : BitVec 256 := hi ++ lo
/-- A packet header (Table 13.8). -/
def pktOf (h : BitVec 256) : Packet :=
  { typ := h.extractLsb' 0 8, vc := h.extractLsb' 8 4, len := h.extractLsb' 14 5, tag := h.extractLsb' 20 16
    poison := h.extractLsb' 36 16, spart := h.extractLsb' 52 6, status := h.extractLsb' 64 16, src := h.extractLsb' 80 14
    dst := h.extractLsb' 96 14, stage := h.extractLsb' 117 3, op := h.extractLsb' 120 8, addr := h.extractLsb' 128 64
    aux := h.extractLsb' 192 64, data := []
    resv := h.extractLsb' 12 2 != 0 || h.getLsbD 19 || h.extractLsb' 58 6 != 0 || h.extractLsb' 94 2 != 0 || h.extractLsb' 110 7 != 0 }
/-- Granules that follow a header (Table 13.9): none after a READ or an ACK, at most 16. -/
def pktGrans (k : Packet) : Nat :=
  if k.typ = tyRead ∨ k.typ = tyAck then 0 else if 16 < k.len.toNat then 16 else k.len.toNat
/-- Slots in pairs. -/
def pairUp : List (BitVec 128) → List (BitVec 256)
  | a :: b :: xs => pairOf a b :: pairUp xs
  | _ => []
/-- One slot goes into the packet that has begun, or begins one; an all-zero slot where a header would stand is empty. (log 72, DESIGN CHOICE) -/
def takeSlot (acc : List (BitVec 128) × List Packet) (x : BitVec 128) : List (BitVec 128) × List Packet :=
  if acc.1.isEmpty && x == 0 then acc else
  let held := acc.1 ++ [x]
  match pairUp held with
  | [] => (held, acc.2)
  | h :: gs =>
    let k := pktOf h
    if held.length < 2 + 2 * pktGrans k then (held, acc.2) else ([], acc.2 ++ [{ k with data := gs }])
/-- The packets that end in a flit, and the slots of one that goes on. -/
def slotPackets (part : List (BitVec 128)) (f : RawFlit) : List (BitVec 128) × List Packet := (flitSlots f).foldl takeSlot (part, [])
/-- Slots that a packet took in the receive buffer are freed when it has been handed on, and their credits are owed: dedicated ones
where the peer still held enough of them (R295). (log 72, DESIGN CHOICE) -/
def Port.free (p : Port) (k : Packet) : Port :=
  let key := pktPool k
  let n := 2 * (1 + pktGrans k)
  if n ≤ mget 0 p.peerDed key then
    { p with peerDed := mset 0 p.peerDed key (mget 0 p.peerDed key - n), owed := mset 0 p.owed key (mget 0 p.owed key + n) }
  else
    let at_ := owedShared k.vc.toNat
    { p with peerShared := p.peerShared - n, owed := mset 0 p.owed at_ (mget 0 p.owed at_ + n) }
/-- A packet of a flit is delivered. -/
def State.deliver (n : Nat) (s : State) (k : Packet) : State := (s.arrive n k).modPo n fun p => p.free k
/-- A data flit: in order it delivers its packets; a gap in SEQ sends NAK; one that came before is passed over. (log 46, DEDUCED) -/
def dataIn (n : Nat) (h : FlitHdr) (f : RawFlit) (s : State) : State :=
  if h.seq = (s.po n).rxSeq then
    let r := slotPackets (s.po n).rxPart f
    let s1 := s.modPo n fun p => { p with rxSeq := p.rxSeq + 1, rxPart := r.1 }
    (r.2.foldl (fun (s : State) k => s.deliver n k) s1).flitHead n h false
  else s.flitHead n h (decide ((h.seq - (s.po n).rxSeq).toNat < 2048))
/-- The fields of a beacon, bytes 8 to 39 (Table 13.15). -/
def beaconOf (f : RawFlit) : BeaconMsg :=
  let b : (i n : Nat) → BitVec n := fun i n => f.slots.extractLsb' i n
  { tx := b 0 64, echo := b 64 64, hold := b 128 32, root := b 160 14, depth := b 176 8, locked := f.slots.getLsbD 191, fmt := b 184 4
    fracTx := b 196 4, fracHold := b 192 4, upRoot := b 200 14, upValid := f.slots.getLsbD 215, upDepth := b 216 8 }
/-- The identity fields, bytes 8 to 15 (Table 13.13). -/
def identOf (f : RawFlit) : Ident :=
  let b : (i n : Nat) → BitVec n := fun i n => f.slots.extractLsb' i n
  { chip := b 50 14, port := b 44 6, slot := b 41 3, lpl := b 33 8, lanes := b 26 7 }
/-- A flit arrives on trained lanes: what was corrected is counted, a bad CRC is not delivered, and KIND says what it is; a reserved
KIND carries nothing but its acknowledgement and credits. (log 46, DEDUCED) -/
def flitIn (n : Nat) (f : RawFlit) (s0 : State) : State :=
  if !s0.live || decide ((s0.po n).lanes = 0) then s0 else
  let s := s0.fecAdd n f.fixed
  if !crcOk f then s.badFlit n else
  let h := flitHdr f.head
  let active := decide ((s.po n).st = .active)
  if h.kind = 3 then trainingFlit n (identOf f) s
  else if h.kind = 2 then
    let s1 := beacon n (beaconOf f) s
    if active then s1.flitHead n h false else s1
  else if !active then s
  else if h.kind = 1 then dataIn n h f s
  else s.flitHead n h false
def execDataFlit (n : Fin 39) (f : RawFlit) (s : State) : Host.Outcome State Fault Refusal := .next (flitIn n.val f s)
def execIdleFlit (n : Fin 39) (f : RawFlit) (s : State) : Host.Outcome State Fault Refusal := .next (flitIn n.val f s)

/-! ### System messages, timeouts and notices -/

/-- A message of Nightwatch at another chip; this device's Nightwatch takes it. (log 47, DEDUCED) -/
def systemMessage (n : Nat) (src : BitVec 14) (m : SysMsg) (s : State) : State :=
  if s.nightwatch && decide ((s.po n).st = .active) && !s.pwr.removing then sysMessage src m s else s
def execSys (n : Fin 39) (src : BitVec 14) (m : SysMsg) (s : State) : Host.Outcome State Fault Refusal :=
  .next (systemMessage n.val src m s)
def execRequestTimeout (tag : BitVec 16) (s : State) : Host.Outcome State Fault Refusal := .next (requestTimeout tag s).goOn
def execFailureNotice (chip : BitVec 14) (s : State) : Host.Outcome State Fault Refusal := .next (failureNotice chip s).goOn

end Sys2Proof.Machine
end

