-- ==== Sys2Proof/Machine/Scratch.lean ====
section
/-! DEFINITION. The scratchpad class (CLASS 0x06): SFILL and SCOPY (R119, R120, R167). -/

namespace Sys2Proof.Machine

/-- WIN and WINS (Table 8.12). -/
def sWin (w : Word) : Nat := fld w 30 29
def sWins (w : Word) : Nat := fld w 28 27
/-- Low 32 bits of a register that the instruction copied at issue. -/
def Job.low (j : Job) (i : Nat) : Nat := (nth 0 j.scal i).toNat % 2 ^ 32

def spadForm (copy : Bool) (code : Nat) (a : Agent) (w : Word) (s : State) : TForm :=
  let x := s.cl (match a with | .seq c => c.val | .core _ => 0)
  let lo : Nat → Nat := fun r => (s.regS a r).toNat % 2 ^ 32
  let n := lo (wB w)
  .mk code (if copy then .scopy else .sfill) [] [s.regS a (wDst w), s.regS a (wA w), s.regS a (wB w)] {
    ill := badBits w ([fDst, fA, fB, (35, 31), (30, 29)] ++ if copy then [(28, 27)] else [])
    space := []
    window := [!winOk (mget 0 x.win (sWin w)) (lo (wDst w)) n, copy && !winOk (mget 0 x.win (sWins w)) (lo (wA w)) n]
    nop := decide (n = 0) } fun _ j s => (s, .ok j)
def spadIssue (copy : Bool) (code : Nat) (a : Agent) (w : Word) (s : State) : State := s.formIssue a w (spadForm copy code a w s)
def execSfill (a : Agent) (w : Word) (s : State) : Host.Outcome State Fault Refusal := .next (spadIssue false 0x180 a w s)
def execScopy (a : Agent) (w : Word) (s : State) : Host.Outcome State Fault Refusal := .next (spadIssue true 0x181 a w s)

/-- Byte a + i of a fill is byte (a + i) mod 8 of the pattern (R119). -/
def fillBytes (a n : Nat) (pat : Word) : List Byte := (List.range n).map fun i => BitVec.ofNat 8 (pat.toNat >>> (8 * ((a + i) % 8)))
/-- Words of a destination that receive a byte of a poisoned word. -/
def movedPoison (src dst n : Nat) (ks : List Nat) : List Nat :=
  (ks.flatMap fun k => (List.range 8).filterMap fun i =>
    let b := 8 * k + i
    if src ≤ b ∧ b < src + n then some ((b - src + dst) / 8) else none).eraseDups
/-- A fill or copy completes. Poison goes with the bytes; bytes that others write meanwhile are undefined. -/
def sComplete (c : Nat) (j : Job) (s : State) : State :=
  if j.dead then s.finish c 2 j 0 else
  let w := j.word
  let n := j.low 2
  let win : Nat → Word := fun i => mget 0 (s.cl c).win i
  let dst := winPhys (win (sWin w)) (j.low 0)
  match j.op with
  | .scopy =>
    let src := winPhys (win (sWins w)) (j.low 1)
    let s1 := s.spadTouch c src n
    let x := s1.cl c
    let ts := j.taints x
    let bs := (List.range n).map fun i =>
      if ts.any fun r => decide (r.1 ≤ src + i) && decide (src + i < r.1 + r.2) then (s1.freeAt i).setWidth 8
      else mget 0 x.spad (src + i)
    let ps := movedPoison src dst n (x.spadPois src n)
    (((s1.spadWrite c 2 dst bs).modCl c fun x => x.spadPoisonSet ps).bump n).finish c 2 j 0
  | _ => (s.spadWrite c 2 dst (fillBytes (j.low 0) n (nth 0 j.scal 1))).finish c 2 j 0

end Sys2Proof.Machine
end

