-- ==== Sys2Proof/Machine/Stream.lean ====
section
/-! DEFINITION. The stream class (CLASS 0x0A): RNGS.CLAIM and RNGS.REL (R64 to R66, R185 to R188), and the row that ends a release. -/

namespace Sys2Proof.Machine

/-- Stream field and elements that a job in flight draws. -/
def Job.draws (j : Job) : Option (Nat × Nat) :=
  if j.dead then none else
  match j.op with
  | .tmm | .tmmp => let d := j.ten 0; if mStoch j.ref j.word d then some (d.strm, d.count) else none
  | .vew _ | .vred _ | .varg _ | .vcvt => vDraw j.op j.word j.ref (j.descs.map decDesc)
  | _ => none
/-- Some instruction of the task still draws from a claim (R188). -/
def State.claimBusy (s : State) (T : Task) (x : Claim) : Bool :=
  T.clusters.any fun c => (s.cl c).units.any fun kv => kv.2.any fun j => match j.draws with
    | some fn => bitOf fn.1 31 && (expertIds fn.1 fn.2).any fun id => x.hits T.seed id id
    | none => false
/-- The claim of a task with a handle. -/
def Part.claimBy (P : Part) (t : TaskId) (h : Word) : Option Claim :=
  P.claims.find? fun x => decide (x.task = t) && decide (x.handle = h) && decide (h ≠ 0)
/-- Releases a claim. -/
def State.claimDrop (s : State) (t : TaskId) (h : Word) : State :=
  s.modPt t.part.val fun P => { P with claims := P.claims.filter fun x => !(decide (x.task = t) && decide (x.handle = h)) }

/-- The handle of a partition's next claim: never 0 (Table 8.18). (log 13, DESIGN CHOICE) -/
def Part.newHandle (P : Part) : Word := if P.nextHandle = 0 then 1 else P.nextHandle
/-- A claim of a range with bit 31 set, under the job seed. -/
def rngsClaimOp (a : Agent) (w : Word) (s : State) : State :=
  let lo := (s.regS a (wA w)).setWidth 32
  let hi := (s.regS a (wB w)).setWidth 32
  s.guarded a w [(badBits w [fDst, fA, fB, (35, 35)] || isCore a, stIllegalInstr), (!wE w, stExpertField),
      (!lo.getLsbD 31 || !hi.getLsbD 31 || decide (hi.toNat < lo.toNat), stStreamClass)] fun s =>
    match s.taskOn (agentCl a) with
    | none => s
    | some T =>
      let P := s.pt T.id.part.val
      let h := P.newHandle
      let r := P.claim { seed := T.seed, lo := lo, hi := hi, task := T.id, handle := h, permit := bitOf w.toNat 35 }
      if r.2 = 0 then ((s.setPt T.id.part.val { r.1 with nextHandle := h + 1 }).setS a (wDst w) h).advance a
      else (s.setPt T.id.part.val r.1).faultAt a w r.2
def execRngsClaim (a : Agent) (w : Word) (s : State) : Host.Outcome State Fault Refusal := .next (s.issue a 0x280 w (rngsClaimOp a w))
/-- A release waits for the instructions that draw from the claim. -/
def rngsRelOp (a : Agent) (w : Word) (s : State) : State :=
  let h := s.regS a (wA w)
  let held := match s.taskOn (agentCl a) with
    | some T => (s.pt T.id.part.val).claimBy T.id h
    | none => none
  s.guarded a w [(badBits w [fA] || isCore a, stIllegalInstr), (!wE w, stExpertField), (held.isNone, stStreamHandle)] fun s =>
    match s.taskOn (agentCl a), held with
    | some T, some x => if s.claimBusy T x then s.stall a (.rngsRel h) else (s.claimDrop T.id h).advance a
    | _, _ => s
def execRngsRel (a : Agent) (w : Word) (s : State) : Host.Outcome State Fault Refusal := .next (s.issue a 0x281 w (rngsRelOp a w))
/-- The last instruction that drew from the claim has completed; a release that another sequencer of the task has carried out
meanwhile is done. -/
def execRngsReleaseDone (c : Fin 768) (s : State) : Host.Outcome State Fault Refusal :=
  let a : Agent := .seq c
  .next (match (s.cl c.val).seq.run, s.taskOn c.val with
    | .stalled (.rngsRel h), some T => match (s.pt T.id.part.val).claimBy T.id h with
      | none => if s.awake a then s.resume a else s
      | some x => if s.awake a && !s.claimBusy T x then (s.claimDrop T.id h).resume a else s
    | _, _ => s)

end Sys2Proof.Machine
end

