-- ==== Sys2Proof/Machine/Training.lean ====
section
/-! DEFINITION. The training class (CLASS 0x0B): PRUNE (R189, R253). -/

namespace Sys2Proof.Machine

/-- Magnitude of a BF16 pattern in the order of R253: a subnormal is zero, a NaN is above every number. (log 66, DEDUCED) -/
def pruneMag (b : Nat) : Nat := let m := b % 2 ^ 15; if m < 128 then 0 else if 255 * 128 < m then 2 ^ 15 else m
/-- Inserts a position after those of greater magnitude, and of equal magnitude and lower number. -/
def pruneInsert (mag : Nat → Nat) (x : Nat) : List Nat → List Nat
  | [] => [x]
  | y :: ys => if mag y < mag x then x :: y :: ys else y :: pruneInsert mag x ys
/-- The 64 positions by descending magnitude. -/
def pruneOrder (mag : Nat → Nat) : List Nat := (List.range 64).foldl (fun acc x => pruneInsert mag x acc) []
/-- The mask of one block: positions are taken in order while their row and column hold fewer than four. -/
def pruneMask (mag : Nat → Nat) : Nat :=
  ((pruneOrder mag).foldl (fun (acc : List Nat × Nat) i =>
    if mag i = 0 then acc
    else if (acc.1.countP fun k => decide (k / 8 = i / 8)) < 4 ∧ (acc.1.countP fun k => decide (k % 8 = i % 8)) < 4 then
      (i :: acc.1, acc.2 + 2 ^ i)
    else acc) ([], 0)).2
/-- The mask of each 8 x 8 block, low word first: block (i, j) holds columns 8i of dimension 0 and rows 8j of dimension 1. A
block with an undefined weight has an undefined mask. (log 66, DEDUCED) -/
def pruneWords (t : Ten) (rs : List Raw) (free : Nat → Word) : List Nat :=
  let k := t.e 0
  let nb := k / 8
  (List.range (nb * (t.e 1 / 8))).flatMap fun b =>
    let at_ : Nat → Raw := fun q => nth { val := 0, exp := 0, fl := 0, bad := none } rs ((8 * (b / nb) + q / 8) * k + 8 * (b % nb) + q % 8)
    let bad := (List.range 64).any fun q => (at_ q).bad.isSome
    let ms := (List.range 64).map fun q => pruneMag (at_ q).val.toNat
    let m := if bad then (free b).toNat else pruneMask fun q => nth 0 ms q
    [m % 2 ^ 32, m / 2 ^ 32]
/-- PRUNE completes. -/
def pComplete (c : Nat) (j : Job) (s : State) : State :=
  if j.dead then s.finish c 6 j 0 else
  let src := j.ten 1
  let r := s.readSrcs c 6 j [src]
  let ws := pruneWords src (nth [] r.2 0) r.1.freeAt
  ((r.1.storeOut c 6 (j.ten 0) (wE j.word) (.plain ws)).bump ws.length).finish c 6 j 0

/-- Checks of R189. -/
def pruneForm (a : Agent) (w : Word) (s : State) : TForm :=
  let d := mkOpd (s.regD a (wDst w))
  let x := mkOpd (s.regD a (wA w))
  .mk 0x2C0 .prune [d, x] [] {
    ill := badBits w [fDst, fA, (35, 31)] || decide (15 < wDst w) || decide (15 < wA w)
    space := [decide (d.t.space = 0), decide (x.t.space = 0)]
    fmts := [(decide (d.t.fmt ≠ 0x20), stOperandFormat), (xcBad d.t, stXcFormat), (decide (x.t.fmt ≠ 0x30), stOperandFormat),
             (xcBad x.t, stXcFormat)]
    shape := [(decide (d.t.e 0 ≠ 2 * ceilDiv (x.t.e 0) 8)
        || decide (d.t.e 1 ≠ x.t.e 1 / 8) || decide (d.t.e 2 ≠ 1) || decide (d.t.e 3 ≠ 1), stShapeMismatch),
      (strideZero d.t, stDestStride),
      (decide (x.t.e 2 ≠ 1) || decide (x.t.e 3 ≠ 1) || decide (x.t.e 0 % 8 ≠ 0) || decide (x.t.e 1 % 8 ≠ 0), stShapeMismatch)] } fun _ j s => (s, .ok j)
def pruneIssue (a : Agent) (w : Word) (s : State) : State := s.formIssue a w (pruneForm a w s)
def execPrune (a : Agent) (w : Word) (s : State) : Host.Outcome State Fault Refusal := .next (pruneIssue a w s)

end Sys2Proof.Machine
end

