-- ==== Sys2Proof/Machine/Units.lean ====
section
/-! DEFINITION. The rows of the unit queues: TENSOR_COMPLETE (R138, R144, R148) and UNIT_QUEUE_RESUME (R137). -/

namespace Sys2Proof.Machine

/-- Issues a tensor instruction by its CLASS and OP. -/
def issueTensor (a : Agent) (w : Word) (s : State) : State :=
  match classOp w with
  | 0x100 => mIssue false 0x100 a w s
  | 0x101 => mIssue true 0x101 a w s
  | 0x140 => vewIssue .add 0x140 a w s
  | 0x141 => vewIssue .sub 0x141 a w s
  | 0x142 => vewIssue .max 0x142 a w s
  | 0x143 => vewIssue .min 0x143 a w s
  | 0x144 => vewIssue .abs 0x144 a w s
  | 0x145 => vewIssue .neg 0x145 a w s
  | 0x148 => vewIssue .mul 0x148 a w s
  | 0x149 => vewIssue .div 0x149 a w s
  | 0x14A => vewIssue .muladd 0x14A a w s
  | 0x14B => vewIssue .sqrt 0x14B a w s
  | 0x14C => vewIssue .rsqrt 0x14C a w s
  | 0x14D => vewIssue .exp2 0x14D a w s
  | 0x14E => vewIssue .exp 0x14E a w s
  | 0x14F => vewIssue .log2 0x14F a w s
  | 0x150 => vewIssue .log 0x150 a w s
  | 0x151 => vewIssue .pow 0x151 a w s
  | 0x152 => vewIssue .sigm 0x152 a w s
  | 0x153 => vewIssue .silu 0x153 a w s
  | 0x160 => vredIssue .sum 0x160 a w s
  | 0x161 => vredIssue .max 0x161 a w s
  | 0x162 => vredIssue .min 0x162 a w s
  | 0x164 => vargIssue .max 0x164 a w s
  | 0x165 => vargIssue .min 0x165 a w s
  | 0x168 => vcvtIssue 0x168 a w s
  | 0x180 => spadIssue false 0x180 a w s
  | 0x181 => spadIssue true 0x181 a w s
  | 0x1C0 => dmovIssue a w s
  | 0x1C1 => gathIssue a w s
  | 0x1C2 => atomIssue a w s
  | 0x200 => kvappIssue a w s
  | 0x201 => attnIssue a w s
  | 0x202 => kvstgIssue a w s
  | 0x240 => collIssue .cred 0x240 [(19, 18)] a w s
  | 0x241 => collIssue .cbrd 0x241 [] a w s
  | 0x242 => collIssue .cgat 0x242 [] a w s
  | 0x2C0 => pruneIssue a w s
  | _ => s

/-- The oldest instruction of a unit completes, or goes on as far as it can: it waits for drained banks, for records and pages,
for responses of other chips and for the other participants of a collective. -/
def tensorComplete (c : Nat) (u : Nat) (s : State) : State :=
  if !s.live || decide ((s.cl c).cstate ≠ .run) then s else
  match (s.cl c).unit u with
  | [] => s
  | j :: _ =>
    match u with
    | 0 =>
      let s1 := emptyBufs c s
      let j1 := s1.jobNow c 0 j
      if mDone j1 then mComplete c j1 s1 else s1
    | 1 => vComplete c j s
    | 2 => sComplete c j s
    | 3 => dStep c j s
    | 4 => aStep c j s
    | 5 => (cStep c j s).freeStops
    | _ => pComplete c j s
def execTensorComplete (c : Fin 768) (u : Fin 7) (s : State) : Host.Outcome State Fault Refusal := .next (tensorComplete c.val u.val s)

/-- A stalled sequencer issues its instruction again when an entry of the unit's queue is free. -/
def execUnitQueueResume (c : Fin 768) (s : State) : Host.Outcome State Fault Refusal :=
  .next (match (s.cl c.val).seq.run with
    | .stalled (.unitFull u) =>
      let x := s.cl c.val
      if s.awake (.seq c) && decide ((x.unit u).length < 16) then
        issueTensor (.seq c) (nth 0 x.seq.prog x.seq.pc) (s.modCl c.val fun x => { x with seq := { x.seq with run := .running } })
      else s
    | _ => s)

end Sys2Proof.Machine
end

