-- ==== Sys2Proof/Machine/Dispatch.lean ====
section
/-! DEFINITION. The dispatch of commands: one arm per constructor of `Instr`. -/

namespace Sys2Proof.Machine

def exec (i : Instr) (s : State) : Host.Outcome State Fault Refusal :=
  match i with
  | .add a w => Sys2Proof.Machine.execAdd a w s
  | .sub a w => Sys2Proof.Machine.execSub a w s
  | .and a w => Sys2Proof.Machine.execAnd a w s
  | .or a w => Sys2Proof.Machine.execOr a w s
  | .xor a w => Sys2Proof.Machine.execXor a w s
  | .shl a w => Sys2Proof.Machine.execShl a w s
  | .shr a w => Sys2Proof.Machine.execShr a w s
  | .sar a w => Sys2Proof.Machine.execSar a w s
  | .cmp a w => Sys2Proof.Machine.execCmp a w s
  | .sel a w => Sys2Proof.Machine.execSel a w s
  | .muls a w => Sys2Proof.Machine.execMuls a w s
  | .movi a w => Sys2Proof.Machine.execMovi a w s
  | .movhi a w => Sys2Proof.Machine.execMovhi a w s
  | .ld a w => Sys2Proof.Machine.execLd a w s
  | .st a w => Sys2Proof.Machine.execSt a w s
  | .mve a w => Sys2Proof.Machine.execMve a w s
  | .rdst a w => Sys2Proof.Machine.execRdst a w s
  | .rdtick a w => Sys2Proof.Machine.execRdtick a w s
  | .dld a w => Sys2Proof.Machine.execDld a w s
  | .dldm a w => Sys2Proof.Machine.execDldm a w s
  | .dstr a w => Sys2Proof.Machine.execDstr a w s
  | .dset a w => Sys2Proof.Machine.execDset a w s
  | .dadd a w => Sys2Proof.Machine.execDadd a w s
  | .dget a w => Sys2Proof.Machine.execDget a w s
  | .br a w => Sys2Proof.Machine.execBr a w s
  | .brp a w => Sys2Proof.Machine.execBrp a w s
  | .brn a w => Sys2Proof.Machine.execBrn a w s
  | .loop a w => Sys2Proof.Machine.execLoop a w s
  | .loopi a w => Sys2Proof.Machine.execLoopi a w s
  | .waite a w => Sys2Proof.Machine.execWaite a w s
  | .waiteResume a => Sys2Proof.Machine.execWaiteResume a s
  | .endSeq a w => Sys2Proof.Machine.execEndSeq a w s
  | .nop a w => Sys2Proof.Machine.execNop a w s
  | .fence a w => Sys2Proof.Machine.execFence a w s
  | .fenceResume a => Sys2Proof.Machine.execFenceResume a s
  | .bar a w => Sys2Proof.Machine.execBar a w s
  | .barRelease t => Sys2Proof.Machine.execBarRelease t s
  | .phase a w => Sys2Proof.Machine.execPhase a w s
  | .phaseBoundary t => Sys2Proof.Machine.execPhaseBoundary t s
  | .waitt a w => Sys2Proof.Machine.execWaitt a w s
  | .waittResume a => Sys2Proof.Machine.execWaittResume a s
  | .evset a w => Sys2Proof.Machine.execEvset a w s
  | .waitTimeout c => Sys2Proof.Machine.execWaitTimeout c s
  | .unitQueueResume c => Sys2Proof.Machine.execUnitQueueResume c s
  | .tmm a w => Sys2Proof.Machine.execTmm a w s
  | .tmmp a w => Sys2Proof.Machine.execTmmp a w s
  | .invocationRelease c => Sys2Proof.Machine.execInvocationRelease c s
  | .tileEnd c k => Sys2Proof.Machine.execTileEnd c k s
  | .bankDrain c k b => Sys2Proof.Machine.execBankDrain c k b s
  | .bankDrainEnd c k b => Sys2Proof.Machine.execBankDrainEnd c k b s
  | .tensorComplete c u => Sys2Proof.Machine.execTensorComplete c u s
  | .vewAdd a w => Sys2Proof.Machine.execVewAdd a w s
  | .vewSub a w => Sys2Proof.Machine.execVewSub a w s
  | .vewMax a w => Sys2Proof.Machine.execVewMax a w s
  | .vewMin a w => Sys2Proof.Machine.execVewMin a w s
  | .vewAbs a w => Sys2Proof.Machine.execVewAbs a w s
  | .vewNeg a w => Sys2Proof.Machine.execVewNeg a w s
  | .vewMul a w => Sys2Proof.Machine.execVewMul a w s
  | .vewDiv a w => Sys2Proof.Machine.execVewDiv a w s
  | .vewMuladd a w => Sys2Proof.Machine.execVewMuladd a w s
  | .vewSqrt a w => Sys2Proof.Machine.execVewSqrt a w s
  | .vewRsqrt a w => Sys2Proof.Machine.execVewRsqrt a w s
  | .vewExp2 a w => Sys2Proof.Machine.execVewExp2 a w s
  | .vewExp a w => Sys2Proof.Machine.execVewExp a w s
  | .vewLog2 a w => Sys2Proof.Machine.execVewLog2 a w s
  | .vewLog a w => Sys2Proof.Machine.execVewLog a w s
  | .vewPow a w => Sys2Proof.Machine.execVewPow a w s
  | .vewSigm a w => Sys2Proof.Machine.execVewSigm a w s
  | .vewSilu a w => Sys2Proof.Machine.execVewSilu a w s
  | .vredSum a w => Sys2Proof.Machine.execVredSum a w s
  | .vredMax a w => Sys2Proof.Machine.execVredMax a w s
  | .vredMin a w => Sys2Proof.Machine.execVredMin a w s
  | .vargMax a w => Sys2Proof.Machine.execVargMax a w s
  | .vargMin a w => Sys2Proof.Machine.execVargMin a w s
  | .vcvt a w => Sys2Proof.Machine.execVcvt a w s
  | .sfill a w => Sys2Proof.Machine.execSfill a w s
  | .scopy a w => Sys2Proof.Machine.execScopy a w s
  | .dmov a w => Sys2Proof.Machine.execDmov a w s
  | .gath a w => Sys2Proof.Machine.execGath a w s
  | .atom a w => Sys2Proof.Machine.execAtom a w s
  | .kvapp a w => Sys2Proof.Machine.execKvapp a w s
  | .kvappResume c => Sys2Proof.Machine.execKvappResume c s
  | .attn a w => Sys2Proof.Machine.execAttn a w s
  | .kvstg a w => Sys2Proof.Machine.execKvstg a w s
  | .cred a w => Sys2Proof.Machine.execCred a w s
  | .cbrd a w => Sys2Proof.Machine.execCbrd a w s
  | .cgat a w => Sys2Proof.Machine.execCgat a w s
  | .rngsClaim a w => Sys2Proof.Machine.execRngsClaim a w s
  | .rngsRel a w => Sys2Proof.Machine.execRngsRel a w s
  | .rngsReleaseDone c => Sys2Proof.Machine.execRngsReleaseDone c s
  | .prune a w => Sys2Proof.Machine.execPrune a w s
  | .winw a w => Sys2Proof.Machine.execWinw a w s
  | .tstart a w => Sys2Proof.Machine.execTstart a w s
  | .tpark a w => Sys2Proof.Machine.execTpark a w s
  | .tresume a w => Sys2Proof.Machine.execTresume a w s
  | .mrd a w => Sys2Proof.Machine.execMrd a w s
  | .mwr a w => Sys2Proof.Machine.execMwr a w s
  | .taskFail t => Sys2Proof.Machine.execTaskFail t s
  | .taskEnd t => Sys2Proof.Machine.execTaskEnd t s
  | .schedulingPass host => Sys2Proof.Machine.execSchedulingPass host s
  | .entrySeq p r => Sys2Proof.Machine.execEntrySeq p r s
  | .nopEntry e => Sys2Proof.Machine.execNopEntry e s
  | .task e => Sys2Proof.Machine.execTask e s
  | .taskStart e => Sys2Proof.Machine.execTaskStart e s
  | .step e => Sys2Proof.Machine.execStep e s
  | .reshard e => Sys2Proof.Machine.execReshard e s
  | .reshardRecordDone p => Sys2Proof.Machine.execReshardRecordDone p s
  | .seqAdmit e => Sys2Proof.Machine.execSeqAdmit e s
  | .seqEnd e => Sys2Proof.Machine.execSeqEnd e s
  | .swapWriteDone p sid => Sys2Proof.Machine.execSwapWriteDone p sid s
  | .ringEnable p r => Sys2Proof.Machine.execRingEnable p r s
  | .ringDisable p r => Sys2Proof.Machine.execRingDisable p r s
  | .heartbeat => Sys2Proof.Machine.execHeartbeat s
  | .partitionHeartbeat p => Sys2Proof.Machine.execPartitionHeartbeat p s
  | .heartbeatExpiry => Sys2Proof.Machine.execHeartbeatExpiry s
  | .partitionHbExpiry p => Sys2Proof.Machine.execPartitionHbExpiry p s
  | .detach p => Sys2Proof.Machine.execDetach p s
  | .detachParkTimeout p => Sys2Proof.Machine.execDetachParkTimeout p s
  | .attach p => Sys2Proof.Machine.execAttach p s
  | .retainExpiry p => Sys2Proof.Machine.execRetainExpiry p s
  | .conventionalReset => Sys2Proof.Machine.execConventionalReset s
  | .hotReset => Sys2Proof.Machine.execHotReset s
  | .perstDeassert => Sys2Proof.Machine.execPerstDeassert s
  | .pcieLinkUp gtPerS10 width => Sys2Proof.Machine.execPcieLinkUp gtPerS10 width s
  | .pcieLinkDown => Sys2Proof.Machine.execPcieLinkDown s
  | .vfFlr k => Sys2Proof.Machine.execVfFlr k s
  | .pfFlr => Sys2Proof.Machine.execPfFlr s
  | .d3hotEntry fn => Sys2Proof.Machine.execD3hotEntry fn s
  | .d0Return fn => Sys2Proof.Machine.execD0Return fn s
  | .configRequest q => Sys2Proof.Machine.execConfigRequest q s
  | .apertureRead fn off len => Sys2Proof.Machine.execApertureRead fn off len s
  | .apertureWrite fn off data ep => Sys2Proof.Machine.execApertureWrite fn off data ep s
  | .registerWrite fn off size value => Sys2Proof.Machine.execRegisterWrite fn off size value s
  | .submit length enrolN => Sys2Proof.Machine.execSubmit length enrolN s
  | .guardStateWritten => Sys2Proof.Machine.execGuardStateWritten s
  | .guardQuiesced enrolN => Sys2Proof.Machine.execGuardQuiesced enrolN s
  | .guardQuiesceTimeout => Sys2Proof.Machine.execGuardQuiesceTimeout s
  | .guardCommit => Sys2Proof.Machine.execGuardCommit s
  | .attest part => Sys2Proof.Machine.execAttest part s
  | .fwWrite slot => Sys2Proof.Machine.execFwWrite slot s
  | .activate slot persist => Sys2Proof.Machine.execActivate slot persist s
  | .cancel => Sys2Proof.Machine.execCancel s
  | .activationParkStart => Sys2Proof.Machine.execActivationParkStart s
  | .deferTimeout => Sys2Proof.Machine.execDeferTimeout s
  | .actParkTimeout => Sys2Proof.Machine.execActParkTimeout s
  | .firmwareSwitch => Sys2Proof.Machine.execFirmwareSwitch s
  | .activationDone => Sys2Proof.Machine.execActivationDone s
  | .actFallback => Sys2Proof.Machine.execActFallback s
  | .configWrite => Sys2Proof.Machine.execConfigWrite s
  | .fieldRewrite => Sys2Proof.Machine.execFieldRewrite s
  | .traceMark point data => Sys2Proof.Machine.execTraceMark point data s
  | .traceEnable => Sys2Proof.Machine.execTraceEnable s
  | .epochRecord => Sys2Proof.Machine.execEpochRecord s
  | .clearLost => Sys2Proof.Machine.execClearLost s
  | .spadStatusClear c => Sys2Proof.Machine.execSpadStatusClear c s
  | .vecStatusClear c => Sys2Proof.Machine.execVecStatusClear c s
  | .xcStatusClear c => Sys2Proof.Machine.execXcStatusClear c s
  | .sparseStatusClear c => Sys2Proof.Machine.execSparseStatusClear c s
  | .release p => Sys2Proof.Machine.execRelease p s
  | .pwrCapWrite value => Sys2Proof.Machine.execPwrCapWrite value s
  | .deviceQuiesce => Sys2Proof.Machine.execDeviceQuiesce s
  | .deviceQuiesced => Sys2Proof.Machine.execDeviceQuiesced s
  | .stateParkTimeout => Sys2Proof.Machine.execStateParkTimeout s
  | .deviceOn => Sys2Proof.Machine.execDeviceOn s
  | .deviceLow => Sys2Proof.Machine.execDeviceLow s
  | .deviceOff => Sys2Proof.Machine.execDeviceOff s
  | .orderlyRemovalEnd => Sys2Proof.Machine.execOrderlyRemovalEnd s
  | .clusterRun first count => Sys2Proof.Machine.execClusterRun first count s
  | .clusterGate first count => Sys2Proof.Machine.execClusterGate first count s
  | .clusterRetain first count => Sys2Proof.Machine.execClusterRetain first count s
  | .clusterOff first count => Sys2Proof.Machine.execClusterOff first count s
  | .segmentOn first count mask => Sys2Proof.Machine.execSegmentOn first count mask s
  | .segmentOff first count mask => Sys2Proof.Machine.execSegmentOff first count mask s
  | .vaultGroupActive first count => Sys2Proof.Machine.execVaultGroupActive first count s
  | .vaultGroupSelfRefresh first count => Sys2Proof.Machine.execVaultGroupSelfRefresh first count s
  | .vaultGroupOff first count => Sys2Proof.Machine.execVaultGroupOff first count s
  | .drainComplete g => Sys2Proof.Machine.execDrainComplete g s
  | .drainTimeout g => Sys2Proof.Machine.execDrainTimeout g s
  | .groupFillDone g => Sys2Proof.Machine.execGroupFillDone g s
  | .gearChange g => Sys2Proof.Machine.execGearChange g s
  | .capControlPeriod inputMw clusterMw partMj unattrMj => Sys2Proof.Machine.execCapControlPeriod inputMw clusterMw partMj unattrMj s
  | .droopDetect c => Sys2Proof.Machine.execDroopDetect c s
  | .droopRecover c => Sys2Proof.Machine.execDroopRecover c s
  | .droopEmergency => Sys2Proof.Machine.execDroopEmergency s
  | .thermalSample readings => Sys2Proof.Machine.execThermalSample readings s
  | .thermalStageLeave => Sys2Proof.Machine.execThermalStageLeave s
  | .thermalTrip sensor => Sys2Proof.Machine.execThermalTrip sensor s
  | .refresh v die bank => Sys2Proof.Machine.execRefresh v die bank s
  | .patrolScrub g => Sys2Proof.Machine.execPatrolScrub g s
  | .scratchpadScrub c => Sys2Proof.Machine.execScratchpadScrub c s
  | .errorEntryExpire v idx => Sys2Proof.Machine.execErrorEntryExpire v idx s
  | .burstRead addr n => Sys2Proof.Machine.execBurstRead addr n s
  | .burstWrite addr data => Sys2Proof.Machine.execBurstWrite addr data s
  | .narrowRead addr len => Sys2Proof.Machine.execNarrowRead addr len s
  | .narrowWrite addr data => Sys2Proof.Machine.execNarrowWrite addr data s
  | .memoryAtomic addr aop atype data poisoned => Sys2Proof.Machine.execMemoryAtomic addr aop atype data poisoned s
  | .pooledBag p table slots outFmt => Sys2Proof.Machine.execPooledBag p table slots outFmt s
  | .dataFlit n f => Sys2Proof.Machine.execDataFlit n f s
  | .idleFlit n f => Sys2Proof.Machine.execIdleFlit n f s
  | .beacon n b => Sys2Proof.Machine.execBeacon n b s
  | .beaconSend n => Sys2Proof.Machine.execBeaconSend n s
  | .trainingFlit n x => Sys2Proof.Machine.execTrainingFlit n x s
  | .trainingFlitSend n => Sys2Proof.Machine.execTrainingFlitSend n s
  | .laneTrained n lanes => Sys2Proof.Machine.execLaneTrained n lanes s
  | .identityTimeout n => Sys2Proof.Machine.execIdentityTimeout n s
  | .laneSignalLoss n => Sys2Proof.Machine.execLaneSignalLoss n s
  | .portSilenceTimeout n => Sys2Proof.Machine.execPortSilenceTimeout n s
  | .requestTimeout tag => Sys2Proof.Machine.execRequestTimeout tag s
  | .read n k => Sys2Proof.Machine.execRead n k s
  | .write n k => Sys2Proof.Machine.execWrite n k s
  | .atomic n k => Sys2Proof.Machine.execAtomic n k s
  | .gather n k => Sys2Proof.Machine.execGather n k s
  | .readResp n k => Sys2Proof.Machine.execReadResp n k s
  | .ack n k => Sys2Proof.Machine.execAck n k s
  | .gatherResp n k => Sys2Proof.Machine.execGatherResp n k s
  | .sys n src m => Sys2Proof.Machine.execSys n src m s
  | .collSetup n m => Sys2Proof.Machine.execCollSetup n m s
  | .collContribution n m => Sys2Proof.Machine.execCollContribution n m s
  | .collResult n m => Sys2Proof.Machine.execCollResult n m s
  | .collAbort n m status => Sys2Proof.Machine.execCollAbort n m status s
  | .darkNotice n => Sys2Proof.Machine.execDarkNotice n s
  | .withdrawalMessage n => Sys2Proof.Machine.execWithdrawalMessage n s
  | .failureNotice chip => Sys2Proof.Machine.execFailureNotice chip s
  | .litLanesChange value => Sys2Proof.Machine.execLitLanesChange value s
  | .laneChangeDone => Sys2Proof.Machine.execLaneChangeDone s
  | .chipAssign chip => Sys2Proof.Machine.execChipAssign chip s
  | .adopt ports => Sys2Proof.Machine.execAdopt ports s
  | .retrain n => Sys2Proof.Machine.execRetrain n s
  | .bladeMate => Sys2Proof.Machine.execBladeMate s
  | .powerUp env => Sys2Proof.Machine.execPowerUp env s
  | .bootComplete => Sys2Proof.Machine.execBootComplete s
  | .enableLow => Sys2Proof.Machine.execEnableLow s
  | .inputUndervoltage => Sys2Proof.Machine.execInputUndervoltage s
  | .inputOvervoltage => Sys2Proof.Machine.execInputOvervoltage s
  | .refclkLoss => Sys2Proof.Machine.execRefclkLoss s
  | .pllLockLoss => Sys2Proof.Machine.execPllLockLoss s
  | .surpriseRemoval => Sys2Proof.Machine.execSurpriseRemoval s
  | .unitInternalError c => Sys2Proof.Machine.execUnitInternalError c s
  | .hostRequestError p => Sys2Proof.Machine.execHostRequestError p s
  | .fatalError status unit index akind addr => Sys2Proof.Machine.execFatalError status unit index akind addr s
  | .watchdogExpiry k => Sys2Proof.Machine.execWatchdogExpiry k s
  | .correctedRecord status unit index part akind addr count => Sys2Proof.Machine.execCorrectedRecord status unit index part akind addr count s
  | .laneLightDetect n => Sys2Proof.Machine.execLaneLightDetect n s
  | .unitTransitionDone => Sys2Proof.Machine.execUnitTransitionDone s
  | .slotWriteDone ok => Sys2Proof.Machine.execSlotWriteDone ok s
  | .imageWriteDone => Sys2Proof.Machine.execImageWriteDone s
  | .registerRead fn off size => Sys2Proof.Machine.execRegisterRead fn off size s
  | .swapReadDone p sid tagOk => Sys2Proof.Machine.execSwapReadDone p sid tagOk s

end Sys2Proof.Machine
end

