-- ==== Sys2Proof/Safety.lean ====
section
/-! DEFINITION. Safe runs, and the invariants that claims use: the canonical form of every memory, and the legal values of
registers. -/

namespace Sys2Proof

/-- The outcome of a step is a next state. -/
def Completes {σ φ ρ : Type} (o : Host.Outcome σ φ ρ) : Prop := ∃ t, o = .next t

/-- Every prefix of a run of `n` steps from `s` answers a next state. -/
def SafeRun (s : Machine.State) (n : Nat) : Prop := ∀ k, k ≤ n → Completes (core.run k s)

namespace Machine

/-- The byte memories of the device and the host are in canonical form. -/
def MemOk (m : Mem) : Prop := Memory.wf m.dram = true ∧ Memory.wf m.hostMem = true ∧ Memory.wf m.ctrlSram = true
/-- Every memory is in canonical form: stacked memory, host memory, control SRAM and every cluster's scratchpad. -/
def State.Canon (s : State) : Prop := MemOk s.mem ∧ ∀ c, Memory.wf (s.cl c).spad = true

/-- The device is ON, QUIESCED or LOW while it is powered (Table 18.3). -/
def PwrOk (p : Pwr) : Prop := p.dev ≠ 3
/-- The gear, and the two gears of a change, are among the three of Table 20.1. -/
def ClkOk (k : Clk) : Prop := k.gear.toNat ≤ 2 ∧ k.was.toNat ≤ 2 ∧ k.goal.toNat ≤ 2
/-- MER_STATUS: the root has no parent port and depth 0; DEPTH_OVER is a depth above 5 (R311, R313, Table 13.28). -/
def MerOk (m : Mer) : Prop := (m.root = true → m.parent = 0x3F ∧ m.depth = 0) ∧ (m.depthOver = true ↔ 5 < m.depth)
/-- Registers whose values the spec bounds hold legal ones. -/
def State.Legal (s : State) : Prop := PwrOk s.pwr ∧ ClkOk s.clk ∧ MerOk s.mer

/-! ### What a command leaves as it was -/

/-- The components of the machine: the fields of the state but for the queue. -/
inductive Comp where
  | pwr | clk | glb | cfg | flash | grd | fw | log | hif | mem | lnk | mer | parts | clusters | ccores | tasks | freeTick
  deriving DecidableEq, Repr

def Comp.all : List Comp :=
  [.pwr, .clk, .glb, .cfg, .flash, .grd, .fw, .log, .hif, .mem, .lnk, .mer, .parts, .clusters, .ccores, .tasks, .freeTick]
def allBut (cs : List Comp) : List Comp := Comp.all.filter fun c => decide (c ∉ cs)

/-- `t` has the queue of `s`, and differs from it at most in the components listed. -/
structure Only (cs : List Comp) (s t : State) : Prop where
  queue    : t.pending = s.pending
  pwr      : Comp.pwr ∉ cs → t.pwr = s.pwr
  clk      : Comp.clk ∉ cs → t.clk = s.clk
  glb      : Comp.glb ∉ cs → t.glb = s.glb
  cfg      : Comp.cfg ∉ cs → t.cfg = s.cfg
  flash    : Comp.flash ∉ cs → t.flash = s.flash
  grd      : Comp.grd ∉ cs → t.grd = s.grd
  fw       : Comp.fw ∉ cs → t.fw = s.fw
  log      : Comp.log ∉ cs → t.log = s.log
  hif      : Comp.hif ∉ cs → t.hif = s.hif
  mem      : Comp.mem ∉ cs → t.mem = s.mem
  lnk      : Comp.lnk ∉ cs → t.lnk = s.lnk
  mer      : Comp.mer ∉ cs → t.mer = s.mer
  parts    : Comp.parts ∉ cs → t.parts = s.parts
  clusters : Comp.clusters ∉ cs → t.clusters = s.clusters
  ccores   : Comp.ccores ∉ cs → t.ccores = s.ccores
  tasks    : Comp.tasks ∉ cs → t.tasks = s.tasks
  freeTick : Comp.freeTick ∉ cs → t.freeTick = s.freeTick

/-- Nothing differs but the sequencer or the control core of agent `a`: every memory, queue and register outside it is the same. -/
structure AgentOnly (a : Agent) (s t : State) : Prop where
  rest     : Only [.clusters, .ccores] s t
  clusters : ∀ c, { t.cl c with seq := Seq.reset } = { s.cl c with seq := Seq.reset }
  seqs     : ∀ c, (∀ k : Fin 768, a = .seq k → c ≠ k.val) → (t.cl c).seq = (s.cl c).seq
  cores    : ∀ k, (∀ j : Fin 8, a = .core j → k ≠ j.val) → t.cc k = s.cc k

/-- Of agent `a`, the scalar, event, predicate and descriptor registers outside the lists, the instruction status, the program
and whether it runs are the same. -/
structure RegsKept (a : Agent) (S E P D : List Nat) (s t : State) : Prop where
  scalars : ∀ i, i ∉ S → t.regS a i = s.regS a i
  events  : ∀ i, i ∉ E → t.regE a i = s.regE a i
  preds   : ∀ i, i ∉ P → t.regP a i = s.regP a i
  descs   : ∀ i, i ∉ D → t.regD a i = s.regD a i
  status  : t.statusOf a = s.statusOf a
  run     : match a with
    | .seq c => (t.cl c.val).seq.prog = (s.cl c.val).seq.prog ∧ (t.cl c.val).seq.run = (s.cl c.val).seq.run
    | .core k => (t.cc k.val).halted = (s.cc k.val).halted ∧ (t.cc k.val).fault = (s.cc k.val).fault ∧
        (t.cc k.val).wait = (s.cc k.val).wait

/-- Agent `a` has gone on to the instruction that follows (R157 for the end of a loop body). -/
def GoesOn (a : Agent) (s t : State) : Prop :=
  t.pcOf a = (nextPc (s.pcOf a) (s.loopsOf a)).1 ∧ t.loopsOf a = (nextPc (s.pcOf a) (s.loopsOf a)).2

/-- Agent `a` has executed an instruction that may write the registers listed and nothing else. -/
def Retires (a : Agent) (S E P D : List Nat) (s t : State) : Prop :=
  AgentOnly a s t ∧ RegsKept a S E P D s t ∧ GoesOn a s t

end Machine
end Sys2Proof
end

