-- ==== Sys2Proof/Certificates/Slice0/Obligations.lean ====
section
/-! DEFINITION. The statements for the provers. Each `Obligations.<Name>` is listed in OBLIGATIONS.json with the rule of spec/ that it
formalises; the definitions before them are the terms in which they are said. -/

namespace Sys2Proof.Machine

/-! ### The components that each row may change -/

/-- Components that a next state of a row may hold changed; every other one, and the queue, is as before. -/
def mayChange : Instr → List Comp
  | .add _ _ | .sub _ _ | .and _ _ | .or _ _ | .xor _ _ | .shl _ _ | .shr _ _ | .sar _ _ | .cmp _ _ | .sel _ _ | .muls _ _
  | .movi _ _ | .movhi _ _ | .mve _ _ | .rdst _ _ | .rdtick _ _ | .dset _ _ | .dadd _ _ | .dget _ _ | .br _ _ | .brp _ _
  | .brn _ _ | .loop _ _ | .loopi _ _ | .waite _ _ | .endSeq _ _ | .nop _ _ | .fence _ _ | .bar _ _ | .phase _ _
  | .waitt _ _ | .evset _ _ | .sfill _ _ | .scopy _ _ | .dmov _ _ | .gath _ _ | .atom _ _ | .prune _ _ | .winw _ _
  | .tpark _ _ | .mrd _ _ => [.clusters, .ccores, .tasks, .freeTick]
  | .ld _ _ | .st _ _ | .dld _ _ | .dldm _ _ | .dstr _ _ | .kvapp _ _ | .attn _ _ | .kvstg _ _ =>
    [.cfg, .log, .mem, .parts, .clusters, .ccores, .tasks, .freeTick]
  | .waiteResume _ | .fenceResume _ | .barRelease _ | .waittResume _ => [.clusters, .ccores]
  | .phaseBoundary _ => allBut [.flash, .grd, .fw, .mer]
  | .waitTimeout _ => [.clusters, .tasks, .freeTick]
  | .unitQueueResume _ | .tmm _ _ | .tmmp _ _ | .cred _ _ | .cbrd _ _ | .cgat _ _ | .tstart _ _ =>
    allBut [.pwr, .clk, .flash, .grd, .fw, .lnk, .mer]
  | .invocationRelease _ | .entrySeq _ _ | .task _ | .taskStart _ | .seqAdmit _ | .swapReadDone _ _ _ =>
    [.glb, .cfg, .log, .hif, .mem, .parts, .clusters, .tasks, .freeTick]
  | .tileEnd _ _ => [.log, .parts, .clusters, .tasks, .freeTick]
  | .bankDrain _ _ _ | .bankDrainEnd _ _ _ | .kvappResume _ | .spadStatusClear _ | .vecStatusClear _ | .xcStatusClear _
  | .sparseStatusClear _ => [.clusters]
  | .tensorComplete _ _ | .reshard _ | .reshardRecordDone _ | .requestTimeout _ | .sys _ _ _ | .collSetup _ _
  | .collContribution _ _ | .collResult _ _ | .collAbort _ _ _ | .failureNotice _ | .unitInternalError _
  | .hostRequestError _ => allBut [.pwr, .clk, .flash, .grd, .fw, .mer, .ccores]
  | .vewAdd _ _ | .vewSub _ _ | .vewMax _ _ | .vewMin _ _ | .vewAbs _ _ | .vewNeg _ _ | .vewMul _ _ | .vewDiv _ _
  | .vewMuladd _ _ | .vewSqrt _ _ | .vewRsqrt _ _ | .vewExp2 _ _ | .vewExp _ _ | .vewLog2 _ _ | .vewLog _ _ | .vewPow _ _
  | .vewSigm _ _ | .vewSilu _ _ | .vredSum _ _ | .vredMax _ _ | .vredMin _ _ | .vargMax _ _ | .vargMin _ _ | .vcvt _ _
  | .rngsClaim _ _ | .rngsRel _ _ => [.parts, .clusters, .ccores, .tasks, .freeTick]
  | .rngsReleaseDone _ => [.parts, .clusters, .ccores]
  | .tresume _ _ | .step _ | .stateParkTimeout => allBut [.clk, .glb, .flash, .grd, .fw, .lnk, .mer]
  | .mwr _ _ | .registerWrite _ _ _ _ | .activationDone | .thermalTrip _ | .dataFlit _ _ | .idleFlit _ _ | .read _ _
  | .write _ _ | .atomic _ _ | .gather _ _ | .readResp _ _ | .ack _ _ | .gatherResp _ _ | .powerUp _ | .inputUndervoltage
  | .inputOvervoltage => Comp.all
  | .taskFail _ | .taskEnd _ | .detachParkTimeout _ | .retainExpiry _ => allBut [.clk, .flash, .grd, .fw, .mer, .ccores]
  | .schedulingPass _ | .heartbeatExpiry | .partitionHbExpiry _ | .conventionalReset | .hotReset | .pcieLinkDown | .cancel
  | .deferTimeout | .actParkTimeout | .firmwareSwitch => allBut [.clk, .flash, .grd, .mer]
  | .nopEntry _ => [.log, .hif, .mem, .parts, .freeTick]
  | .seqEnd _ | .apertureRead _ _ _ | .apertureWrite _ _ _ _ => [.cfg, .log, .hif, .mem, .parts, .freeTick]
  | .swapWriteDone _ _ | .partitionHeartbeat _ => [.parts]
  | .ringEnable _ _ => allBut [.pwr, .clk, .flash, .grd, .mer, .ccores]
  | .ringDisable _ _ => [.fw, .parts]
  | .heartbeat | .pcieLinkUp _ _ | .d3hotEntry _ | .d0Return _ | .configRequest _ | .registerRead _ _ _ => [.hif]
  | .detach _ | .vfFlr _ | .pfFlr => allBut [.clk, .flash, .grd, .mer, .ccores]
  | .attach _ => allBut [.clk, .glb, .flash, .grd, .lnk, .mer]
  | .perstDeassert => [.pwr, .hif]
  | .submit _ _ => [.pwr, .grd, .fw, .log, .mem, .freeTick]
  | .guardStateWritten | .guardQuiesceTimeout | .guardCommit => allBut [.clk, .glb, .fw, .lnk, .mer]
  | .guardQuiesced _ => allBut [.clk, .fw]
  | .attest _ => [.grd, .fw, .log, .mem, .freeTick]
  | .fwWrite _ => [.cfg, .flash, .fw, .log, .mem, .parts, .freeTick]
  | .activate _ _ | .activationParkStart => [.fw, .log, .mem, .freeTick]
  | .actFallback => allBut [.flash]
  | .configWrite => [.cfg, .fw, .log, .mem, .parts, .freeTick]
  | .fieldRewrite | .patrolScrub _ | .burstRead _ _ | .burstWrite _ _ | .narrowRead _ _ | .narrowWrite _ _
  | .memoryAtomic _ _ _ _ _ | .pooledBag _ _ _ _ => [.cfg, .log, .mem, .parts, .freeTick]
  | .traceMark _ _ | .traceEnable | .epochRecord => [.log, .mem, .freeTick]
  | .clearLost | .correctedRecord _ _ _ _ _ _ _ => [.log]
  | .release _ => [.cfg, .fw, .log, .mem, .parts, .clusters, .freeTick]
  | .pwrCapWrite _ | .deviceQuiesced | .droopEmergency | .bladeMate => [.pwr]
  | .deviceQuiesce | .deviceOn | .deviceLow | .deviceOff | .clusterRun _ _ | .clusterGate _ _ | .clusterRetain _ _
  | .clusterOff _ _ | .segmentOn _ _ _ | .segmentOff _ _ _ | .vaultGroupActive _ _ | .vaultGroupSelfRefresh _ _
  | .vaultGroupOff _ _ | .gearChange _ => allBut [.glb, .flash, .grd, .fw, .hif, .ccores]
  | .orderlyRemovalEnd | .enableLow | .refclkLoss | .pllLockLoss | .surpriseRemoval => allBut [.freeTick]
  | .drainComplete _ | .drainTimeout _ | .groupFillDone _ => [.pwr, .mem]
  | .capControlPeriod _ _ _ _ => [.pwr, .log, .mem, .parts, .clusters, .tasks, .freeTick]
  | .droopDetect _ => [.pwr, .clk, .log, .mem, .clusters, .freeTick]
  | .droopRecover _ => [.pwr, .clusters]
  | .thermalSample _ | .thermalStageLeave => [.pwr, .log, .mem, .clusters, .freeTick]
  | .refresh _ _ _ | .errorEntryExpire _ _ => [.mem]
  | .scratchpadScrub _ => [.log, .clusters]
  | .beacon _ _ => [.clk, .log, .mem, .lnk, .mer, .freeTick]
  | .beaconSend _ => [.lnk, .freeTick]
  | .trainingFlit _ _ | .identityTimeout _ | .laneSignalLoss _ | .portSilenceTimeout _ | .withdrawalMessage _
  | .laneChangeDone => [.log, .mem, .lnk, .mer, .parts, .clusters, .tasks, .freeTick]
  | .trainingFlitSend _ | .laneTrained _ _ | .darkNotice _ => [.lnk]
  | .litLanesChange _ => [.fw, .log, .mem, .lnk, .mer, .parts, .clusters, .tasks, .freeTick]
  | .chipAssign _ | .adopt _ | .retrain _ => [.fw, .log, .mem, .lnk, .mer, .freeTick]
  | .bootComplete => [.pwr, .log, .mem, .lnk, .mer, .freeTick]
  | .fatalError _ _ _ _ _ | .watchdogExpiry _ => [.glb, .log, .hif, .mem, .lnk, .clusters, .freeTick]
  | .laneLightDetect _ => [.log, .mem, .lnk, .mer, .freeTick]
  | .unitTransitionDone => allBut [.flash, .grd, .fw]
  | .slotWriteDone _ => allBut [.clk, .mer, .ccores, .tasks]
  | .imageWriteDone => [.cfg, .flash, .log, .mem, .parts, .freeTick]

/-! ### Instructions of the scalar class -/

/-- Agent `a` is about to execute the word `w`, whose CLASS and OP make `code` and whose bits outside the fields are zero. -/
abbrev Issues (code : Nat) (fields : List (Nat × Nat)) (a : Agent) (w : Word) (s : State) : Prop :=
  s.ready a w = true ∧ classOp w = code ∧ badBits w fields = false

/-- Agent `a` stalls at its instruction for `x`: nothing but predicates in `P` has changed, and its index stays. -/
def Stalls (a : Agent) (P : List Nat) (x : Stall) (s t : State) : Prop :=
  AgentOnly a s t ∧ RegsKept a [] [] P [] s (t.unstall a) ∧ t.pcOf a = s.pcOf a ∧ t.loopsOf a = s.loopsOf a ∧ t.stallOf a = some x
/-- Agent `a` leaves its stall and goes on to the instruction that follows; nothing else changes. -/
def Resumes (a : Agent) (s t : State) : Prop :=
  AgentOnly a s t ∧ RegsKept a [] [] [] [] (s.unstall a) t ∧ GoesOn a s t ∧ t.stallOf a = none

/-- The two-operand rows of Table 8.3: constructor, CLASS x 64 + OP, value of a and b. -/
def aluRows : List ((Agent → Word → Instr) × Nat × (Word → Word → Word)) :=
  [(.add, 0x000, fun x y => x + y), (.sub, 0x001, fun x y => x - y), (.and, 0x002, fun x y => x &&& y), (.or, 0x003, fun x y => x ||| y),
   (.xor, 0x004, fun x y => x ^^^ y), (.shl, 0x005, fun x y => x <<< (y.toNat % 64)), (.shr, 0x006, fun x y => x >>> (y.toNat % 64)),
   (.sar, 0x007, fun x y => x.sshiftRight (y.toNat % 64)), (.muls, 0x00A, fun x y => x * (y.setWidth 32).signExtend 64)]
/-- The conditions of Table 8.4. -/
def condRows : List (Nat × (Word → Word → Bool)) :=
  [(0, fun x y => decide (x = y)), (1, fun x y => decide (x ≠ y)), (2, fun x y => decide (x.toInt < y.toInt)),
   (3, fun x y => decide (y.toInt ≤ x.toInt)), (4, fun x y => decide (x.toNat < y.toNat)), (5, fun x y => decide (y.toNat ≤ x.toNat))]
/-- Rows that write register DST with a value of the state: constructor, code, fields, what else they require, value. -/
def moveRows : List ((Agent → Word → Instr) × Nat × List (Nat × Nat) × (Word → Bool) × (Agent → Word → State → Word)) :=
  [(.sel, 0x009, [fDst, fA, fB, (34, 32)], fun _ => true,
      fun a w s => if s.regP a (fld w 34 32) then s.regS a (wA w) else s.regS a (wB w)),
   (.movi, 0x00B, [fDst, (35, 0)], fun _ => true, fun _ w _ => (w.setWidth 36).signExtend 64),
   (.movhi, 0x00C, [fDst, (27, 0)], fun _ => true,
      fun a w s => (w.setWidth 28).setWidth 64 <<< 36 ||| ((s.regS a (wDst w)).setWidth 36).setWidth 64),
   (.mve, 0x012, [fDst, fA], fun w => decide (wA w ≤ 15), fun a w s => (s.regE a (wA w)).setWidth 64),
   (.rdtick, 0x014, [fDst], fun _ => true, fun _ _ s => s.clk.merTick)]

/-- One byte of a memory: of a scratchpad, of stacked memory as its cells read, of control SRAM. -/
inductive Cell where
  | spad (c x : Nat)
  | dram (x : Nat)
  | sram (x : Nat)
  deriving DecidableEq, Repr
def State.cell (s : State) : Cell → Byte
  | .spad c x => mget 0 (s.cl c).spad x
  | .dram x => s.mem.cell x
  | .sram x => mget 0 s.mem.ctrlSram x
/-- Byte i of a scalar access. -/
def scalarCell (s : State) (a : Agent) (i : Nat) : ScalarLoc → Option Cell
  | .spad x => some (.spad (clusterOf a) (x + i))
  | .dram p pa => ((s.pt p).dev pa).map fun d => .dram (d + i)
  | .sram x => some (.sram (x + i))
/-- The bursts that a store of n bytes covers in part are read and merged (R197). -/
def scalarMerge (s : State) (n : Nat) : ScalarLoc → State
  | .dram p pa => match (s.pt p).dev pa with
    | some d =>
      let s1 := if d % 256 ≠ 0 then s.vaultRead (d / 256 * 256) 256 else s
      if (d + n) % 256 ≠ 0 then s1.vaultRead ((d + n) / 256 * 256) 256 else s1
    | none => s
  | _ => s
/-- A cluster but for its sequencer, its scratchpad and what the units' instructions know of the scratchpad. -/
def outsideStore (x : Cluster) : Cluster := { x with seq := Seq.reset, spad := [], spadPoison := [], spadFlaw := [], units := [] }
/-- The loads: constructor, code, fields, base register, bytes and alignment, and what is required besides. -/
def loadRows : List ((Agent → Word → Instr) × Nat × List (Nat × Nat) × (Word → Nat) × Nat × (Word → Nat) × (Agent → Word → Bool)) :=
  [(.ld, 0x010, [fDst, fA] ++ fMem, wA, 8, fun _ => 8, fun _ _ => true),
   (.dld, 0x018, [fDst, fA] ++ fMem, wA, 32, fun _ => 32, fun a w => !isCore a && decide (wDst w ≤ 15)),
   (.dldm, 0x019, [fDst, fA, fB] ++ fMem, wB, 32, fun w => 32 * (wA w + 1 - wDst w),
      fun a w => !isCore a && decide (wDst w ≤ wA w) && decide (wA w ≤ 15))]

/-- The fault that R153 gives an access of n bytes by the sequencer of cluster c: PRIVILEGE for control SRAM, ALIGN, ADDR_RANGE where an
address is mapped by no extent, WINDOW_BOUND outside the window (R115). -/
def AccessFaults (c : Fin 768) (s : State) (w base : Word) (align n : Nat) (st : BitVec 16) : Prop :=
  let ad := (base + (w.setWidth 32).signExtend 64).toNat
  let sp := fld w 35 34
  let win := mget 0 (s.cl c.val).win (fld w 33 32)
  (sp = 2 ∧ st = stPrivilege) ∨ (sp < 2 ∧ ad % align ≠ 0 ∧ st = stAlign) ∨
  (sp = 1 ∧ ad % align = 0 ∧ (∃ i, i < n ∧ (s.pt (s.cl c.val).part.toNat).dev (ad + i) = none) ∧ st = stAddrRange) ∨
  (sp = 0 ∧ ad % align = 0 ∧ ¬(win.getLsbD 63 = true ∧ ad + n ≤ 128 * (win.extractLsb' 16 15).toNat) ∧ st = stWindowBound)

/-! ### All instructions and their codes -/

/-- The scalar, control and synchronisation instructions with CLASS x 64 + OP, Tables 8.3, 8.7, 8.8. -/
def plainRows : List (Nat × (Agent → Word → Instr)) :=
  [(0x000, .add), (0x001, .sub), (0x002, .and), (0x003, .or), (0x004, .xor), (0x005, .shl), (0x006, .shr), (0x007, .sar), (0x008, .cmp),
   (0x009, .sel), (0x00A, .muls), (0x00B, .movi), (0x00C, .movhi), (0x010, .ld), (0x011, .st), (0x012, .mve), (0x013, .rdst),
   (0x014, .rdtick), (0x018, .dld), (0x019, .dldm), (0x01A, .dstr), (0x01B, .dset), (0x01C, .dadd), (0x01D, .dget)] ++
  [(0x040, .br), (0x041, .brp), (0x042, .brn), (0x043, .loop), (0x044, .loopi), (0x045, .waite), (0x046, .endSeq), (0x047, .nop),
   (0x080, .fence), (0x081, .bar), (0x082, .phase), (0x083, .waitt), (0x084, .evset)]
/-- The tensor and training instructions, Tables 8.9 to 8.18, with their operands and checks. -/
def tensorRows : List (Nat × (Agent → Word → Instr) × (Agent → Word → State → TForm)) :=
  [(0x100, .tmm, mForm false 0x100), (0x101, .tmmp, mForm true 0x101)] ++
  [(0x140, .vewAdd, vewForm .add 0x140), (0x141, .vewSub, vewForm .sub 0x141), (0x142, .vewMax, vewForm .max 0x142),
   (0x143, .vewMin, vewForm .min 0x143), (0x144, .vewAbs, vewForm .abs 0x144), (0x145, .vewNeg, vewForm .neg 0x145),
   (0x148, .vewMul, vewForm .mul 0x148), (0x149, .vewDiv, vewForm .div 0x149), (0x14A, .vewMuladd, vewForm .muladd 0x14A),
   (0x14B, .vewSqrt, vewForm .sqrt 0x14B), (0x14C, .vewRsqrt, vewForm .rsqrt 0x14C), (0x14D, .vewExp2, vewForm .exp2 0x14D),
   (0x14E, .vewExp, vewForm .exp 0x14E), (0x14F, .vewLog2, vewForm .log2 0x14F), (0x150, .vewLog, vewForm .log 0x150),
   (0x151, .vewPow, vewForm .pow 0x151), (0x152, .vewSigm, vewForm .sigm 0x152), (0x153, .vewSilu, vewForm .silu 0x153)] ++
  [(0x160, .vredSum, vredForm .sum 0x160), (0x161, .vredMax, vredForm .max 0x161), (0x162, .vredMin, vredForm .min 0x162),
   (0x164, .vargMax, vargForm .max 0x164), (0x165, .vargMin, vargForm .min 0x165), (0x168, .vcvt, vcvtForm 0x168)] ++
  [(0x180, .sfill, spadForm false 0x180), (0x181, .scopy, spadForm true 0x181), (0x1C0, .dmov, dmovForm), (0x1C1, .gath, gathForm),
   (0x1C2, .atom, atomForm), (0x200, .kvapp, kvappForm), (0x201, .attn, attnForm), (0x202, .kvstg, kvstgForm),
   (0x240, .cred, collForm .cred 0x240 [(19, 18)]), (0x241, .cbrd, collForm .cbrd 0x241 []), (0x242, .cgat, collForm .cgat 0x242 []),
   (0x2C0, .prune, pruneForm)]
/-- The stream class, and the system class with the fields of its rows (Table 8.19). -/
def streamRows : List (Nat × (Agent → Word → Instr)) := [(0x280, .rngsClaim), (0x281, .rngsRel)]
def systemRows : List (Nat × (Agent → Word → Instr) × List (Nat × Nat)) :=
  [(0xFC0, .winw, [fDst, fA, (1, 0)]), (0xFC1, .tstart, [fA]), (0xFC2, .tpark, [fA]), (0xFC3, .tresume, [fA]), (0xFC4, .mrd, [fDst, fA]),
   (0xFC5, .mwr, [fA, fB])]
/-- Every instruction of chapter 8. -/
def instrRows : List (Nat × (Agent → Word → Instr)) :=
  plainRows ++ tensorRows.map (fun r => (r.1, r.2.1)) ++ streamRows ++ systemRows.map (fun r => (r.1, r.2.1))
/-- Those that only a sequencer executes: tensor, stream and training classes, BAR and PHASE, and the descriptor operations. -/
def sequencerRows : List (Nat × (Agent → Word → Instr)) :=
  tensorRows.map (fun r => (r.1, r.2.1)) ++ streamRows ++ [(0x081, .bar), (0x082, .phase)] ++
    [(0x018, .dld), (0x019, .dldm), (0x01A, .dstr), (0x01B, .dset), (0x01C, .dadd), (0x01D, .dget)]

/-- The scalar, control, synchronisation and stream instructions: code, constructor, the fields that the word may use (Tables 8.2 to
8.8, R147, R150), and values of them that are illegal: a register that its file lacks (Table 7.2, R151), COND 6 or 7 (Table 8.4),
SP 3 and SRCA below DST (R153), BODY 0 (R157). -/
def plainFields : List (Nat × (Agent → Word → Instr) × (Word → List (Nat × Nat)) × (Word → Bool)) :=
  let two : Word → List (Nat × Nat) := fun w => if wImmf w then [fDst, fA, (35, 35), (31, 0)] else [fDst, fA, fB, (35, 35)]
  let wait : (Nat × Nat) → Word → List (Nat × Nat) := fun r w => if wImmf w then [r, (35, 35), (15, 0)] else [r, fB, (35, 35)]
  let ok : Word → Bool := fun _ => false
  let sp3 : Word → Bool := fun w => decide (fld w 35 34 = 3)
  [(0x000, .add, two, ok), (0x001, .sub, two, ok), (0x002, .and, two, ok), (0x003, .or, two, ok), (0x004, .xor, two, ok),
   (0x005, .shl, two, ok), (0x006, .shr, two, ok), (0x007, .sar, two, ok), (0x00A, .muls, two, ok),
   (0x008, .cmp, fun w => two w ++ [(34, 32)], fun w => decide (7 < wDst w) || decide (6 ≤ fld w 34 32)),
   (0x009, .sel, fun _ => [fDst, fA, fB, (34, 32)], ok), (0x00B, .movi, fun _ => [fDst, (35, 0)], ok),
   (0x00C, .movhi, fun _ => [fDst, (27, 0)], ok), (0x012, .mve, fun _ => [fDst, fA], fun w => decide (15 < wA w)),
   (0x013, .rdst, fun _ => [fDst], ok), (0x014, .rdtick, fun _ => [fDst], ok)] ++
  [(0x010, .ld, fun _ => [fDst, fA] ++ fMem, sp3), (0x011, .st, fun _ => [fA, fB] ++ fMem, sp3),
   (0x018, .dld, fun _ => [fDst, fA] ++ fMem, fun w => sp3 w || decide (15 < wDst w)),
   (0x019, .dldm, fun _ => [fDst, fA, fB] ++ fMem, fun w => sp3 w || decide (15 < wDst w) || decide (15 < wA w) || decide (wA w < wDst w)),
   (0x01A, .dstr, fun _ => [fA, fB] ++ fMem, fun w => sp3 w || decide (15 < wB w)),
   (0x01B, .dset, fun _ => [fDst, fA, (35, 32)], fun w => decide (15 < wDst w)),
   (0x01C, .dadd, fun _ => [fDst, fA, (35, 32)], fun w => decide (15 < wDst w)),
   (0x01D, .dget, fun _ => [fDst, fA, (35, 32)], fun w => decide (15 < wA w))] ++
  [(0x040, .br, fun _ => [(31, 0)], ok), (0x041, .brp, fun _ => [(34, 32), (31, 0)], ok), (0x042, .brn, fun _ => [(34, 32), (31, 0)], ok),
   (0x043, .loop, fun _ => [fA, (19, 0)], fun w => decide (fld w 19 0 = 0)),
   (0x044, .loopi, fun _ => [(35, 0)], fun w => decide (fld w 19 0 = 0)),
   (0x045, .waite, wait fA, fun w => decide (15 < wA w)), (0x046, .endSeq, fun _ => [], ok), (0x047, .nop, fun _ => [], ok),
   (0x080, .fence, fun _ => [(6, 0)], ok), (0x081, .bar, fun _ => [], ok), (0x082, .phase, fun _ => [(7, 0)], ok),
   (0x083, .waitt, fun _ => [fDst, fA], fun w => decide (7 < wDst w)), (0x084, .evset, wait fDst, fun w => decide (15 < wDst w)),
   (0x280, .rngsClaim, fun _ => [fDst, fA, fB, (35, 35)], ok), (0x281, .rngsRel, fun _ => [fA], ok)]
/-- The class-specific fields of level E of a tensor instruction: BANK, KEEP, CONT, OX, PASS and SPLIT; VC; WIRE (Tables 8.9 to 8.18). -/
def expertFields (code : Nat) : List (Nat × Nat) :=
  if code = 0x100 ∨ code = 0x101 then [(27, 26), (25, 25), (24, 24), (23, 14), (13, 6), (5, 1)]
  else if code = 0x1C0 then [(30, 27)] else if code = 0x1C1 ∨ code = 0x1C2 then [(28, 25)]
  else if code = 0x240 ∨ code = 0x241 ∨ code = 0x242 then [(13, 11), (10, 7)] else []
/-- A descriptor whose fields of level E are not all zero (Table 7.6): STREAM[31:15] in SPACE 0 and 1, and HINT, BATCH and ROWS in
SPACE 0. -/
def expertDesc (d : BitVec 256) : Prop :=
  let sp := d.extractLsb' 12 2
  (sp.toNat < 2 ∧ d.extractLsb' 79 17 ≠ 0) ∨ (sp = 0 ∧ d.extractLsb' 40 10 ≠ 0)

/-! ### Control -/

/-- A branch with its code, its fields, and when it is taken. -/
def branchRows : List ((Agent → Word → Instr) × Nat × List (Nat × Nat) × (Agent → Word → State → Bool)) :=
  [(.br, 0x040, [(31, 0)], fun _ _ _ => true), (.brp, 0x041, [(34, 32), (31, 0)], fun a w s => s.regP a (fld w 34 32)),
   (.brn, 0x042, [(34, 32), (31, 0)], fun a w s => !s.regP a (fld w 34 32))]
/-- A loop instruction with its code, fields and count. -/
def loopRows : List ((Agent → Word → Instr) × Nat × List (Nat × Nat) × (Agent → Word → State → Nat)) :=
  [(.loop, 0x043, [fA, (19, 0)], fun a w s => (s.regS a (wA w)).toNat % 2 ^ 32), (.loopi, 0x044, [(35, 0)], fun _ w _ => fld w 35 20)]
/-- The instruction index lies in the loaded program; a control core has no loaded program. -/
def inProgram (a : Agent) (s : State) (t : Int) : Bool :=
  match a with | .seq c => decide (0 ≤ t ∧ t < ((s.cl c.val).seq.prog.length : Int)) | .core _ => true
/-- The index lies in the body of a loop. -/
abbrev LoopFrame.holds (f : LoopFrame) (pc : Nat) : Prop := f.first ≤ pc ∧ pc ≤ f.last
/-- Value of WAITE and EVSET, and the fields that its form uses (R150). -/
def waitVal (a : Agent) (w : Word) (s : State) : BitVec 16 := if wImmf w then w.setWidth 16 else (s.regS a (wB w)).setWidth 16
def waitFlds (w : Word) (r : Nat × Nat) : List (Nat × Nat) := if wImmf w then [r, (35, 35), (15, 0)] else [r, fB, (35, 35)]
/-- Every instruction that was issued to a unit in the mask before number b has completed (R140, R159). -/
def unitsDone (x : Cluster) (mask : BitVec 7) (b : Nat) : Prop :=
  ∀ u, u < 7 → (mask = 0 ∨ mask.getLsbD u = true) → ∀ j ∈ x.unit u, b ≤ j.id

/-! ### Tensor instructions -/

/-- A tensor row's word is next on the sequencer of cluster c, and every check of R491 passes; `f` is what it names. -/
abbrev Passes (r : Nat × (Agent → Word → Instr) × (Agent → Word → State → TForm)) (c : Fin 768) (w : Word) (s : State) : Prop :=
  s.ready (.seq c) w = true ∧ classOp w = r.1 ∧
    firstFault (tensorChecks s c.val w (r.2.2 (.seq c) w s).os (r.2.2 (.seq c) w s).chk) = none
/-- It has nothing to do: an empty operand (R134) or a length of 0 (R167). -/
def TForm.empty (f : TForm) : Bool := f.chk.nop || f.os.any fun o => o.t.empty
/-- The job as issue makes it, before what its operation decides at issue. -/
def TForm.job (f : TForm) (c : Nat) (w : Word) (s : State) : Job :=
  { mkJob f.op w (f.os.map (·.d)) f.sc with ref := s.refMode c, dead := f.empty }
/-- Nothing holds it at issue, its queue has room, and `j1` is the job that it becomes. -/
abbrev Issuable (r : Nat × (Agent → Word → Instr) × (Agent → Word → State → TForm)) (c : Fin 768) (w : Word) (s : State) (j1 : Job) : Prop :=
  let f := r.2.2 (.seq c) w s
  let q := (s.cl c.val).unit f.op.unit
  f.chk.hold = false ∧ q.length < 16 ∧
    if f.empty then q ≠ [] ∧ j1 = f.job c.val w s else (f.act c.val (f.job c.val w s) s).2 = .ok j1
/-- A matrix instruction all of whose tiles are kept in banks, or have drained or lie in the output buffers. -/
def TilesDone (x : Cluster) (j : Job) : Prop :=
  j.dead = true ∨ (if mKeep j.word = true then ∀ k, k < 16 → mget 0 j.coreDone k = tilesOn j.tiles k
    else j.drained + ((List.range 16).filter fun k => (x.mcore k).buf.any fun b => decide (b.job = j.id)).length = j.tiles)
/-- What a matrix instruction's issue may touch besides its queue: the range table in memory. -/
def issueComps (code : Nat) : List Comp :=
  if code = 0x100 ∨ code = 0x101 then [.cfg, .log, .mem, .parts, .clusters, .tasks, .freeTick] else [.parts, .clusters, .tasks]

/-- The sequencer goes on, and the job has the last place in its unit's queue with all that the word names. -/
def Issued (r : Nat × (Agent → Word → Instr) × (Agent → Word → State → TForm)) (c : Fin 768) (w : Word) (s : State) (j1 : Job) (t : State) : Prop :=
  let f := r.2.2 (.seq c) w s
  j1.op = f.op ∧ j1.word = w ∧ j1.descs = f.os.map (·.d) ∧
    (∀ u, (t.cl c.val).unit u = (s.cl c.val).unit u ++
      if u = f.op.unit then [{ j1 with id := (s.cl c.val).nextJob, pc := (s.cl c.val).seq.pc }] else []) ∧
    (t.cl c.val).nextJob = (s.cl c.val).nextJob + 1 ∧ (t.cl c.val).spad = (s.cl c.val).spad ∧ (t.cl c.val).win = (s.cl c.val).win ∧
    (∀ d, d ≠ c.val → t.cl d = s.cl d) ∧ Only (issueComps r.1) s t ∧ RegsKept (.seq c) [] [] [] [] s t ∧ GoesOn (.seq c) s t

/-! ### What the units compute -/

/-- The oldest instruction of unit u of cluster c can complete: nothing writes what it reads, and the scratchpad holds no error. -/
def Oldest (c : Fin 768) (u : Nat) (s : State) (j : Job) (rest : List Job) : Prop :=
  s.live = true ∧ (s.cl c.val).cstate = .run ∧ (s.cl c.val).unit u = j :: rest ∧ j.dead = false ∧ j.fault = 0 ∧ j.awaited = 0 ∧
  j.started = false ∧ j.phase = 0 ∧ j.waiting = false ∧ j.taints (s.cl c.val) = [] ∧ (s.cl c.val).spadFlaw = [] ∧ (s.cl c.val).spadPoison = []
/-- Stacked memory holds no error, nothing of it is under keys, and every group accepts requests. -/
def MemSound (s : State) : Prop := s.mem.flaw = [] ∧ s.mem.poison = [] ∧ s.mem.cipher = [] ∧ ∀ g, s.groupOn g = true
/-- Place of byte b of element i of a plain tensor of SPACE 0 or 1 (R71, R116). -/
def eltCell (s : State) (c : Nat) (t : Ten) (i b : Nat) : Option Cell :=
  let a := (t.elemAt i).toNat * eltBytes t.fmt + b
  if t.space = 0 then some (.spad c (128 * winBase (mget 0 (s.cl c).win t.win) + a)) else ((s.pt (s.cl c).part.toNat).dev a).map .dram
/-- The bits of element i. -/
def eltVal (s : State) (c : Nat) (t : Ten) (i : Nat) : Nat :=
  leNat ((List.range (eltBytes t.fmt)).map fun b => match eltCell s c t i b with | some x => s.cell x | none => 0)
/-- A tensor of format f (I32, BF16, FP32), not coded, in scratchpad or in partition memory. -/
def PlainTen (f : Nat) (t : Ten) : Prop :=
  t.fmt = f ∧ (f = 0x20 ∨ f = 0x30 ∨ f = 0x31) ∧ t.xc = false ∧ (t.space = 0 ∨ (t.space = 1 ∧ t.host = false)) ∧ ∀ i, i < t.count → 0 ≤ t.elemAt i
/-- Every byte of a tensor is present, and none is two elements'. -/
def OneEach (s : State) (c : Nat) (t : Ten) : Prop :=
  ∀ i b, i < t.count → b < eltBytes t.fmt → (eltCell s c t i b).isSome = true ∧
    ∀ k d, k < t.count → d < eltBytes t.fmt → eltCell s c t i b = eltCell s c t k d → i = k ∧ b = d
/-- Two tensors share no byte. -/
def Apart (s : State) (c : Nat) (a b : Ten) : Prop :=
  ∀ i x k y, i < a.count → x < eltBytes a.fmt → k < b.count → y < eltBytes b.fmt → eltCell s c a i x ≠ eltCell s c b k y
/-- A destination and a source share no byte, or are the same tensor (R96). -/
def NoOverlap (s : State) (c : Nat) (d a : Ten) : Prop := Apart s c d a ∨ d = a
/-- Only elements of these tensors have changed. -/
def OnlyElts (s : State) (c : Nat) (ds : List Ten) (t : State) : Prop :=
  ∀ x : Cell, (∀ d ∈ ds, ∀ i b, i < d.count → b < eltBytes d.fmt → eltCell s c d i b ≠ some x) → t.cell x = s.cell x

/-- I32 bits as an integer, and the range of I32 (R100). -/
def i32 (b : Nat) : Int := (BitVec.ofNat 32 b).toInt
def satI32 (v : Int) : Int := min (2 ^ 31 - 1) (max (-2 ^ 31) v)
def intOp : VewOp → Int → Int → Option Int
  | .add, x, y => some (x + y) | .sub, x, y => some (x - y) | .max, x, y => some (max x y) | .min, x, y => some (min x y)
  | .abs, x, _ => some (x.natAbs : Int) | .neg, x, _ => some (-x) | _, _, _ => none
/-- FP32 bits of a normal number, of a normal number or zero, and of a power of two. -/
def expOf (b : Nat) : Nat := b / 2 ^ 23 % 256
def Normal (b : Nat) : Prop := b < 2 ^ 32 ∧ 1 ≤ expOf b ∧ expOf b ≤ 254
def FiniteF32 (b : Nat) : Prop := Normal b ∨ b = 0 ∨ b = 2 ^ 31
def Pow2 (b : Nat) : Prop := Normal b ∧ b % 2 ^ 23 = 0
/-- Their value in units of 2^-149, and their order (R69: +0 above -0). -/
def f32Val (b : Nat) : Int :=
  (if b < 2 ^ 31 then 1 else -1) * if expOf b = 0 then 0 else ((2 ^ 23 + b % 2 ^ 23 : Nat) : Int) * 2 ^ (expOf b - 1)
def f32Key (b : Nat) : Int := if b < 2 ^ 31 then (b : Int) else 2 ^ 31 - 1 - (b : Int)
/-- A power of two 2^k as FP32. -/
def pow2Bits (k : Int) : Nat := (k + 127).toNat * 2 ^ 23
/-- r is the FP32 number nearest to a value among those whose low k bits are zero, ties to even (R59, R101). -/
def Nearest (k : Nat) (v : Int) (r : Nat) : Prop :=
  Normal r ∧ r % 2 ^ k = 0 ∧ ∀ q, Normal q → q % 2 ^ k = 0 → (f32Val r - v).natAbs < (f32Val q - v).natAbs ∨
    ((f32Val r - v).natAbs = (f32Val q - v).natAbs ∧ (q = r ∨ r / 2 ^ k % 2 = 0))
/-- A value that neither flushes nor overflows there. -/
def InRange (k : Nat) (v : Int) : Prop := 2 ^ 23 ≤ v.natAbs ∧ (v.natAbs : Int) ≤ f32Val (0x7F7FFFFF / 2 ^ k * 2 ^ k)
/-- a times 2^k with a sign, and when its exponent holds it. -/
def scaledBits (a : Nat) (neg : Bool) (k : Int) : Nat := (if neg then 2 ^ 31 else 0) + (((expOf a : Int) + k).toNat * 2 ^ 23 + a % 2 ^ 23)
def Scales (a : Nat) (k : Int) : Prop := 1 ≤ (expOf a : Int) + k ∧ (expOf a : Int) + k ≤ 254
/-- What an FP32 operation gives for operands that are normal numbers or zeros: sums to nearest, the order of R69, exact scaling by a
power of two (R99), and exact points of the log path (R98). -/
def FloatResult (o : VewOp) (a b c r : Nat) : Prop :=
  let sum := fun x y : Nat => fun v : Int => (InRange 0 v → Nearest 0 v r) ∧ (v = 0 → r = if 2 ^ 31 ≤ x ∧ 2 ^ 31 ≤ y then 2 ^ 31 else 0)
  let differ := decide (a < 2 ^ 31) != decide (b < 2 ^ 31)
  let eb : Int := (expOf b : Int) - 127
  let ea : Int := (expOf a : Int) - 127
  match o with
  | .add => sum a b (f32Val a + f32Val b)
  | .sub => sum a (if b < 2 ^ 31 then b + 2 ^ 31 else b - 2 ^ 31) (f32Val a - f32Val b)
  | .max => r = if f32Key b ≤ f32Key a then a else b
  | .min => r = if f32Key a ≤ f32Key b then a else b
  | .abs => r = a % 2 ^ 31
  | .neg => r = (a + 2 ^ 31) % 2 ^ 32
  | .mul => Normal a → Pow2 b → Scales a eb → r = scaledBits a differ eb
  | .div => Normal a → Pow2 b → Scales a (-eb) → r = scaledBits a differ (-eb)
  | .muladd => Normal a → Pow2 b → Scales a eb → InRange 0 (f32Val (scaledBits a differ eb) + f32Val c) →
      Nearest 0 (f32Val (scaledBits a differ eb) + f32Val c) r
  | .sqrt => Pow2 a → a < 2 ^ 31 → ∀ k, ea = 2 * k → r = pow2Bits k
  | .rsqrt => Pow2 a → a < 2 ^ 31 → ∀ k, ea = 2 * k → r = pow2Bits (-k)
  | .exp2 => ∀ k : Int, f32Val a = k * 2 ^ 149 → -126 ≤ k → k ≤ 127 → r = pow2Bits k
  | .exp => f32Val a = 0 → r = pow2Bits 0
  | .log2 => Pow2 a → a < 2 ^ 31 → FiniteF32 r ∧ f32Val r = ea * 2 ^ 149
  | .log => a = pow2Bits 0 → r = 0
  | .pow => (f32Val b = 0 → r = pow2Bits 0) ∧
      (∀ m : Int, Pow2 a → f32Val b = m * 2 ^ 149 → -126 ≤ ea * m → ea * m ≤ 127 → r = pow2Bits (ea * m))
  | .sigm => f32Val a = 0 → r = pow2Bits (-1)
  | .silu => f32Val a = 0 → r = a
/-- Element k wins a maximum or minimum among n: the lower index on equal values (R69). -/
def Wins (mx : Bool) (x : Nat → Nat) (n k : Nat) : Prop :=
  k < n ∧ ∀ i, i < n → i ≠ k → let a := f32Key (x i)
    let b := f32Key (x k)
    (if mx then a < b else b < a) ∨ (a = b ∧ k < i)
/-- A mask keeps a position of an 8 x 8 block: its weight is not zero, and fewer than four of those kept before it lie in its row, and
in its column (R253). -/
def KeepsTop (mag : Nat → Nat) (m q : Nat) : Prop :=
  let before := fun p : Nat => m.testBit p && decide (mag q < mag p ∨ (mag p = mag q ∧ p < q))
  mag q ≠ 0 ∧ ((List.range 64).countP fun p => before p && decide (p / 8 = q / 8)) < 4 ∧
    ((List.range 64).countP fun p => before p && decide (p % 8 = q % 8)) < 4
/-- Magnitude of a BF16 weight that is no NaN: a subnormal counts as zero. -/
def bfMag (b : Nat) : Nat := if b % 2 ^ 15 < 128 then 0 else b % 2 ^ 15

/-- Byte a of a window of cluster c. -/
def winByte (s : State) (c win a : Nat) : Byte := s.cell (.spad c (128 * winBase (mget 0 (s.cl c).win win) + a))
/-- Trit i of a T5 byte (R20). -/
def tritOf (b : Byte) (i : Nat) : Int := (if b.toNat ≤ 0x79 then (b.toNat : Int) + 121 else (b.toNat : Int) - 122) / 3 ^ i % 3 - 1
/-- Mantissa at position p of a dense block-scaled tensor in scratchpad, and the exponent of its block (Table 4.2, R71). -/
def mantAt (s : State) (c : Nat) (t : Ten) (p : Nat) : Int :=
  let w := blkW t.fmt
  let a := p / 4096 * (512 * w + 128) + p % 4096 * w / 8
  let v := leNat [winByte s c t.win a, winByte s c t.win (a + 1)] / 2 ^ (p % 4096 * w % 8) % 2 ^ w
  if v < 2 ^ (w - 1) then (v : Int) else (v : Int) - 2 ^ w
def blkExp (s : State) (c : Nat) (t : Ten) (p : Nat) : Int :=
  let w := blkW t.fmt
  ((winByte s c t.win (p / 4096 * (512 * w + 128) + 512 * w + p % 4096 / 32)).toNat : Int)
/-- v / 2^d to nearest, ties to even (R59). -/
def halfEven (v : Int) (d : Nat) : Int :=
  let q := v / 2 ^ d
  let r := v % 2 ^ d
  if 2 ^ d < 2 * r ∨ (2 * r = 2 ^ d ∧ q % 2 = 1) then q + 1 else q
/-- A window of n elements: its exponent is the largest of a block with a nonzero mantissa; mantissas come to it (R24). -/
def WinExp (n : Nat) (m e : Nat → Int) (x : Int) : Prop :=
  (∃ k, k < n ∧ m k ≠ 0 ∧ e k = x) ∧ ∀ k, k < n → m k ≠ 0 → e k ≤ x
/-- A mantissa at the window's exponent; that of a block of zeros is zero. -/
def aligned (m e : Nat → Int) (x : Int) (k : Nat) : Int := halfEven (m k) (x - e k).toNat
/-- Sum of a product over n elements. -/
def sumProd (n : Nat) (a b : Nat → Int) : Int := ((List.range n).map fun k => a k * b k).foldl (· + ·) 0
/-- What a window adds at a format (R25, R31, R43): nothing where a side is zero, else its row sum, of A16 in two passes. -/
def WinAdds (f n : Nat) (w m e : Nat → Int) (wx : Int) (cs : List (Int × Int)) : Prop :=
  (((∀ k, k < n → m k = 0) ∨ ∀ k, k < n → w k = 0) → cs = []) ∧
  ∀ x, WinExp n m e x → (∃ k, k < n ∧ w k ≠ 0) →
    cs = if f = 3 then [(sumProd n w fun k => aligned m e x k / 256, x + wx + 8), (sumProd n w fun k => aligned m e x k % 256, x + wx)]
      else [(sumProd n w (aligned m e x), x + wx)]
/-- A signed-digit form in n digits of which no two neighbours are both nonzero (R36). -/
def NafOf (n : Nat) (x : Int) (ds : List Int) : Prop :=
  ds.length = n ∧ (∀ d ∈ ds, d = -1 ∨ d = 0 ∨ d = 1) ∧ ((List.range n).map fun i => nth 0 ds i * 2 ^ i).foldl (· + ·) 0 = x ∧
  ∀ i, nth 0 ds i = 0 ∨ nth 0 ds (i + 1) = 0
/-- Core k of cluster c is about to end a run of the next tile of an instruction, which fills bank b. -/
def NextTile (c : Fin 768) (k : Fin 16) (s : State) (j : Job) (b : Nat) : Prop :=
  s.issueHeld c.val = false ∧
  ((s.cl c.val).unit 0).find? (fun j => decide (mget 0 j.coreDone k.val < tilesOn j.tiles k.val)) = some j ∧ j.waiting = false ∧
  ((s.cl c.val).unit 0).Pairwise (fun x y => x.id ≠ y.id) ∧
  pickBank ((s.cl c.val).mcore k.val) (mBank j.word) (mCont j.word) = some b ∧
  ((((s.cl c.val).mcore k.val).bank b).st = .free ∨ (mCont j.word = true ∧ (((s.cl c.val).mcore k.val).bank b).held = true))
/-- The entry that contributions of a format leave, in order; without one it is not valid and zero. -/
def entryOf (f : Nat) (cs : List (Int × Int)) : AccEntry :=
  if cs = [] then { q := 0, tag := mkTag false false f false 0 } else cs.foldl (fun e x => (accAdd e x.1 x.2 f).1) AccEntry.empty

/-! ### Registers -/

/-- Settings of the device: offset in the management window, bytes, bits that are stored, and the component that holds them. -/
def settingRegs : List (Nat × Nat × Nat × Comp) :=
  [(0x20028, 4, 0xFFFF, .pwr), (0x20038, 4, 0xFFFF, .pwr), (0x40008, 8, 2 ^ 37 - 1, .cfg), (0x50028, 4, 0xFFF, .grd), (0x50030, 4, 0xFFFF, .grd),
   (0x60018, 8, 0xFFFFFF1FFFFFFFFF, .fw), (0x60020, 4, 0xFFFF, .fw), (0x70010, 4, 2 ^ 32 - 1, .log), (0x70110, 8, 2 ^ 64 - 1, .log),
   (0x80018, 4, 2 ^ 32 - 1, .hif), (0x80020, 8, 7 * 2 ^ 34, .hif), (0x100030, 4, 0xFFF, .mem), (0x200020, 4, 0xFFFF, .lnk)]
/-- Settings of a partition page: offset in the page, bytes, bits that are stored (R338). -/
def pageRegs : List (Nat × Nat × Nat) :=
  [(0x140, 4, 0xFFFF), (0x1C0, 4, 0xE01F0000), (0x1C8, 8, 0xFFFF00FFFFFFFF00), (0x300, 4, 0xC0000000), (0x308, 8, 2 ^ 64 - 1),
   (0x310, 8, 2 ^ 64 - 2 ^ 16), (0x318, 4, 2 ^ 32 - 1), (0x340, 8, 0xFFFF00FFFFFFFFC0)]
/-- Registers of the device that no write changes. -/
def readOnlyRegs : List Nat :=
  [0x0, 0x8, 0x100, 0x118, 0x120, 0x10000, 0x20018, 0x20040, 0x20048, 0x30100, 0x304F8, 0x40000, 0x50000, 0x50008, 0x50018, 0x50020, 0x60000,
   0x60008, 0x60028, 0x70000, 0x70008, 0x70018, 0x70100, 0x70108, 0x70148] ++
  [0x80000, 0x100000, 0x100008, 0x100010, 0x100018, 0x100020, 0x100028, 0x100038, 0x200000, 0x200018, 0x201000, 0x201018, 0x201020, 0x300000,
   0x300008, 0x400000, 0x400180, 0x4001D0, 0x400320, 0x400328, 0x400330, 0x400348, 0x400350, 0x400388, 0x4003C8, 0x1000100, 0x1000108,
   0x1000110, 0x1000220, 0x10002A0, 0x10002A8]
/-- A window of the device answers and Nightwatch serves it. -/
abbrev InService (s : State) : Prop := s.pwr.rails = true ∧ s.pwr.boot = .ready ∧ s.glb.fatalSet = false
/-- The reply register of the model holds this answer and nothing else has changed since s1. -/
def Answers (s1 : State) (bs : List Byte) (t : State) : Prop := t = s1.setHif { s1.hif with cpl := .data bs [] }

/-! ### Entries and records -/

/-- Place of the completion record of an entry in host memory (R371). -/
def recordAt (s : State) (e : EntryId) : Nat :=
  let r := (s.pt e.part.val).ring e.ring.val
  r.cpl.toNat + 32 * (e.seq.toNat % 2 ^ r.log2)
/-- Little-endian value of n bytes of host memory. -/
def hostVal (s : State) (a n : Nat) : Nat := leNat (rdBytes s.mem.hostMem a n)
/-- The entries of a ring without one. -/
def restOf (s : State) (e : EntryId) : List Entry := ((s.pt e.part.val).ring e.ring.val).entries.filter fun x => decide (x.seq ≠ e.seq)
/-- An entry has left its ring, or is done while its record is held. -/
def Finished (s : State) (e : EntryId) : Prop :=
  ∀ x ∈ ((s.pt e.part.val).ring e.ring.val).entries, x.seq = e.seq → x.st = .done
/-- What a cluster whose task has ended holds no longer. -/
def Cleared (x : Cluster) : Prop :=
  x.task = none ∧ x.units = [] ∧ x.seq = Seq.reset ∧ x.coll = CollEng.reset ∧
    ∀ kv ∈ x.cores, kv.2.bank0 = Bank.reset ∧ kv.2.bank1 = Bank.reset ∧ kv.2.buf = none
/-- The header of a ring in host memory. -/
def ringTail (s : State) (r : Ring) : BitVec 32 := BitVec.ofNat 32 (hostVal s r.base.toNat 4)
def ringHead (s : State) (r : Ring) : BitVec 32 := BitVec.ofNat 32 (hostVal s (r.base.toNat + 4) 4)
/-- The slot of a sequence number. -/
def ringSlot (s : State) (r : Ring) (q : BitVec 32) : List Byte := s.hostRd (r.base.toNat + (64 + 64 * (q.toNat % 2 ^ r.log2))) 64

/-! ### The guard -/

/-- A record has ended with a status and nothing of it has been applied. -/
def EndsGuard (s : State) (st : BitVec 16) (t : State) : Prop :=
  Only [.grd, .log, .mem, .freeTick] s t ∧ t.grd.busy = false ∧ t.grd.result = st ∧ t.grd.job = none ∧ t.grd.cur = s.grd.cur
/-- The copy of the guard state that is in force, and the other. -/
def activeCopy (f : Flash) : GuardState := if f.guardCur then f.guard1 else f.guard0
def inactiveCopy (f : Flash) : GuardState := if f.guardCur then f.guard0 else f.guard1
/-- The signatures of a record hold (R344). -/
def Signed (s : State) (bs : List Byte) : Prop :=
  let d := Config.sha512 (bs.take (bs.length - 264))
  Config.sigVerify s.grd.cur.keyOp d ((bs.drop (bs.length - 264)).take 132) = true ∧
    Config.sigVerify s.grd.cur.keyCu d (bs.drop (bs.length - 132)) = true

/-- The row that brings a host command for Nightwatch; `enrolN` is the ENROL strap at a SUBMIT. -/
def NwCmd.row (enrolN : Bool) : NwCmd → Instr
  | .detach x => .detach x | .attach x => .attach x | .ring p n en => if en then .ringEnable p n else .ringDisable p n
  | .vfFlr k => .vfFlr k | .pfFlr => .pfFlr | .release p => .release p | .lnkMode v => .litLanesChange v | .chip c => .chipAssign c
  | .adopt m => .adopt m | .retrain n => .retrain n | .submit len => .submit len enrolN | .attest p => .attest p | .cfgWrite => .configWrite

/-! ### Power -/

/-- A power command is taken now: Nightwatch works and nothing is under way. -/
abbrev Takes (s : State) : Prop :=
  s.served = true ∧ s.switching = false ∧ s.pwr.busy = false ∧ s.pwr.quiescing = false ∧ s.pwr.removing = false ∧ s.pwr.trans = [] ∧ s.groupsMoving = false
/-- What one unit makes of a command: it refuses, it is in the state already, or it moves. -/
inductive Verdict where
  | refuses (st : BitVec 16) | stays | moves
  deriving DecidableEq, Repr
/-- The outcome of a command over units in ascending number (R402). -/
def Outcome (us : List Nat) (v : Nat → Verdict) (t : State) : Prop :=
  let errs := us.filterMap fun u => match v u with | .refuses st => some st | _ => none
  t.pwr.busy = us.any (fun u => decide (v u = .moves)) ∧
    (if t.pwr.busy then t.pwr.refused.map (·.2) = errs
     else t.pwr.result = (match errs with | st :: _ => st | [] => 0) ∧ t.pwr.failed.toNat = min errs.length 1023)
/-- A cluster and a command of Table 18.1 (R404, R408, R441). -/
def clusterVerdict (s : State) (goal : ClState) (c : Nat) : Verdict :=
  let x := s.cl c
  if c ∈ s.glb.badClusters then .refuses stStateOrder
  else if x.cstate = goal then .stays
  else if ¬(goal = .off ∨ (x.cstate, goal) ∈ [(ClState.run, ClState.gated), (.gated, .run), (.run, .retain), (.retain, .run), (.off, .run)]) then .refuses stStateOrder
  else if x.cstate = .run ∧ s.clusterRuns c = true then .refuses stClusterBusy
  else if goal = .off ∧ x.covers 0 24576 = true then .refuses stClusterBusy
  else .moves
/-- Segment g of cluster c as unit 4 c + g (R121, R122). -/
def segmentVerdict (s : State) (on : Bool) (u : Nat) : Verdict :=
  let x := s.cl (u / 4)
  if u / 4 ∈ s.glb.badClusters ∨ (u / 4, u % 4) ∈ s.glb.badSegs then .refuses stStateOrder
  else if x.segOn.getLsbD (u % 4) = on then .stays
  else if on = false ∧ x.covers (6144 * (u % 4)) (6144 * (u % 4 + 1)) = true then .refuses stSegInUse
  else .moves
/-- A vault group (R404, R412). -/
def groupVerdict (s : State) (goal : GroupSt) (g : Nat) : Verdict :=
  if g ∈ s.glb.badGroups then .refuses stStateOrder
  else if (s.grp g).st = goal then .stays
  else if goal = .selfRefresh ∧ (s.grp g).st = .off then .refuses stStateOrder
  else if goal = .off ∧ s.groupMapped g = true then .refuses stGroupMapped
  else .moves
def clusterRows : List ((BitVec 10 → BitVec 11 → Instr) × ClState) :=
  [(.clusterRun, .run), (.clusterGate, .gated), (.clusterRetain, .retain), (.clusterOff, .off)]
def groupRows : List ((BitVec 10 → BitVec 11 → Instr) × GroupSt) :=
  [(.vaultGroupActive, .active), (.vaultGroupSelfRefresh, .selfRefresh), (.vaultGroupOff, .off)]
/-- Units of a command: COUNT 0 acts as 1. -/
def unitRange (first : BitVec 10) (count : BitVec 11) : List Nat :=
  (List.range (if count = 0 then 1 else count.toNat)).map (first.toNat + ·)
/-- The rows that write PWR_CMD, at every operand. -/
def powerRows (first : BitVec 10) (count : BitVec 11) (mask gear : BitVec 4) : List Instr :=
  [.deviceQuiesce, .deviceOn, .deviceLow, .deviceOff, .clusterRun first count, .clusterGate first count, .clusterRetain first count,
   .clusterOff first count, .segmentOn first count mask, .segmentOff first count mask, .vaultGroupActive first count,
   .vaultGroupSelfRefresh first count, .vaultGroupOff first count, .gearChange gear]
/-- A device row, with the device states from which Table 18.1 lists the transition, and the one in which it is held. -/
def deviceRows : List (Instr × List (BitVec 2) × Option (BitVec 2)) :=
  [(.deviceQuiesce, [0], some 1), (.deviceOn, [1, 2], some 0), (.deviceLow, [1], some 2), (.deviceOff, [1, 2], none)]
/-- A sensor reaches the entry temperature of a stage (Table 18.2): compute and scratchpad sensors, DRAM sensors. -/
def reaches (s : State) (k : Nat) : Prop :=
  ∃ n, n < 256 ∧ 16 * (if 224 ≤ n then nth 0 [0, 94, 95, 97] k else nth 0 [0, 95, 100, 105] k : Int) ≤ (mget 0 s.pwr.sensors n).toInt

/-! ### Stacked memory -/

/-- A device address from its vault, bank, row, column, die slice and byte (Table 9.2). -/
def placeAddr (vault bank row col die byte : Nat) : Nat :=
  (vault / 8) * 2 ^ 31 + row * 2 ^ 19 + (bank ^^^ row % 16) * 2 ^ 15 + (vault % 8) * 2 ^ 12 + col * 2 ^ 8 + die * 2 ^ 5 + byte
/-- The model's reply register of a memory request. -/
def AnswersMem (t : State) (st : BitVec 16) (data : List Byte) (poison : List Nat) : Prop := t.mem.ans = { status := st, data := data, poison := poison }
/-- Sector d of burst b lies in a read of n bytes from a that stays in the burst. -/
def ReadsSector (a n b d : Nat) : Prop := 256 * b ≤ a ∧ a + n ≤ 256 * b + 256 ∧ 0 < n ∧ a < 256 * b + 32 * d + 32 ∧ 256 * b + 32 * d < a + n

/-! ### Images, log and trace -/

/-- A trace record of a point with its DATA0 has been written at TRC_WPTR (Table 17.3, R390). -/
def Traced (s t : State) (pt : Nat) (d0 : Word) : Prop :=
  let a := s.log.trcBase.toNat + 32 * (s.log.wptr.toNat % 524288)
  let val := fun (u : State) (o n : Nat) => leNat ((List.range n).map fun i => u.cell (.dram (a + o + i)))
  t.log.wptr = s.log.wptr + 1 ∧ t.log.full = (s.log.full || (s.log.stopFull && decide (524288 ≤ (s.log.wptr + 1 - s.log.rptr).toNat))) ∧
  (s.devOn a 32 = true → val t 0 4 = s.clk.merTick.toNat % 2 ^ 32 ∧ val t 4 1 = pt ∧ val t 6 1 = 0xFF ∧
    val t 8 8 = d0.toNat) ∧ ∀ x, x < a ∨ a + 32 ≤ x → t.cell (.dram x) = s.cell (.dram x)
/-- Recording goes on: no firmware switch, and room under STOP_FULL. -/
abbrev Recording (s : State) : Prop := s.switching = false ∧ ¬(s.log.stopFull = true ∧ 524288 ≤ (s.log.wptr - s.log.rptr).toNat)

/-! ### Links -/

/-- A port in the states named. -/
abbrev PortIn (s : State) (n : Nat) (sts : List PortSt) : Prop := s.live = true ∧ (s.po n).st ∈ sts
/-- The link of a port is gone: nothing waits on it. -/
def LinkGone (t : State) (n : Nat) (st : PortSt) : Prop := (t.po n).st = st ∧ (t.po n).lanes = 0 ∧ (t.po n).replay = [] ∧ (t.po n).txq = []
/-- Lanes begin to train on a link that starts anew. -/
def Trains (t : State) (n : Nat) : Prop := LinkGone t n .training ∧ (t.po n).txSeq = 0 ∧ (t.po n).rxSeq = 0 ∧ (t.po n).identCount = 0
/-- The identity found on a port differs from the expected one (R301, R302). -/
def Differs (s : State) (n : Nat) (i : Ident) : Prop :=
  i.chip ≠ (s.po n).expectChip ∨ i.port ≠ (s.po n).expectPort ∨ (n < 7 ∧ i.slot.toNat ≠ (s.pwr.slotId.toNat + n + 1) % 8)
/-- The identity that a port sends (Table 13.13). -/
def ownIdent (s : State) (n : Nat) : Ident :=
  { chip := s.lnk.chip, port := BitVec.ofNat 6 n, slot := s.pwr.slotId, lpl := s.fw.lpl, lanes := (s.po n).lit.setWidth 7 }
/-- 32 times the offset of R312. -/
def offset32 (b : BeaconMsg) (b2 : Int) : Int :=
  let f : Nat → Int := fun x => if b.fmt = 2 then (x : Int) else 0
  2 * (16 * (b.tx.toNat : Int) + f b.fracTx.toNat) + (16 * (b2 - (b.echo.toNat : Int)) - (16 * (b.hold.toNat : Int) + f b.fracHold.toNat)) - 32 * b2
/-- Fields of bytes 0 to 7 of a flit (Table 13.5), and its CRC-32C over bytes 0 to 247 (R292). -/
def flitKind (f : RawFlit) : BitVec 4 := f.head.extractLsb' 12 4
def flitSeq (f : RawFlit) : BitVec 12 := f.head.extractLsb' 0 12
def flitAck (f : RawFlit) : BitVec 12 := f.head.extractLsb' 16 12
def flitNak (f : RawFlit) : Bool := f.head.getLsbD 28
def GoodCrc (f : RawFlit) : Prop := f.crc = crc32c (leBytes 8 f.head.toNat ++ leBytes 240 f.slots.toNat)
/-- What was corrected in a flit is counted: symbols, or the one burst of a board port in low-latency mode (R289, R457, R462). -/
def counted (s : State) (n : Nat) (f : RawFlit) : State :=
  let k := if n < 7 ∧ s.lnk.boardRobust = false then 1 else f.fixed
  if f.fixed = 0 then s else (s.modPo n fun p => { p with fec := satAdd p.fec k }).fixNote 5 n k 0
/-- The flits that left last are not none, and each acknowledges what has come in order, as NAK or not. -/
def Replies (q : Port) (nak : Bool) (rx : BitVec 12) : Prop := q.sent ≠ [] ∧ ∀ x ∈ q.sent, x.hdr.nak = nak ∧ x.hdr.ack = rx - 1
/-- A port has its commanded lanes: dark ones are off, lit ones have trained and what went off is acknowledged (R283). -/
def AtLanes (q : Port) : Prop :=
  if q.lit = 0 then q.st ∈ [PortSt.dark, .down]
  else q.st = .down ∨ (q.st = .dark ∧ q.darkNote = true) ∨ (q.st ≠ .dark ∧ q.lanes ≠ 0 ∧ q.rising = false ∧ q.fading = none)
/-- No firmware switch makes the host's commands wait. -/
abbrev Unheld (s : State) : Prop := ¬(s.served = true ∧ s.switching = true)
/-- L of a lit code; 0 is the mode's own (Table 13.2, R282). -/
def litLanes (code : BitVec 2) (own : Nat) : Nat := if code = 1 then 8 else if code = 2 then 16 else if code = 3 then 32 else own
/-- Port identifier i of a route entry (Table 13.11). -/
def routePort (m : Map (BitVec 32)) (dst i : Nat) : Nat := bitsOf (mget 0x3FFFFFC0 m dst).toNat (6 * i + 11) (6 * i + 6)

/-! ### Packets and messages from other chips -/

/-- Rows that bring one packet, with the packet type of Table 13.9. -/
def packetRows : List (BitVec 8 × (Fin 39 → Packet → Instr)) :=
  [(0x01, .read), (0x02, .write), (0x03, .atomic), (0x04, .gather), (0x10, .readResp), (0x11, .ack), (0x12, .gatherResp)]
def requestRows : List (BitVec 8 × (Fin 39 → Packet → Instr)) := packetRows.take 4
/-- Packet type of the response to a request. -/
def answerType (typ : BitVec 8) : BitVec 8 := if typ = 0x01 then 0x10 else if typ = 0x04 then 0x12 else 0x11
/-- The response to a request: its TAG, SPART and ADDR come back, on channel 14 to a request of channel 13. -/
def answerTo (s : State) (k : Packet) (typ : BitVec 8) (st : BitVec 16) (data : List (BitVec 256)) (poison : BitVec 16) : Packet :=
  { typ := typ, vc := if k.vc = 13 then 14 else k.vc, len := BitVec.ofNat 5 data.length, tag := k.tag, poison := poison, spart := k.spart
    status := st, src := s.lnk.chip, dst := k.src, stage := 0, op := 0, addr := k.addr, aux := 0, data := data }
/-- What the fabric has begun to do with an answer. -/
def Answered (o : Host.Outcome State Fault Refusal) (s : State) (k : Packet) (typ : BitVec 8) (st : BitVec 16) : Prop :=
  o = .next (s.send (answerTo s k typ st [] 0)).1
/-- Table 15.2: the entry permits a request of a type over n bytes of its partition. -/
abbrev Permits (e : Word) (k : Packet) (wr : Bool) (a n : Nat) : Prop :=
  e.getLsbD 63 = true ∧ e.getLsbD (if wr then 61 else 62) = true ∧ e.extractLsb' 46 14 = k.src ∧ e.extractLsb' 40 6 = k.spart ∧
  (e.extractLsb' 24 10).toNat * 2 ^ 30 ≤ a ∧ a + n ≤ ((e.extractLsb' 14 10).toNat + 1) * 2 ^ 30
/-- LEN in bytes. -/
abbrev lenBytes (k : Packet) : Nat := 32 * k.len.toNat
/-- A request for this chip that no check of its form turns away. -/
abbrev Sound (s : State) (k : Packet) : Prop := k.dst = s.lnk.chip ∧ s.pwr.removing = false ∧ pkBad k = false
/-- The request lands, in one run of device memory whose groups accept requests and hold no flawed sector. -/
abbrev LandsAt (s : State) (k : Packet) (wr : Bool) (a n d : Nat) : Prop :=
  ∃ l, s.landing k wr a n = .ok l ∧ l ≠ .window ∧ s.runsAt l a n = [(d, n)] ∧ s.devOn d n = true ∧ s.mem.flaw = []
/-- Bytes of stacked memory. -/
def dramAt (s : State) (d n : Nat) : List Byte := (List.range n).map fun i => s.cell (.dram (d + i))
/-- POISON names the granules that hold a poisoned die-sector. -/
def PoisonOf (s : State) (d n : Nat) (pz : BitVec 16) : Prop :=
  ∀ j, j < 16 → (pz.getLsbD j = true ↔ ∃ i, i < 32 ∧ 32 * j + i < n ∧ mget false s.mem.poison ((d + 32 * j + i) / 32) = true)
/-- Byte i of granule j of a WRITE: the enables of the first granule lie in AUX[63:32], those of the last in AUX[31:0]. -/
def WritesByte (k : Packet) (j i : Nat) : Prop := (j = 0 → k.aux.getLsbD (32 + i) = true) ∧ (j + 1 = k.len.toNat → k.aux.getLsbD i = true)

/-- A packet header in bits, from bit 255 down (Table 13.8). -/
def headerBits (k : Packet) : BitVec 256 :=
  k.aux ++ k.addr ++ k.op ++ k.stage ++ (0 : BitVec 7) ++ k.dst ++ (0 : BitVec 2) ++ k.src ++ k.status ++ (0 : BitVec 6) ++ k.spart ++
    k.poison ++ k.tag ++ (0 : BitVec 1) ++ k.len ++ (0 : BitVec 2) ++ k.vc ++ k.typ
/-- The slots of a packet: its header, then its granules (R288, R290). -/
def packetSlots (k : Packet) : List (BitVec 128) :=
  (headerBits k :: k.data).flatMap fun g => [g.extractLsb' 0 128, g.extractLsb' 128 128]
/-- A packet as its header tells it: as many granules as LEN names, none after a READ or an ACK. -/
def Framed (k : Packet) : Prop :=
  k.resv = false ∧ k.idx = [] ∧ k.data.length = if k.typ ∈ [(0x01 : BitVec 8), 0x11] then 0 else k.len.toNat

/-- The row that brings a collective message, and its source. -/
def collRow (n : Fin 39) : CollMsg → Instr
  | .setup m => .collSetup n m | .contrib m => .collContribution n m | .result m => .collResult n m | .stop m st => .collAbort n m st
def collSource : CollMsg → BitVec 14
  | .setup m => m.src | .contrib m => m.src | .result m => m.src | .stop m _ => m.src

/-- A message joins the early ones; COLL_FULL counts one that does not fit. -/
def Part.keepMsg (P : Part) (x : CollMsg) (full : Bool) : Part :=
  { P with collIn := P.collIn ++ [x], collFull := if full then satAdd P.collFull 1 else P.collFull }
/-- A plan that ends with a status, unless it already has one. -/
def ReshPlan.withStatus (q : ReshPlan) (st : BitVec 16) : ReshPlan := { q with status := if q.status = 0 then st else q.status }
/-- The abort segment to a participant (Table 14.5), with its header granule. -/
def abortTo (s : State) (p d : Nat) (st : BitVec 16) (hd : BitVec 256) : Packet :=
  { typ := 0x20, vc := 15, len := 1, tag := 0, poison := 0, spart := BitVec.ofNat 6 p, status := st, src := s.lnk.chip
    dst := BitVec.ofNat 14 d, stage := 0, op := 0, addr := BitVec.ofNat 64 (d % 2 ^ 14 * 2 ^ 42), aux := 0, data := [hd] }

/-! ### Power-up and errors -/

/-- The rails are down: nothing of the device is left but flash, pins, trip latch and what lies outside. -/
def RailsDown (s t : State) : Prop :=
  t.pending = s.pending ∧ t.pwr.rails = false ∧ t.pwr.boot = .off ∧ t.tasks = [] ∧ t.parts = [] ∧ t.clusters = [] ∧ t.ccores = [] ∧
  t.mem = { Mem.reset with hostMem := s.mem.hostMem } ∧ t.log = Log.reset ∧ t.fw = Fw.reset ∧ t.glb = Glb.reset ∧ t.lnk = Lnk.reset ∧
  t.flash.guard0 = s.flash.guard0 ∧ t.flash.guard1 = s.flash.guard1 ∧ t.flash.log = s.flash.log ∧
  (s.fw.write = none → t.flash.slotA = s.flash.slotA ∧ t.flash.slotB = s.flash.slotB) ∧
  (s.cfg.write = none → t.flash.img0 = s.flash.img0 ∧ t.flash.img1 = s.flash.img1)
/-- Rows that remove the rails: what they do to the pins, and whether they clear the trip latch and the charge. -/
def cutRows : List (Instr × (Pins → Pins → Prop) × Bool × Bool) := [
  (.enableLow, fun p q => q = { p with enable := false }, true, false),
  (.inputUndervoltage, fun p q => q = { p with vin := q.vin } ∧ q.vin < 56000, false, false),
  (.inputOvervoltage, fun p q => q = { p with vin := q.vin } ∧ 72000 < q.vin, false, false),
  (.refclkLoss, fun p q => q = { p with refclk := false }, false, false),
  (.pllLockLoss, fun p q => q = p, false, false),
  (.surpriseRemoval, fun _ q => q = Pwr.reset.pins, true, true)]
/-- A cluster that fails self-test, by itself or with its four segments (R441). -/
def FailsTest (e : BootEnv) (c : Nat) : Prop := (∃ x ∈ e.badClusters, x.val = c) ∨ ∀ g, g < 4 → ∃ x ∈ e.badSegs, x.1.val = c ∧ x.2.val = g
/-- Nothing fails without which the device gives no service. -/
def Serves (e : BootEnv) : Prop :=
  (∃ k : Fin 8, k ∉ e.badCores) ∧ (∃ c, c < 768 ∧ ¬FailsTest e c) ∧ ∃ g : Fin 64, g ∉ e.badGroups
/-- A fatal error (R469). -/
def GoesFatal (s t : State) (r : ErrRec) : Prop :=
  t.glb.fatalSet = true ∧ t.glb.fatal = BitVec.ofNat 256 (leNat (r.bytes false)) ∧ t.hif.aer = s.hif.aer ++ [r.status] ∧
  t.mem.hostMem = s.mem.hostMem ∧ (∀ kv ∈ t.clusters, kv.2.units = [] ∧ kv.2.seq.run = .idle) ∧
  ∃ w, ∀ n, (s.po n).st = .active →
    t.po n = Port.pump w false [] { s.po n with txq := [sysPacket s.lnk.chip (s.po n).foundChip 15 [s.lnk.chip.setWidth 64]] }

end Sys2Proof.Machine

open Sys2Proof Sys2Proof.Machine

/-! ### The statements -/

/-- A step is the front command on the queue's rest, and the queue shrinks by its front and by nothing else; an empty queue passes
time, the model's choice (log 4). -/
def Obligations.StepRunsFront : Prop :=
  (∀ (s : State) (c : Instr) (rest : List Instr), s.pending = c :: rest → step s = exec c (s.withQueue rest)) ∧
  (∀ s t : State, step s = .next t → t.pending = s.pending.tail) ∧
  (∀ s : State, s.pending = [] → step s = .next (idleTick s).afterHold)

/-- The frame of every row: what is not in `mayChange` is unchanged. -/
def Obligations.CommandFrame : Prop := ∀ (i : Instr) (s t : State), exec i s = .next t → Only (mayChange i) s t

/-- R69, R92 to R107, R189, R253: what the vector unit and the pruning unit store. -/
def Obligations.VectorResults : Prop := ∀ (c : Fin 768) (s : State) (j : Job) (rest : List Job),
  let v := fun (u : State) (t : Ten) (i : Nat) => eltVal u c.val t i
  let d := j.ten 0
  let a := j.ten 1
  let len := redLen a (vDims j.word)
  (Oldest c 1 s j rest → d.space = 0 → a.space = 0 → OneEach s c.val d →
    -- elementwise, without a tap
    (∀ o, j.op = .vew o → vTap j.word = 0 → (∀ k, k < o.arity → (j.ten (k + 1)).space = 0 ∧ (j.ten (k + 1)).count = d.count ∧
        NoOverlap s c.val d (j.ten (k + 1))) →
      (PlainTen 0x20 d → (∀ k, k < o.arity → PlainTen 0x20 (j.ten (k + 1))) → ∃ t, exec (.tensorComplete c 1) s = .next t ∧
        OnlyElts s c.val [d] t ∧ ∀ i, i < d.count → ∀ r, intOp o (i32 (v s a i)) (i32 (v s (j.ten 2) i)) = some r → i32 (v t d i) = satI32 r) ∧
      (PlainTen 0x31 d → (∀ k, k < o.arity → PlainTen 0x31 (j.ten (k + 1))) → ∃ t, exec (.tensorComplete c 1) s = .next t ∧
        OnlyElts s c.val [d] t ∧ ∀ i, i < d.count → (∀ k, k < o.arity → FiniteF32 (v s (j.ten (k + 1)) i)) →
          FloatResult o (v s a i) (v s (j.ten 2) i) (v s (j.ten 3) i) (v t d i))) ∧
    -- conversions to nearest
    (j.op = .vcvt → vRnd j.word = false → a.count = d.count → Apart s c.val d a →
      (PlainTen 0x30 d → PlainTen 0x31 a → ∃ t, exec (.tensorComplete c 1) s = .next t ∧ OnlyElts s c.val [d] t ∧
        ∀ i, i < d.count → Normal (v s a i) → InRange 16 (f32Val (v s a i)) → Nearest 16 (f32Val (v s a i)) (2 ^ 16 * v t d i)) ∧
      (PlainTen 0x31 d → PlainTen 0x30 a → ∃ t, exec (.tensorComplete c 1) s = .next t ∧ OnlyElts s c.val [d] t ∧
        ∀ i, i < d.count → FiniteF32 (2 ^ 16 * v s a i) → v t d i = 2 ^ 16 * v s a i) ∧
      (PlainTen 0x31 d → PlainTen 0x20 a → ∃ t, exec (.tensorComplete c 1) s = .next t ∧ OnlyElts s c.val [d] t ∧
        ∀ i, i < d.count → if i32 (v s a i) = 0 then v t d i = 0 else Nearest 0 (i32 (v s a i) * 2 ^ 149) (v t d i))) ∧
    -- reductions
    (0 < len → a.count = d.count * len → Apart s c.val d a →
      (j.op = .vred .sum → PlainTen 0x20 d → PlainTen 0x20 a → ∃ t, exec (.tensorComplete c 1) s = .next t ∧ OnlyElts s c.val [d] t ∧
        ∀ i, i < d.count → let xs := (List.range len).map fun k => i32 (v s a (i * len + k))
          (xs.map Int.natAbs).foldl (· + ·) 0 < 2 ^ 31 → i32 (v t d i) = xs.foldl (· + ·) 0) ∧
      (∀ mx : Bool, let o : RedOp := if mx then .max else .min
        PlainTen 0x31 d → PlainTen 0x31 a → (∀ i, i < a.count → FiniteF32 (v s a i)) →
        (j.op = .vred o → ∃ t, exec (.tensorComplete c 1) s = .next t ∧ OnlyElts s c.val [d] t ∧
          ∀ i, i < d.count → ∃ k, Wins mx (fun k => v s a (i * len + k)) len k ∧ v t d i = v s a (i * len + k)) ∧
        (j.op = .varg o → let x := j.ten 2
          x.space = 0 → PlainTen 0x20 x → OneEach s c.val x → x.count = d.count → Apart s c.val x a → Apart s c.val d x →
          ∃ t, exec (.tensorComplete c 1) s = .next t ∧ OnlyElts s c.val [d, x] t ∧
            ∀ i, i < d.count → ∃ k, Wins mx (fun k => v s a (i * len + k)) len k ∧ v t d i = v s a (i * len + k) ∧
              v t x i = k % 2 ^ 32)))) ∧
  -- masks
  (Oldest c 6 s j rest → d.space = 0 → a.space = 0 → OneEach s c.val d → j.op = .prune → PlainTen 0x20 d → PlainTen 0x30 a → Apart s c.val d a →
    let n := a.e 0 / 8
    8 * n = a.e 0 → a.e 1 % 8 = 0 → a.count = a.e 0 * a.e 1 → d.count = 2 * (n * (a.e 1 / 8)) → (∀ i, i < a.count → v s a i % 2 ^ 15 ≤ 0x7F80) →
    ∃ t, exec (.tensorComplete c 6) s = .next t ∧ OnlyElts s c.val [d] t ∧ ∀ b, b < n * (a.e 1 / 8) →
      let mag := fun q : Nat => bfMag (v s a ((8 * (b / n) + q / 8) * a.e 0 + 8 * (b % n) + q % 8))
      let m := v t d (2 * b) + 2 ^ 32 * v t d (2 * b + 1)
      ∀ q, q < 64 → (m.testBit q = true ↔ KeepsTop mag m q))

/-- No command stops the machine. -/
def Obligations.CommandsAnswer : Prop := ∀ (i : Instr) (s : State), ∃ t, exec i s = .next t

/-- Both invariants hold at reset. -/
def Obligations.ResetInvariants : Prop := State.reset.Canon ∧ State.reset.Legal

/-- Every command, on every path, keeps the canonical form of every memory. -/
def Obligations.CanonStep : Prop := ∀ s t : State, s.Canon → step s = .next t → t.Canon

/-- Every command, on every path, keeps registers that the spec bounds legal. -/
def Obligations.LegalStep : Prop := ∀ s t : State, s.Legal → step s = .next t → t.Legal

/-- R150, R152, Table 8.3. -/
def Obligations.AluResult : Prop := ∀ r ∈ aluRows, ∀ (a : Agent) (w : Word) (s : State),
  Issues r.2.1 (if wImmf w then [fDst, fA, (35, 35), (31, 0)] else [fDst, fA, fB, (35, 35)]) a w s →
  ∃ t, exec (r.1 a w) s = .next t ∧ Retires a [wDst w] [] [] [] s t ∧
    t.regS a (wDst w) = if wDst w = 0 then 0 else
      r.2.2 (s.regS a (wA w)) (if wImmf w then (w.setWidth 32).signExtend 64 else s.regS a (wB w))

/-- R151, Table 8.4. -/
def Obligations.CompareResult : Prop := ∀ c ∈ condRows, ∀ (a : Agent) (w : Word) (s : State),
  Issues 0x008 ((if wImmf w then [fDst, fA, (35, 35), (31, 0)] else [fDst, fA, fB, (35, 35)]) ++ [(34, 32)]) a w s → fld w 34 32 = c.1 →
  (wDst w ≤ 7 → ∃ t, exec (.cmp a w) s = .next t ∧ Retires a [] [] [wDst w] [] s t ∧
    t.regP a (wDst w) = c.2 (s.regS a (wA w)) (if wImmf w then (w.setWidth 32).signExtend 64 else s.regS a (wB w))) ∧
  (7 < wDst w → exec (.cmp a w) s = .next (s.faultAt a w stIllegalInstr))

/-- Table 8.3 and R144. -/
def Obligations.MoveResult : Prop := ∀ (a : Agent) (w : Word) (s : State),
  (∀ r ∈ moveRows, Issues r.2.1 r.2.2.1 a w s → r.2.2.2.1 w = true →
    ∃ t, exec (r.1 a w) s = .next t ∧ Retires a [wDst w] [] [] [] s t ∧
      t.regS a (wDst w) = if wDst w = 0 then 0 else r.2.2.2.2 a w s) ∧
  (Issues 0x013 [fDst] a w s →
    ∃ t, exec (.rdst a w) s = .next t ∧ t.statusOf a = 0 ∧ t.regS a (wDst w) = (if wDst w = 0 then 0 else s.statusOf a) ∧
      AgentOnly a s t ∧ GoesOn a s t ∧ RegsKept a [wDst w] [] [] [] s (t.setStatus a (s.statusOf a)))

/-- R20, R24, R25, R31, R36, R37, R43, R53, R55: what the matrix engine computes, with the tile order of log 32 (the model's choice). -/
def Obligations.MatrixResults : Prop :=
  -- signed digits of a value of 8 or 4 bits
  (∀ x : Int, (-128 ≤ x → x ≤ 255 → NafOf 9 x (naf 9 x)) ∧ (-8 ≤ x → x ≤ 15 → NafOf 5 x (naf 5 x))) ∧
  ∀ (c : Fin 768) (s : State), s.live = true → (s.cl c.val).spadFlaw = [] → (s.cl c.val).spadPoison = [] →
  -- a tile that does not repeat
  (∀ (k : Fin 16) (j : Job) (b : Nat), NextTile c k s j b → j.taints (s.cl c.val) = [] → (j.op = .tmm ∨ j.op = .tmmp) → j.esc = false →
    j.split = [] → mAcc j.word = false → mCont j.word = false → mTr j.word = false →
    let wt := j.ten 1
    let ac := j.ten 2
    let d := j.mdim
    let g := j.geo
    let wide := decide (wt.fmt = 0x11 ∨ wt.fmt = 0x12)
    (ac.fmt = 0x10 ∨ ac.fmt = 0x11 ∨ ac.fmt = 0x12 ∨ ac.fmt = 0x13) → ac.xc = false → ac.space = 0 → wt.xc = false → wt.space = 0 →
    (if j.op = .tmm then wt.fmt = 0x01 else wide = true) →
    let f := if mget 0 j.runFmt k.val = 0 then j.fmt else mget 0 j.runFmt k.val - 1
    let tile := k.val + 16 * mget 0 j.coreDone k.val
    let pos := tilePos g d tile
    let cc := pos.2.2
    (j.op = .tmm → ∀ x n, x < (d.k + 4) / 5 → n < d.n → (winByte s c.val wt.win (wt.at x n cc.1 cc.2).toNat).toNat < 0xF3) →
    ∃ t, exec (.tileEnd c k) s = .next t ∧ let bk := ((t.cl c.val).mcore k.val).bank b
      bk.job = j.id ∧ bk.tile = tile ∧ bk.undef = [] ∧
      ∀ n i, n < d.n → n / (16 * g.r) = pos.1 → i < g.b → pos.2.1 * g.b + i < d.m → ∃ css : List (List (Int × Int)), css.length = (d.k + 159) / 160 ∧
        mget AccEntry.empty bk.ents (256 * (n % (16 * g.r) % 16) + n % (16 * g.r) / 16 * g.b + i) = entryOf f css.flatten ∧
        ∀ q, q < css.length → let len := min 160 (d.k - 160 * q)
          let act := fun x => (ac.elemAt (160 * q + x + d.k * (pos.2.1 * g.b + i + d.m * (cc.1 + d.d2 * cc.2)))).toNat
          let wpos := fun x => (wt.at x n cc.1 cc.2).toNat
          let first := fun (u : Nat → Nat) (x : Nat) => u (x / 32 * 32)
          let m := fun x => mantAt s c.val ac (act x)
          let e := fun x => blkExp s c.val ac (first act x)
          let w := fun x => mantAt s c.val wt (wpos (160 * q + x))
          let we := fun x => blkExp s c.val wt (first (fun y => wpos (160 * q + y)) x)
          if wide = true then ((∀ x, x < len → w x = 0) → nth [] css q = []) ∧
            ∀ y, WinExp len w we y → WinAdds f len (aligned w we y) m e (y - 127) (nth [] css q)
          else WinAdds f len (fun x => tritOf (winByte s c.val wt.win (wpos (32 * q + x / 5))) (x % 5)) m e 0 (nth [] css q)) ∧
  -- the output in FP32
  (∀ (j : Job) (rest : List Job), Oldest c 0 s j rest → mKeep j.word = false → j.drained = j.tiles →
    (∀ k, ∀ o, ((s.cl c.val).mcore k).buf = some o → o.job ≠ j.id) → j.undef = [] → PlainTen 0x31 (j.ten 0) → (j.ten 0).space = 0 →
    OneEach s c.val (j.ten 0) → ∃ t, exec (.tensorComplete c 0) s = .next t ∧
      (∀ i, i < (j.ten 0).count → let e := mget AccEntry.empty j.ents i
        let v := e.q.toInt * 2 ^ (tagX e.tag + 22).toNat
        (tagValid e.tag = false → eltVal t c.val (j.ten 0) i = 0) ∧
        (tagValid e.tag = true → -22 ≤ tagX e.tag → InRange 0 v → Nearest 0 v (eltVal t c.val (j.ten 0) i)) ∧
        (tagValid e.tag = true → e.q.toInt = 0 → eltVal t c.val (j.ten 0) i = 0)) ∧
      ∀ x, (∀ i b, i < (j.ten 0).count → b < 4 → eltCell s c.val (j.ten 0) i b ≠ some (.spad c.val x)) →
        t.cell (.spad c.val x) = s.cell (.spad c.val x))

/-- R153: the loads and their faults. A byte that an instruction in flight writes is undefined (R154): the others are those of memory. -/
def Obligations.ScalarLoads : Prop := ∀ r ∈ loadRows, ∀ (a : Agent) (w : Word) (s : State),
  Issues r.2.1 r.2.2.1 a w s → r.2.2.2.2.2.2 a w = true → spBad w = false →
  let n := r.2.2.2.2.2.1 w
  (∀ l : ScalarLoc, scalarLoc s a w (s.regS a (r.2.2.2.1 w)) r.2.2.2.2.1 n = .ok l →
  let s1 := scalarTouch s a n l
  scalarPoison s1 a n l = none →
  let v := scalarValue s1 a n l
  let s2 := if s1.racing a n l = [] then s1 else s1.bump n
  (∃ t, exec (r.1 a w) s = .next t ∧
    (if r.2.1 = 0x010 then Retires a [wDst w] [] [] [] s2 t ∧
        t.regS a (wDst w) = (if wDst w = 0 then 0 else BitVec.ofNat 64 (leNat v))
      else Retires a [] [] [] ((List.range (n / 32)).map (wDst w + ·)) s2 t ∧
        ∀ i, i < n / 32 → t.regD a (wDst w + i) = BitVec.ofNat 256 (leNat ((v.drop (32 * i)).take 32)))) ∧
  (∀ i, i < n → i ∉ s1.racing a n l → v[i]? = (scalarBytes s1 a n l)[i]?) ∧
  (s.mem.flaw = [] → (s.cl (clusterOf a)).spadFlaw = [] → s1 = s)) ∧
  (∀ (c : Fin 768) (st : BitVec 16), a = .seq c → AccessFaults c s w (s.regS a (r.2.2.2.1 w)) r.2.2.2.2.1 n st →
    exec (r.1 a w) s = .next (s.faultAt a w st))

/-- R153: the stores and their faults. -/
def Obligations.ScalarStores : Prop := ∀ (desc : Bool) (a : Agent) (w : Word) (s : State),
  let n := if desc then 32 else 8
  let v := if desc then (s.regD a (wB w)).toNat else (s.regS a (wB w)).toNat
  Issues (if desc then 0x01A else 0x011) ([fA, fB] ++ fMem) a w s → spBad w = false →
  (desc = true → isCore a = false ∧ wB w ≤ 15) →
  (∀ l : ScalarLoc, scalarLoc s a w (s.regS a (wA w)) n n = .ok l →
  let s1 := scalarMerge s n l
  (∃ t, exec ((if desc then Instr.dstr else Instr.st) a w) s = .next t ∧
    (∀ i, i < n → ∃ c, scalarCell s a i l = some c ∧ t.cell c = BitVec.ofNat 8 (v >>> (8 * i))) ∧
    (∀ c, (∀ i, i < n → scalarCell s a i l ≠ some c) → t.cell c = s1.cell c) ∧
    t.mem.hostMem = s1.mem.hostMem ∧ Only [.mem, .clusters, .ccores] s1 t ∧ RegsKept a [] [] [] [] s1 t ∧ GoesOn a s1 t ∧
    ∀ c, outsideStore (t.cl c) = outsideStore (s1.cl c)) ∧
  (s.mem.flaw = [] → s1 = s)) ∧
  (∀ (c : Fin 768) (st : BitVec 16), a = .seq c → AccessFaults c s w (s.regS a (wA w)) n n st →
    exec ((if desc then Instr.dstr else Instr.st) a w) s = .next (s.faultAt a w st))

/-- R155. -/
def Obligations.DescriptorFields : Prop := ∀ (c : Fin 768) (w : Word) (s : State),
  let a : Agent := .seq c
  (∀ add : Bool, wDst w ≤ 15 → Issues (if add then 0x01C else 0x01B) [fDst, fA, (35, 32)] a w s →
    let d := s.regD a (wDst w)
    match fieldBits (fld w 35 32) (dfld d 13 12) with
    | some (hi, lo) => ∃ t, exec ((if add then Instr.dadd else Instr.dset) a w) s = .next t ∧ Retires a [] [] [] [wDst w] s t ∧
        dfld (t.regD a (wDst w)) hi lo = ((if add then dfld d hi lo else 0) + (s.regS a (wA w)).toNat) % 2 ^ (hi + 1 - lo) ∧
        ∀ i, i < lo ∨ hi < i → (t.regD a (wDst w)).getLsbD i = d.getLsbD i
    | none => exec ((if add then Instr.dadd else Instr.dset) a w) s = .next (s.faultAt a w stIllegalInstr)) ∧
  (wA w ≤ 15 → Issues 0x01D [fDst, fA, (35, 32)] a w s →
    let d := s.regD a (wA w)
    match fieldBits (fld w 35 32) (dfld d 13 12) with
    | some (hi, lo) => ∃ t, exec (.dget a w) s = .next t ∧ Retires a [wDst w] [] [] [] s t ∧
        t.regS a (wDst w) = (if wDst w = 0 then 0
          else if 5 ≤ fld w 35 32 ∧ fld w 35 32 ≤ 8 then (BitVec.ofNat 24 (dfld d hi lo)).signExtend 64 else BitVec.ofNat 64 (dfld d hi lo))
    | none => exec (.dget a w) s = .next (s.faultAt a w stIllegalInstr))

/-- R132 (unassigned OP, E), R147, R150, R151, R153 (SP 3, DLDM). -/
def Obligations.IllegalWord : Prop := ∀ (a : Agent) (w : Word) (s : State), s.ready a w = true →
  (∀ r ∈ instrRows, (∀ x ∈ instrRows, classOp w ≠ x.1) → exec (r.2 a w) s = .next (s.faultAt a w stIllegalInstr)) ∧
  (∀ r ∈ plainFields, classOp w = r.1 → (badBits w (r.2.2.1 w) = true ∨ r.2.2.2 w = true) →
    exec (r.2.1 a w) s = .next (s.faultAt a w stIllegalInstr)) ∧
  (∀ r ∈ tensorRows, ∀ c : Fin 768, a = .seq c → classOp w = r.1 → wE w = false →
    let f := r.2.2 a w s
    f.chk.ill = false → f.chk.priv = false → (∀ o ∈ f.os, ¬(o.t.space = 2 ∧ 2 ≤ o.t.win)) →
    ((∃ h ∈ expertFields r.1, fld w h.1 h.2 ≠ 0) ∨ ∃ o ∈ f.os, expertDesc o.d) →
    exec (r.2.1 a w) s = .next (s.faultAt a w stExpertField))

/-- R126, R161. That a descriptor operation, BAR or PHASE on a control core is illegal is the model's choice (log 30). -/
def Obligations.WrongAgent : Prop :=
  (∀ r ∈ systemRows, ∀ (c : Fin 768) (w : Word) (s : State), Issues r.1 r.2.2 (.seq c) w s →
    exec (r.2.1 (.seq c) w) s = .next (s.faultAt (.seq c) w stPrivilege)) ∧
  (∀ r ∈ sequencerRows, ∀ (k : Fin 8) (w : Word) (s : State), s.ready (.core k) w = true → classOp w = r.1 →
    exec (r.2 (.core k) w) s = .next (s.faultAt (.core k) w stIllegalInstr))

/-- R146, Table 7.10. -/
def Obligations.TaskFault : Prop :=
  (∀ (c : Fin 768) (w : Word) (st : BitVec 16) (s : State) (T : Task),
    s.taskOn c.val = some T → T.fault = none → c.val ∈ T.clusters → T.clusters.Nodup →
    let t := s.faultAt (.seq c) w st
    (∀ d ∈ T.clusters, (t.cl d).seq.run = .faulted ∧ (t.cl d).units = (s.cl d).units ∧ (t.cl d).spad = (s.cl d).spad ∧
      (t.cl d).seq.s = (s.cl d).seq.s ∧ (t.cl d).task = (s.cl d).task ∧
      fld (t.cl d).faultReg 63 48 = (if d = c.val then st else stTaskAborted).toNat ∧
      fld (t.cl d).faultReg 47 16 = s.clk.merTick.toNat % 2 ^ 32) ∧
    fld (t.cl c.val).faultReg 15 0 = 8 * ((s.cl c.val).seq.pc % 8192) ∧ (t.cl c.val).faultInstr = w ∧
    (∀ d, d ∉ T.clusters → t.cl d = s.cl d) ∧
    t.findTask T.id = some { T with fault := some { status := st, tick := s.clk.merTick, cluster := c.val } } ∧
    (∀ id, id ≠ T.id → t.findTask id = s.findTask id) ∧ Only [.clusters, .tasks, .freeTick] s t) ∧
  (∀ (k : Fin 8) (w : Word) (st : BitVec 16) (s : State),
    s.faultAt (.core k) w st = s.modCc k.val fun x => { x with halted := true, fault := st })

/-- R156, R157 (branches), R127. That a control core has no program bound and its target wraps at 2^61 is the model's choice (log 30). -/
def Obligations.Branches : Prop := ∀ r ∈ branchRows, ∀ (a : Agent) (w : Word) (s : State), Issues r.2.1 r.2.2.1 a w s →
  let target : Int := (s.pcOf a : Int) + (w.setWidth 32).toInt
  (r.2.2.2 a w s = false → ∃ t, exec (r.1 a w) s = .next t ∧ Retires a [] [] [] [] s t) ∧
  (r.2.2.2 a w s = true → inProgram a s target = true → ∃ t, exec (r.1 a w) s = .next t ∧ AgentOnly a s t ∧ RegsKept a [] [] [] [] s t ∧
    t.pcOf a = (target % 2 ^ 61).toNat ∧
    ∃ gone, s.loopsOf a = gone ++ t.loopsOf a ∧ (∀ f ∈ t.loopsOf a, f.holds (t.pcOf a)) ∧
      ∀ f, gone.getLast? = some f → ¬f.holds (t.pcOf a)) ∧
  (r.2.2.2 a w s = true → inProgram a s target = false → exec (r.1 a w) s = .next (s.faultAt a w stPcRange))

/-- R156, R157 (loops); R158, first sentence (END), whose queues are untouched. That a control core has no program bound is the model's
choice (log 30), and so is that a skipped body counts as a pass of the loop around it (log 40). -/
def Obligations.Loops : Prop :=
  (∀ r ∈ loopRows, ∀ (a : Agent) (w : Word) (s : State), Issues r.2.1 r.2.2.1 a w s →
    let body := fld w 19 0
    let count := r.2.2.2 a w s
    let pc := s.pcOf a
    if body = 0 then exec (r.1 a w) s = .next (s.faultAt a w stIllegalInstr)
    else if inProgram a s ((pc + body : Nat) : Int) = false then exec (r.1 a w) s = .next (s.faultAt a w stPcRange)
    else if count ≠ 0 ∧ 4 ≤ (s.loopsOf a).length then exec (r.1 a w) s = .next (s.faultAt a w stLoopDepth)
    else ∃ t, exec (r.1 a w) s = .next t ∧ AgentOnly a s t ∧ RegsKept a [] [] [] [] s t ∧
      (t.pcOf a, t.loopsOf a) = (if count = 0 then nextPc (pc + body) (s.loopsOf a)
        else (pc + 1, { first := pc + 1, last := pc + body, left := count - 1 } :: s.loopsOf a))) ∧
  (∀ (a : Agent) (w : Word) (s : State), Issues 0x047 [] a w s → ∃ t, exec (.nop a w) s = .next t ∧ Retires a [] [] [] [] s t ∧
    ∀ f fs, s.loopsOf a = f :: fs → f.last = s.pcOf a → 0 < f.left →
      t.pcOf a = f.first ∧ t.loopsOf a = { f with left := f.left - 1 } :: fs) ∧
  (∀ (a : Agent) (w : Word) (s : State), Issues 0x046 [] a w s → exec (.endSeq a w) s = .next (match a with
    | .seq c => s.modCl c.val fun x => { x with seq := { x.seq with run := .ended } }
    | .core k => s.modCc k.val fun x => { x with halted := true }))

/-- R168, R172, R175, R178, R180, R181, R183, R184, R265: what the data movement, attention and collective units write. -/
def Obligations.UnitWrites : Prop := ∀ (c : Fin 768) (s : State) (j : Job) (rest : List Job),
  let p := (s.cl c.val).part.toNat
  let v := fun (u : State) (t : Ten) (i : Nat) => eltVal u c.val t i
  let d := j.ten 0
  let a := j.ten 1
  -- movement between scratchpad and partition memory
  (Oldest c 3 s j rest → MemSound s → OneEach s c.val d → d.count = a.count →
    (∀ f, j.op = .dmov → PlainTen f d → PlainTen f a → OneEach s c.val a → Apart s c.val d a → ∃ t, exec (.tensorComplete c 3) s = .next t ∧
      OnlyElts s c.val [d] t ∧ ∀ i, i < d.count → v t d i = v s a i) ∧
    (j.op = .atom → aTy j.word = 0 → aOp j.word ≠ 3 → aIdx j.word = false → PlainTen 0x20 d → PlainTen 0x20 a → d.space = 1 → a.space = 0 →
      ∃ t, exec (.tensorComplete c 3) s = .next t ∧ OnlyElts s c.val [d] t ∧ ∀ i, i < d.count →
        let x := i32 (v s d i)
        let y := i32 (v s a i)
        i32 (v t d i) = if aOp j.word = 0 then (BitVec.ofInt 32 (x + y)).toInt else if aOp j.word = 1 then min x y else max x y)) ∧
  (Oldest c 3 s j rest → MemSound s → OneEach s c.val d → j.op = .gath → gPool j.word = false → gIw j.word = false → d.space = 0 → a.space = 0 →
    let tab := j.ten 2
    PlainTen 0x20 a → (∀ f, PlainTen f d → PlainTen f tab → tab.space = 1 → OneEach s c.val tab →
      tab.count = tab.e 0 * tabRows tab → d.count = tab.e 0 * a.count →
      (∀ i, i < a.count → v s a i < tabRows tab ∨ v s a i = 0xFFFFFFFF) → ∃ t, exec (.tensorComplete c 3) s = .next t ∧ OnlyElts s c.val [d] t ∧
        ∀ i k, i < a.count → k < tab.e 0 → v t d (i * tab.e 0 + k) = if v s a i = 0xFFFFFFFF then 0 else v s tab (k + tab.e 0 * v s a i))) ∧
  -- keys and values: one token, or one page, of a batch of one sequence in the layout of BF16 rows
  (∀ (b : Batch) (l : KvLay), Oldest c 4 s j rest → MemSound s → kvGood s p (nth 0 j.scal 0) = some (b, l) → b.count = 1 → l.bf = true → l.xc = false →
    let r := s.seqRec p b 0
    let row := l.row
    (∀ x, j.op = .kvapp → PlainTen 0x30 d → PlainTen 0x30 a → d.space = 0 → a.space = 0 → d.e 1 = 1 → d.count = row → a.count = row →
      let page := (s.kvRowOf p b l (kLayer j.word) 0 0).2.2.k
      let at_ := r.cursor % l.p * row * 2
      (s.pt p).dev page = some x → page % 65536 = 0 → l.used ≤ 65536 → ∃ t, exec (.tensorComplete c 4) s = .next t ∧
        (∀ i, i < row → ∀ y, y < 2 →
          t.cell (.dram (x + at_ + 2 * i + y)) = BitVec.ofNat 8 (v s d i >>> (8 * y)) ∧
          t.cell (.dram (x + l.p * row * 2 + at_ + 2 * i + y)) = BitVec.ofNat 8 (v s a i >>> (8 * y))) ∧
        ∀ z, (z < x + at_ ∨ x + at_ + 2 * row ≤ z) → (z < x + l.p * row * 2 + at_ ∨ x + l.p * row * 2 + at_ + 2 * row ≤ z) →
          t.cell (.dram z) = s.cell (.dram z)) ∧
    (∀ x, j.op = .kvstg → d.space = 0 → d.xc = false → 0 ≤ d.span.1 → 0 < r.cursor → r.cursor ≤ l.p →
      let pd := s.pageDesc p r (kLayer j.word) 0
      let n := 2 * row * r.cursor
      let dst := fun i : Nat => Cell.spad c.val (128 * winBase (mget 0 (s.cl c.val).win d.win) + d.span.1.toNat + i)
      pd.valid = true → pd.first = 0 → (s.pt p).dev pd.page = some x → pd.page % 65536 = 0 → l.used ≤ 65536 →
      ∃ t, exec (.tensorComplete c 4) s = .next t ∧ t.mem.dram = s.mem.dram ∧
        (∀ i, i < n → t.cell (dst i) = s.cell (.dram (x + i)) ∧ t.cell (dst (up128 n + i)) = s.cell (.dram (x + l.p * row * 2 + i))) ∧
        ∀ y, (∀ i, i < n → y ≠ dst i ∧ y ≠ dst (up128 n + i)) → t.cell y = s.cell y)) ∧
  -- attention over pages in memory: each query row goes on from what DST and STATE hold
  (∀ (b : Batch) (l : KvLay), Oldest c 4 s j rest → MemSound s → kvGood s p (nth 0 j.scal 0) = some (b, l) → j.op = .attn → kStg j.word = false →
    (∀ i, i < b.count → ∀ x ∈ s.pageDescs p l (s.seqRec p b i) (kLayer j.word), x.valid = true) →
    let q := j.ten 1
    let st := j.ten 3
    q.xc = false →
    PlainTen 0x31 d → d.space = 0 → OneEach s c.val d → PlainTen 0x31 st → st.space = 0 → OneEach s c.val st → Apart s c.val d st →
    d.count = l.d * (b.qrows * l.h * d.e 2 * b.count) → st.count = 2 * (b.qrows * l.h * d.e 2 * b.count) →
    ∃ t, exec (.tensorComplete c 4) s = .next t ∧ OnlyElts s c.val [d, st] t ∧
      ∀ n, n < b.qrows * l.h * d.e 2 * b.count →
        let per := b.qrows * l.h
        let i := n / (per * d.e 2)
        let pages := (attnPages s c.val j b l i 0).1
        let qr := (List.range l.d).map fun e => q.raw (jobRd (s.cl c.val) j q.win) (e + l.d * n)
        let m := fvRead 23 (v s st (2 * n))
        let acc := (List.range l.d).map fun e => if m = .inf true then .zero false false else fvRead 23 (v s d (e + l.d * n))
        let z := attnRow l (kCausal j.word) (if q.fmt = 0x12 then 2 else 3) (s.seqRec p b i).cursor (d.e 2) (n / per % d.e 2) (n % per / b.qrows)
          ((chunksOf 5 (rawBlks qr)).map alignWin) pages { m := m, s := fvRead 23 (v s st (2 * n + 1)), acc := acc, st := {} }
        (∀ pg ∈ pages, ∀ x ∈ pg.keys ++ pg.vals, kvErr x = []) →
        v t st (2 * n) = fv32 z.m ∧ v t st (2 * n + 1) = fv32 z.s ∧ ∀ e, e < l.d → let x := nth (.zero false false) z.acc e
          v t d (e + l.d * n) = if kFin j.word = true then (frWrite 23 .near 0 (fDiv 23 x z.s)).bits else fv32 x) ∧
  -- collectives: nothing but DST and the index tensor changes; a lone participant stores its own source
  (∀ rest, s.live = true → (s.cl c.val).cstate = .run → (s.cl c.val).unit 5 = j :: rest → (j.op = .cred ∨ j.op = .cbrd ∨ j.op = .cgat) →
    (∀ i ∈ [0, 2], ∃ f, PlainTen f (j.ten i) ∧ (j.ten i).space = 0) → ∃ t, exec (.tensorComplete c 5) s = .next t ∧
      ∀ y x, (∀ e ∈ [d, j.ten 2], ∀ i b, i < e.count → b < eltBytes e.fmt → eltCell s c.val e i b ≠ some (.spad y x)) →
        t.cell (.spad y x) = s.cell (.spad y x)) ∧
  (Oldest c 5 s j rest → PlainTen 0x20 d → PlainTen 0x20 a → d.space = 0 → a.space = 0 → OneEach s c.val d → d.count = a.count →
    let k := j.collOf s c.val
    (j.op = .cred ∨ j.op = .cbrd ∨ j.op = .cgat) → j.descs.length = 2 → k.recs.map (·.chip) = [k.me] → k.named = k.me → cWire j.word = 4 →
    j.segs = [] → j.ents = [] → j.undef = [] → s.collMsgs k = [] → s.setupAt k = 2 →
    ∃ t, exec (.tensorComplete c 5) s = .next t ∧ OnlyElts s c.val [d] t ∧ ∀ i, i < d.count → v t d i = v s a i)

/-- R139. -/
def Obligations.EventWaits : Prop := ∀ (a : Agent) (s : State),
  (∀ w, Issues 0x045 (waitFlds w fA) a w s → wA w ≤ 15 → ∃ t, exec (.waite a w) s = .next t ∧
    if (s.regE a (wA w) - waitVal a w s).toNat < 2 ^ 15 then Retires a [] [] [] [] s t
    else Stalls a [] (.waite (wA w) (waitVal a w s)) s t) ∧
  (∀ e v, s.stallOf a = some (.waite e v) → s.awake a = true → ∃ t, exec (.waiteResume a) s = .next t ∧
    if (s.regE a e - v).toNat < 2 ^ 15 then Resumes a s t else t = s) ∧
  (∀ w, Issues 0x084 (waitFlds w fDst) a w s → wDst w ≤ 15 → ∃ t, exec (.evset a w) s = .next t ∧ Retires a [] [wDst w] [] [] s t ∧
    t.regE a (wDst w) = waitVal a w s)

/-- R140 (FENCE), R159. That a control core passes FENCE at once is the model's choice (log 40). -/
def Obligations.Fences : Prop :=
  (∀ (a : Agent) (w : Word) (s : State), Issues 0x080 [(6, 0)] a w s → ∃ t, exec (.fence a w) s = .next t ∧
    match a with
    | .core _ => Retires a [] [] [] [] s t
    | .seq c => (unitsDone (s.cl c.val) (w.setWidth 7) (s.cl c.val).nextJob → Retires a [] [] [] [] s t) ∧
        (¬unitsDone (s.cl c.val) (w.setWidth 7) (s.cl c.val).nextJob → Stalls a [] (.fence (w.setWidth 7) (s.cl c.val).nextJob) s t)) ∧
  (∀ (c : Fin 768) (s : State) (m : BitVec 7) (b : Nat), s.stallOf (.seq c) = some (.fence m b) → s.awake (.seq c) = true →
    ∃ t, exec (.fenceResume (.seq c)) s = .next t ∧
      (unitsDone (s.cl c.val) m b → Resumes (.seq c) s t) ∧ (¬unitsDone (s.cl c.val) m b → t = s))

/-- R140 (BAR). -/
def Obligations.Barriers : Prop :=
  (∀ (c : Fin 768) (w : Word) (s : State), Issues 0x081 [] (.seq c) w s →
    ∃ t, exec (.bar (.seq c) w) s = .next t ∧ Stalls (.seq c) [] .bar s t) ∧
  (∀ (id : TaskId) (s : State) (T : Task), s.findTask id = some T → s.live = true → T.fault = none → T.clusters ≠ [] →
    T.clusters.Nodup → (∀ c ∈ T.clusters, c < 768) →
    ((∃ pc, ∀ c ∈ T.clusters, (s.cl c).seq.run = .stalled .bar ∧ (s.cl c).seq.pc = pc) →
      ∃ t, exec (.barRelease id) s = .next t ∧ Only [.clusters] s t ∧ (∀ c, c ∉ T.clusters → t.cl c = s.cl c) ∧
        ∀ c : Fin 768, c.val ∈ T.clusters → (t.cl c.val).seq.run = .running ∧ GoesOn (.seq c) s t ∧
          { t.cl c.val with seq := Seq.reset } = { s.cl c.val with seq := Seq.reset } ∧
          (t.cl c.val).seq.s = (s.cl c.val).seq.s ∧ (t.cl c.val).seq.e = (s.cl c.val).seq.e) ∧
    ((∃ c ∈ T.clusters, (s.cl c).seq.run ≠ .stalled .bar) → exec (.barRelease id) s = .next s))

/-- R141. A boundary within the hold of a gear change is put off to its end (R449). -/
def Obligations.Phases : Prop :=
  (∀ (c : Fin 768) (w : Word) (s : State) (T : Task), Issues 0x082 [(7, 0)] (.seq c) w s → s.taskOn c.val = some T →
    if T.phases.getLsbD (w.toNat % 256) then ∃ t, exec (.phase (.seq c) w) s = .next t ∧ Stalls (.seq c) [] (.phase (w.setWidth 8)) s t
    else exec (.phase (.seq c) w) s = .next (s.faultAt (.seq c) w stPhaseUndeclared)) ∧
  (∀ (id : TaskId) (s : State), s.live = true → s.clk.holding = true →
    exec (.phaseBoundary id) s = .next (s.setClk { s.clk with latePhases := s.clk.latePhases ++ [id] })) ∧
  (∀ (id : TaskId) (s : State) (T : Task), s.findTask id = some T → s.nightwatch = true → s.clk.holding = false → T.st = .running →
    T.fault = none → T.clusters ≠ [] → T.clusters.Nodup → s.allRun T = true →
    (∀ c ∈ T.clusters, c < 768 ∧ (s.cl c).units.all (fun kv => kv.2.isEmpty) = true) →
    (∀ k, (∀ c ∈ T.clusters, (s.cl c).seq.run = .stalled (.phase k)) → s.appendsDiffer id.part.val T.batches = false →
      let s1 := ((s.phaseEnd T).rangeCloseAll T).kvBoundary id.part.val T.batches
      ∃ t, exec (.phaseBoundary id) s = .next t ∧
        (s1.mustPark T = true → (s1.hif.retainS ≠ 0 ∨ (s1.hif.detachReq = false ∧ ∀ p, (s1.pt p).detachReq = false)) →
          (∃ T', t.findTask id = some T' ∧ T'.st = .parked) ∧ ∀ c, (t.cl c).seq = (s.cl c).seq) ∧
        (s1.mustPark T = false → ∀ c : Fin 768, if c.val ∈ T.clusters then (t.cl c.val).seq.run = .running ∧ GoesOn (.seq c) s t ∧
          (t.cl c.val).seq.s = (s.cl c.val).seq.s ∧ (t.cl c.val).seq.e = (s.cl c.val).seq.e else (t.cl c.val).seq = (s.cl c.val).seq)) ∧
    (∀ c ∈ T.clusters, ∀ d ∈ T.clusters, ∀ k m, (s.cl c).seq.run = .stalled (.phase k) → (s.cl d).seq.run = .stalled (.phase m) → k ≠ m →
      (∀ c ∈ T.clusters, ∃ n, (s.cl c).seq.run = .stalled (.phase n)) →
      ∃ t, exec (.phaseBoundary id) s = .next t ∧ (∀ c ∈ T.clusters, (t.cl c).seq.run = .faulted) ∧
        ∃ T' f, t.findTask id = some T' ∧ T'.fault = some f ∧ f.status = stPhaseMismatch))

/-- R142. That a tick equal to the counter waits, and the predicate with it, is the model's choice (log 40). -/
def Obligations.TickWaits : Prop := ∀ (a : Agent) (s : State),
  (∀ w, Issues 0x083 [fDst, fA] a w s → wDst w ≤ 7 → ∃ t, exec (.waitt a w) s = .next t ∧
    if (s.regS a (wA w)).toNat < s.clk.merTick.toNat then Retires a [] [] [wDst w] [] s t ∧ t.regP a (wDst w) = true
    else Stalls a [wDst w] (.waitt (s.regS a (wA w))) s t ∧ t.regP a (wDst w) = false) ∧
  (∀ v, s.stallOf a = some (.waitt v) → s.awake a = true → ∃ t, exec (.waittResume a) s = .next t ∧
    if v.toNat ≤ s.clk.merTick.toNat then Resumes a s t else t = s)

/-- R143; that the time has passed is what the row says. -/
def Obligations.WaitTimeout : Prop := ∀ (c : Fin 768) (s : State) (T : Task) (x : Stall),
  (s.cl c.val).seq.run = .stalled x → x ≠ .hostLost → (∀ u, x ≠ .unitFull u) → (∀ h, x ≠ .rngsRel h) →
  s.taskOn c.val = some T → T.fault = none → T.clusters.Nodup → s.live = true →
  if (s.pt T.id.part.val).waitLimit ≠ 0 ∧ T.st = .running ∧ s.hif.hostLost = false ∧ (∀ d ∈ T.clusters, (s.cl d).seq.run ≠ .stalled .hostLost) then
    ∃ t, exec (.waitTimeout c) s = .next t ∧ Only [.clusters, .tasks, .freeTick] s t ∧
      (∀ d ∈ T.clusters, (t.cl d).seq.run = .faulted ∧
        fld (t.cl d).faultReg 63 48 = (if d = c.val then stWaitTimeout else stTaskAborted).toNat) ∧
      (∀ d, d ∉ T.clusters → t.cl d = s.cl d) ∧ ∃ T' f, t.findTask T.id = some T' ∧ T'.fault = some f ∧ f.status = stWaitTimeout
  else exec (.waitTimeout c) s = .next s

/-- R137, R148: issue, and the issue of a sequencer that stalled for room in the queue. -/
def Obligations.TensorIssue : Prop := ∀ r ∈ tensorRows, ∀ (c : Fin 768) (w : Word) (s : State) (j1 : Job), Passes r c w s → Issuable r c w s j1 →
  (∃ t, exec (r.2.1 (.seq c) w) s = .next t ∧ Issued r c w s j1 t) ∧
  ∀ s0 u, s0.stallOf (.seq c) = some (.unitFull u) → s0.awake (.seq c) = true → ((s0.cl c.val).unit u).length < 16 → s0.unstall (.seq c) = s →
    ∃ t, exec (.unitQueueResume c) s0 = .next t ∧ Issued r c w s j1 t

/-- R134, R137, R145, R491. -/
def Obligations.TensorIssueStops : Prop := ∀ r ∈ tensorRows, ∀ (c : Fin 768) (w : Word) (s : State),
  let a : Agent := .seq c
  let f := r.2.2 a w s
  let q := (s.cl c.val).unit f.op.unit
  (∀ st, s.ready a w = true → classOp w = r.1 → firstFault (tensorChecks s c.val w f.os f.chk) = some st →
    exec (r.2.1 a w) s = .next ((if st = stSplitList then
      s.modCl c.val fun x => { x with splitFaults := satAdd x.splitFaults 1 } else s).faultAt a w st)) ∧
  (Passes r c w s →
    (f.chk.hold = true → ∃ t, exec (r.2.1 a w) s = .next t ∧ Stalls a [] .hostLost s t) ∧
    (f.chk.hold = false → f.empty = true → q = [] → ∃ t, exec (r.2.1 a w) s = .next t ∧ match wEvent w with
      | none => Retires a [] [] [] [] s t
      | some e => Retires a [] [e] [] [] s t ∧ t.regE a e = s.regE a e + 1) ∧
    (f.chk.hold = false → (f.empty = false ∨ q ≠ []) → 16 ≤ q.length →
      ∃ t, exec (r.2.1 a w) s = .next t ∧ Stalls a [] (.unitFull f.op.unit) s t) ∧
    (∀ st, f.chk.hold = false → f.empty = false → q.length < 16 → (f.act c.val (f.job c.val w s) s).2 = .error st →
      exec (r.2.1 a w) s = .next ((f.act c.val (f.job c.val w s) s).1.faultAt a w st))) ∧
  (∀ u, s.stallOf a = some (.unitFull u) → s.awake a = true → ((s.cl c.val).unit u).length < 16 → classOp w = r.1 →
    (s.cl c.val).seq.prog[(s.cl c.val).seq.pc]? = some w → exec (.unitQueueResume c) s = exec (r.2.1 a w) (s.unstall a))

/-- R138, R144. -/
def Obligations.TensorCompletes : Prop := ∀ (c : Fin 768) (u : Fin 7) (s : State) (j : Job) (rest : List Job),
  s.live = true → (s.cl c.val).cstate = .run → (s.cl c.val).unit u.val = j :: rest → (∀ y ∈ rest, y.id ≠ j.id) →
  (u = 0 ∧ TilesDone (s.cl c.val) j ∨ u = 1 ∨ u = 2 ∨ u = 6) →
  ∃ t, exec (.tensorComplete c u) s = .next t ∧ ((t.cl c.val).unit u.val).length = rest.length ∧
    (∀ (i : Nat) (y : Job), rest[i]? = some y → ∃ y' : Job, ((t.cl c.val).unit u.val)[i]? = some y' ∧ y'.id = y.id ∧ y'.word = y.word ∧ y'.descs = y.descs ∧
      ((u ≠ 0 ∨ ∀ k, k < 16 → ∀ b, ((s.cl c.val).mcore k).buf = some b → b.job ≠ y.id) → { y' with taint := y.taint } = y)) ∧
    (t.cl c.val).seq.s = (s.cl c.val).seq.s ∧ (t.cl c.val).seq.d = (s.cl c.val).seq.d ∧ (t.cl c.val).seq.pc = (s.cl c.val).seq.pc ∧
    (t.cl c.val).win = (s.cl c.val).win ∧
    (∀ T, s.taskOn c.val = some T → c.val ∈ T.clusters → j.fault = 0 → (t.cl c.val).seq.run ≠ .faulted →
      (∀ e, t.regE (.seq c) e = s.regE (.seq c) e + if wEvent j.word = some e then 1 else 0) ∧
      ∀ i, 56 ≤ i → (s.statusOf (.seq c)).getLsbD i = true → (t.statusOf (.seq c)).getLsbD i = true)

/-- R119, R120. -/
def Obligations.ScratchWrites : Prop := ∀ (c : Fin 768) (s : State) (j : Job) (rest : List Job),
  s.live = true → (s.cl c.val).cstate = .run → (s.cl c.val).unit 2 = j :: rest → j.dead = false → (j.op = .sfill ∨ j.op = .scopy) →
  let low : Nat → Nat := fun i => (nth 0 j.scal i).toNat % 2 ^ 32
  let n := low 2
  let dst := 128 * winBase (mget 0 (s.cl c.val).win (fld j.word 30 29)) + low 0
  let src := 128 * winBase (mget 0 (s.cl c.val).win (fld j.word 28 27)) + low 1
  ∃ t, exec (.tensorComplete c 2) s = .next t ∧
    (j.op = .sfill → ∀ i, i < n →
      t.cell (.spad c.val (dst + i)) = BitVec.ofNat 8 ((nth 0 j.scal 1).toNat >>> (8 * ((low 0 + i) % 8)))) ∧
    (j.op = .scopy → j.taints (s.cl c.val) = [] → ∀ i, i < n → t.cell (.spad c.val (dst + i)) = s.cell (.spad c.val (src + i))) ∧
    (∀ x, (x < dst ∨ dst + n ≤ x) → t.cell (.spad c.val x) = s.cell (.spad c.val x)) ∧
    (∀ d, d ≠ c.val → (t.cl d).spad = (s.cl d).spad) ∧ t.mem.dram = s.mem.dram ∧ t.mem.hostMem = s.mem.hostMem

/-- R44, R45. -/
def Obligations.AccumulatorAdd : Prop := ∀ (e : AccEntry) (c y : Int) (f : Nat),
  -2 ^ 31 ≤ c → c < 2 ^ 31 → -512 ≤ y → y < 512 → f < 4 →
  let r := (accAdd e c y f).1
  let q := e.q.toInt
  let x := tagX e.tag
  let m := min x y
  let c' := c * 2 ^ (y - m).toNat
  let q' := q * 2 ^ (x - m).toNat
  let fits : Int → Prop := fun v => -2 ^ 31 ≤ v ∧ v < 2 ^ 31
  let bound : Int → Int := fun v => if v < 0 then -2 ^ 31 else 2 ^ 31 - 1
  tagValid r.tag = true ∧
  (tagValid e.tag = false → r.q.toInt = c ∧ tagX r.tag = y ∧ tagFmt r.tag = f ∧ tagMix r.tag = tagMix e.tag ∧ tagSat r.tag = tagSat e.tag) ∧
  (tagValid e.tag = true → tagFmt r.tag = max (tagFmt e.tag) f ∧ tagMix r.tag = (tagMix e.tag || decide (tagFmt e.tag ≠ f)) ∧
    (fits c' → fits q' → fits (q' + c') → r.q.toInt = q' + c' ∧ tagX r.tag = m ∧ tagSat r.tag = tagSat e.tag) ∧
    (¬fits c' → r.q.toInt = bound c ∧ tagX r.tag = x ∧ tagSat r.tag = true) ∧
    (¬fits q' → r.q.toInt = bound q ∧ tagX r.tag = y ∧ tagSat r.tag = true) ∧
    (fits c' → fits q' → ¬fits (q' + c') → r.q.toInt = bound (q' + c') ∧ tagX r.tag = m ∧ tagSat r.tag = true))

/-- R46, R47, R51, R82, R84, R260. A tile repeats one format wider where an entry saturated, or more of its activations were clipped than
LIMIT; else the bank holds the entries of the run. -/
def Obligations.MatrixTiles : Prop := ∀ (c : Fin 768) (s : State), s.live = true →
  (∀ (k : Fin 16) (j : Job) (b : Nat), NextTile c k s j b →
    let bk0 := ((s.cl c.val).mcore k.val).bank b
    let f := if mget 0 j.runFmt k.val = 0 then j.fmt else mget 0 j.runFmt k.val - 1
    let tile := k.val + 16 * mget 0 j.coreDone k.val
    let u := (if mAcc j.word then [j.ten 1, j.ten 2, j.ten 0] else [j.ten 1, j.ten 2]).foldl (fun u x => u.touchTen c.val x) s
    let r := runTile (u.cl c.val) j tile f bk0.ents bk0.undef
    let repeats := j.esc = true ∧ f < 3 ∧ (0 < r.sats ∨ j.limit < r.clips)
    ((s.cl c.val).spadFlaw = [] → u = s) ∧ ∃ t, exec (.tileEnd c k) s = .next t ∧ ∃ j' ∈ (t.cl c.val).unit 0, j'.id = j.id ∧
      (repeats → mget 0 j'.runFmt k.val = f + 2 ∧ mget 0 j'.runReps k.val = mget 0 j.runReps k.val + 1 ∧
        mget 0 j'.coreDone k.val = mget 0 j.coreDone k.val ∧ ((t.cl c.val).mcore k.val).bank b = bk0) ∧
      (¬repeats → mget 0 j'.coreDone k.val = mget 0 j.coreDone k.val + 1 ∧ mget 0 j'.runFmt k.val = 0 ∧
        let bk := ((t.cl c.val).mcore k.val).bank b
        bk.st = .active ∧ bk.held = mKeep j.word ∧ bk.job = j.id ∧ bk.tile = tile ∧ bk.fmt = f ∧ bk.ents = r.ents ∧ bk.undef = r.bad ∧
        ((t.cl c.val).mcore k.val).bank (1 - b) = ((s.cl c.val).mcore k.val).bank (1 - b) ∧
        let st := (mget 0 j'.tstat tile).toNat
        (f < 4 → st / 2 ^ 26 % 4 = f ∧ st.testBit 31 = decide (0 < r.sats) ∧ st.testBit 28 = decide (0 < mget 0 j.runReps k.val) ∧
          st % 2 ^ 16 = min r.sats 65535))) ∧
  (∀ (k : Fin 16) (b : Fin 2),
    let m := (s.cl c.val).mcore k.val
    ((m.bank b.val).due = true → (m.bank b.val).st = .active → (m.bank (1 - b.val)).st ≠ .draining →
      ∃ t, exec (.bankDrain c k b) s = .next t ∧ Only [.clusters] s t ∧ (∀ d, d ≠ c.val → t.cl d = s.cl d) ∧
        ((t.cl c.val).mcore k.val).buf = none ∧ ((t.cl c.val).mcore k.val).bank b.val = { m.bank b.val with st := .draining, due := false } ∧
        ((t.cl c.val).mcore k.val).bank (1 - b.val) = m.bank (1 - b.val) ∧ (m.buf = none → (t.cl c.val).units = (s.cl c.val).units) ∧
        ∀ o j, m.buf = some o → ((s.cl c.val).unit 0).find? (fun y => decide (y.id = o.job)) = some j →
          ∃ j', ((t.cl c.val).unit 0).find? (fun y => decide (y.id = o.job)) = some j' ∧ j'.drained = j.drained + 1) ∧
    (¬((m.bank b.val).due = true ∧ (m.bank b.val).st = .active ∧ (m.bank (1 - b.val)).st ≠ .draining) →
      exec (.bankDrain c k b) s = .next s) ∧
    ((m.bank b.val).st = .draining → ∃ t, exec (.bankDrainEnd c k b) s = .next t ∧ Only [.clusters] s t ∧
      (∀ d, d ≠ c.val → t.cl d = s.cl d) ∧ (t.cl c.val).units = (s.cl c.val).units ∧
      ((t.cl c.val).mcore k.val).bank b.val = Bank.reset ∧ ((t.cl c.val).mcore k.val).bank (1 - b.val) = m.bank (1 - b.val) ∧
      ((t.cl c.val).mcore k.val).buf = some { job := (m.bank b.val).job, tile := (m.bank b.val).tile, ents := (m.bank b.val).ents }) ∧
    ((m.bank b.val).st ≠ .draining → exec (.bankDrainEnd c k b) s = .next s)) ∧
  (∀ j, ((s.cl c.val).unit 0).find? (·.waiting) = some j →
    let p := (s.cl c.val).part.toNat
    let r := s.invocFmt (finPart p) j.layer j.invoc j.ref j.pin j.thresh
    (s.invocPending p j.layer (j.invoc - 2) = false →
      exec (.invocationRelease c) s = .next (r.1.modJob c.val 0 j.id fun y => { y with waiting := false, fmt := r.2 })) ∧
    (s.invocPending p j.layer (j.invoc - 2) = true → (∀ T, s.taskOn c.val = some T → T.fault = none) →
      exec (.invocationRelease c) s = .next s)) ∧
  (∀ j, ((s.cl c.val).unit 4).find? (·.waiting) = some j →
    (kvReady s c.val j = true → exec (.kvappResume c) s = .next (s.modJob c.val 4 j.id fun y => { y with waiting := false })) ∧
    (kvReady s c.val j = false → exec (.kvappResume c) s = .next s))

/-- R64, R66, R185, R186, R188. That a handle is one more than the last, and 1 after 2^64 - 1, is the model's choice (log 13). -/
def Obligations.StreamClaims : Prop := ∀ (c : Fin 768) (w : Word) (s : State) (T : Task), s.taskOn c.val = some T →
  let a : Agent := .seq c
  let p := T.id.part.val
  let P := s.pt p
  (Issues 0x280 [fDst, fA, fB, (35, 35)] a w s →
    let lo := (s.regS a (wA w)).setWidth 32
    let hi := (s.regS a (wB w)).setWidth 32
    let h := if P.nextHandle = 0 then 1 else P.nextHandle
    let clash := ∃ x ∈ P.claims, (x.task ≠ T.id ∨ x.handle ≠ h) ∧ x.seed = T.seed ∧ x.lo.toNat ≤ hi.toNat ∧ lo.toNat ≤ x.hi.toNat
    (wE w = false → exec (.rngsClaim a w) s = .next (s.faultAt a w stExpertField)) ∧
    (wE w = true → ¬(2 ^ 31 ≤ lo.toNat ∧ 2 ^ 31 ≤ hi.toNat ∧ lo.toNat ≤ hi.toNat) →
      exec (.rngsClaim a w) s = .next (s.faultAt a w stStreamClass)) ∧
    (wE w = true → 2 ^ 31 ≤ lo.toNat → lo.toNat ≤ hi.toNat →
      (clash → w.getLsbD 35 = false → ∃ s', exec (.rngsClaim a w) s = .next (s'.faultAt a w stStreamAlias) ∧ Only [.parts] s s' ∧
        (s'.pt p).claims = P.claims) ∧
      ((¬clash ∨ w.getLsbD 35 = true) → 256 ≤ P.claims.length →
        ∃ s', exec (.rngsClaim a w) s = .next (s'.faultAt a w stStreamLimit) ∧ Only [.parts] s s' ∧ (s'.pt p).claims = P.claims) ∧
      ((¬clash ∨ w.getLsbD 35 = true) → P.claims.length < 256 →
        ∃ t s', exec (.rngsClaim a w) s = .next t ∧ Only [.parts] s s' ∧ Retires a [wDst w] [] [] [] s' t ∧
          h ≠ 0 ∧ t.regS a (wDst w) = (if wDst w = 0 then 0 else h) ∧ (t.pt p).nextHandle = h + 1 ∧
          (t.pt p).claims = P.claims ++ [{ seed := T.seed, lo := lo, hi := hi, task := T.id, handle := h, permit := w.getLsbD 35 }] ∧
          ∀ q, q ≠ p → t.pt q = s.pt q))) ∧
  (Issues 0x281 [fA] a w s → wE w = true →
    let h := s.regS a (wA w)
    match P.claimBy T.id h with
    | none => exec (.rngsRel a w) s = .next (s.faultAt a w stStreamHandle)
    | some x => if s.claimBusy T x then ∃ t, exec (.rngsRel a w) s = .next t ∧ Stalls a [] (.rngsRel h) s t
        else ∃ t, exec (.rngsRel a w) s = .next t ∧ Retires a [] [] [] [] (s.claimDrop T.id h) t ∧ (t.pt p).claimBy T.id h = none) ∧
  (∀ h x, s.stallOf a = some (.rngsRel h) → P.claimBy T.id h = some x → s.awake a = true →
    (s.claimBusy T x = false → ∃ t, exec (.rngsReleaseDone c) s = .next t ∧ Resumes a (s.claimDrop T.id h) t ∧ (t.pt p).claimBy T.id h = none) ∧
    (s.claimBusy T x = true → exec (.rngsReleaseDone c) s = .next s)) ∧
  (∀ h, s.stallOf a = some (.rngsRel h) → P.claimBy T.id h = none → s.awake a = true →
    ∃ t, exec (.rngsReleaseDone c) s = .next t ∧ Resumes a s t)

/-- R453, R485, R486 (reads). -/
def Obligations.RegisterReads : Prop := ∀ (fn : Fin 65) (off : BitVec 26) (s : State) (o : Nat), InService s →
  (windowOff s fn.val off.toNat = some o → ∀ r, regAt o = some (r, 8) → off.toNat % 8 = 0 →
    (∃ t, exec (.registerRead fn off 8) s = .next t ∧ Answers s (leBytes 8 (regRead s r)) t) ∧
    (grdArray o = false → grdArray (o + 4) = false → (∀ x, regAt (o + 4) ≠ some x) → windowOff s fn.val (off.toNat + 4) = some (o + 4) →
      ∃ t, exec (.registerRead fn off 4) s = .next t ∧ t.hif.cpl = .data (leBytes 4 (regRead s r % 2 ^ 32)) [] ∧
        ∀ u, InService u → u.hif.latch = t.hif.latch → windowOff u fn.val (off.toNat + 4) = some (o + 4) →
          ∃ v, exec (.registerRead fn (off + 4) 4) u = .next v ∧ v.hif.cpl = .data (leBytes 4 (regRead s r / 2 ^ 32)) [])) ∧
  (windowOff s fn.val off.toNat = some o → ∀ r, regAt o = some (r, 4) → grdArray o = false → off.toNat % 4 = 0 →
    ∃ t, exec (.registerRead fn off 4) s = .next t ∧ Answers s (leBytes 4 (regRead s r % 2 ^ 32)) t) ∧
  (off.toNat % 4 = 0 → (windowOff s fn.val off.toNat = none ∨
      (windowOff s fn.val off.toNat = some o ∧ halfAt o = none ∧ grdArray o = false)) →
    ∃ t, exec (.registerRead fn off 4) s = .next t ∧ Answers s [0, 0, 0, 0] t)

/-- R338, R485, R486 (writes). -/
def Obligations.RegisterWrites : Prop := ∀ (s : State) (v : Nat), InService s →
  (∀ x ∈ settingRegs, ∀ r, regAt x.1 = some (r, x.2.1) → ∃ t, exec (.registerWrite 0 (BitVec.ofNat 26 x.1) x.2.1 v) s = .next t ∧
    regRead t r = (v % 2 ^ (8 * x.2.1)) &&& x.2.2.1 ∧ Only [x.2.2.2] s t) ∧
  (∀ o ∈ readOnlyRegs, ∀ n ∈ [4, 8], exec (.registerWrite 0 (BitVec.ofNat 26 o) n v) s = .next s) ∧
  (∀ (fn : Fin 65) (off : BitVec 26), off.toNat % 4 = 0 → (∀ o, windowOff s fn.val off.toNat = some o → halfAt o = none ∧ grdArray o = false) →
    exec (.registerWrite fn off 4 v) s = .next s) ∧
  (∀ x ∈ pageRegs, ∀ (p : Fin 64) (fn : Fin 65), (fn = 0 ∨ s.partOfFn fn.val = some p.val) →
    let off := BitVec.ofNat 26 ((if fn = 0 then 0x400000 + 0x1000 * p.val else 0) + x.1)
    ((s.pt p.val).defined = true → ∀ r, regAt (0x400000 + 0x1000 * p.val + x.1) = some (r, x.2.1) →
      ∃ t, exec (.registerWrite fn off x.2.1 v) s = .next t ∧ regRead t r = (v % 2 ^ (8 * x.2.1)) &&& x.2.2 ∧ Only [.parts] s t ∧
        ∀ q, q ≠ p.val → t.pt q = s.pt q) ∧
    ((s.pt p.val).defined = false → exec (.registerWrite fn off x.2.1 v) s = .next s))

/-- R190, R339. -/
def Obligations.ManagementMoves : Prop := ∀ (k : Fin 8) (w : Word) (s : State),
  let a : Agent := .core k
  (Issues 0xFC4 [fDst, fA] a w s →
    let o := (s.regS a (wA w)).toNat
    (∀ r n, regAt o = some (r, n) → ∃ t, exec (.mrd a w) s = .next t ∧ Retires a [wDst w] [] [] [] s t ∧
      t.regS a (wDst w) = if wDst w = 0 then 0 else BitVec.ofNat 64 (if n = 8 then regRead s r else regRead s r % 2 ^ 32)) ∧
    (regAt o = none → grdArray o = false → touchesReg o 1 = false → ∃ t, exec (.mrd a w) s = .next t ∧ Retires a [wDst w] [] [] [] s t ∧
      t.regS a (wDst w) = 0)) ∧
  (Issues 0xFC5 [fA, fB] a w s →
    let o := (s.regS a (wA w)).toNat
    let v := s.regS a (wB w)
    (∀ x ∈ settingRegs, o = x.1 → ∀ r, regAt o = some (r, x.2.1) → ∃ t, exec (.mwr a w) s = .next t ∧ GoesOn a s t ∧
      RegsKept a [] [] [] [] s t ∧ regRead t r = (v.toNat % 2 ^ (8 * x.2.1)) &&& x.2.2.1 ∧ Only [x.2.2.2, .ccores] s t) ∧
    (o = 0x200000 → ∃ t, exec (.mwr a w) s = .next t ∧ GoesOn a s t ∧
      if s.guardApplies then t.lnk.chip = v.setWidth 14 ∧ Only [.lnk, .ccores] s t else Only [.ccores] s t))

/-! ### The system class -/

/-- Table 8.19, R128. Which window WINW loads where DST names no cluster is open (log 63, the model's choice: any, or none). -/
def Obligations.SystemTasks : Prop := ∀ (k : Fin 8) (w : Word) (s : State),
  let a : Agent := .core k
  (Issues 0xFC0 [fDst, fA, (1, 0)] a w s →
    let d := (s.regS a (wDst w)).toNat
    let v := s.regS a (wA w)
    ∃ t, exec (.winw a w) s = .next t ∧ Only [.clusters, .ccores, .freeTick] s t ∧ GoesOn a s t ∧ RegsKept a [] [] [] [] s t ∧
      ∃ d', (d < 768 → d' = d) ∧
        ∀ c, t.cl c = if c = d' ∧ d' < 768 then { s.cl c with win := mset 0 (s.cl c).win (fld w 1 0) (v &&& 0x800000007FFF7FFF) } else s.cl c) ∧
  (Issues 0xFC2 [fA] a w s → ∃ t, exec (.tpark a w) s = .next t ∧ Only [.tasks, .ccores] s t ∧ GoesOn a s t ∧ RegsKept a [] [] [] [] s t ∧
    t.tasks = match s.tasks.find? fun T => decide (T.id.hnd = s.regS a (wA w)) with
      | some T => s.tasks.map fun x => if x.id = T.id then { x with parkReq := true } else x
      | none => s.tasks) ∧
  (Issues 0xFC3 [fA] a w s → ∃ t, exec (.tresume a w) s = .next t ∧ GoesOn a s t ∧
    match s.tasks.find? fun T => decide (T.id.hnd = s.regS a (wA w)) with
    | some T => T.st = .parked → T.fault = none → s.allRun T = true → T.clusters.Nodup → s.tasks.Pairwise (fun x y => x.id ≠ y.id) →
        ∀ c : Fin 768, c.val ∈ T.clusters → (t.cl c.val).seq.run = .running ∧ GoesOn (.seq c) s t
    | none => Only [.ccores] s t) ∧
  (Issues 0xFC1 [fA] a w s → ∃ t, exec (.tstart a w) s = .next t ∧ GoesOn a s t ∧
    match s.tasks.find? fun T => decide (T.id.hnd = s.regS a (wA w)) with
    | some T => ∀ prog ph s1, s.loadProg T.id.part T.prog.toNat T.len T.phasesAt.toNat = (.ok (prog, ph), s1) → T.clusters.Nodup →
        (∀ T' ∈ t.tasks, T'.id = T.id → T'.phases = ph ∧ T'.st = .running) ∧ ∀ i, i < T.clusters.length →
          let x := t.cl (nth 0 T.clusters i)
          x.seq.run = .running ∧ x.seq.prog = prog ∧ x.seq.pc = T.start ∧ x.seq.loops = [] ∧ x.seq.status = 0 ∧
            mget 0 x.seq.s 1 = BitVec.ofNat 64 i ∧ mget 0 x.seq.s 2 = BitVec.ofNat 64 T.clusters.length ∧ mget 0 x.seq.s 3 = T.args ∧
            x.seq.e = [] ∧ x.seq.p = [] ∧ x.seq.d = [] ∧ x.task = some T.id
    | none => Only [.ccores] s t)

/-- R375 to R380, R400. The work that a release or a reset ends has the status named, and its sequences end; what waited leaves in the
order in which it arose. That a function reset also clears the function's latched reads, its D3 state and the partition's counters is
the model's choice (log 57), and so is that an ATTACH merges the held entries of its partitions (log 58). -/
def Obligations.HostLossEvents : Prop := ∀ (s : State) (p : Fin 64),
  (exec .heartbeat s = .next (if s.served = true ∧ s.hif.hostLost = false ∧ s.hif.detached = false then
    s.setHif { s.hif with hbArmed := true } else s)) ∧
  (exec (.partitionHeartbeat p) s = .next (if s.served = true ∧ s.hostHeld p.val = false then
    s.modPt p.val fun P => { P with phbArmed := true } else s)) ∧
  (s.served = true → s.hif.hbArmed = true → s.lost none = false → ∃ s1 : State, exec .heartbeatExpiry s = .next (s1.unpark.retainNow none) ∧
    s1.hif.hostLost = true ∧ s1.hif.hbArmed = false ∧ Only [.hif, .fw, .log, .mem, .freeTick] s s1 ∧ s1.mem.hostMem = s.mem.hostMem ∧
    ∀ act, s.fw.act = some act → if act.st = .switching then s1.fw = s.fw else s1.fw.act = none ∧ s1.fw.result = stHostLost) ∧
  ((s.served = false ∨ s.hif.hbArmed = false ∨ s.lost none = true) → exec .heartbeatExpiry s = .next s) ∧
  (s.served = true → (s.pt p.val).phbArmed = true → (s.pt p.val).phbMs ≠ 0 → s.hostHeld p.val = false →
    ∃ s1 : State, exec (.partitionHbExpiry p) s = .next (s1.unpark.retainNow (some p)) ∧ (s1.pt p.val).hostLost = true ∧
      (s1.pt p.val).phbArmed = false ∧ Only [.parts, .log, .mem, .freeTick] s s1 ∧ s1.mem.hostMem = s.mem.hostMem ∧
      ∀ q, q ≠ p.val → s1.pt q = s.pt q) ∧
  (s.nightwatch = true → s.hif.retainS ≠ 0 →
    (s.lost none = false → ∃ t, exec (.detach none) s = .next t ∧
      if s.allParked (fun _ => true) then t.hif.detached = true ∧ t.hif.hbArmed = false else t.hif.detachReq = true) ∧
    (s.lost (some p) = false → ∃ t, exec (.detach (some p)) s = .next t ∧ if s.allParked (fun q => decide (q = p.val)) then
      (t.pt p.val).detached = true ∧ (t.pt p.val).phbArmed = false else (t.pt p.val).detachReq = true) ∧
    (s.hif.detachReq = true → exec (.detachParkTimeout none) s =
      .next (s.setHif { s.hif with detached := true, detachReq := false, hbArmed := false })) ∧
    ((s.pt p.val).detachReq = true → exec (.detachParkTimeout (some p)) s =
      .next (s.modPt p.val fun P => { P with detached := true, detachReq := false, phbArmed := false }))) ∧
  (s.nightwatch = true → ∃ s1 : State, exec (.attach (some p)) s = .next (s1.hostBack.unpark) ∧ (s1.pt p.val).hostLost = false ∧
    (s1.pt p.val).detached = false ∧ (s1.pt p.val).phbArmed = true ∧ (s.hif.hostLost = false → s.hif.detached = false → (s1.pt p.val).held = [] ∧
      ∃ hs : List Held, hs.Perm (s.pt p.val).held ∧ hs.Pairwise (fun x y => x.tick ≤ y.tick) ∧ s1 = State.release
        (((s.modPt p.val fun P => { P with hostLost := false, detached := false, detachReq := false, phbArmed := true }).trace .attach).modPt
          p.val fun P => { P with held := [] }) p.val hs)) ∧
  (s.nightwatch = true → ∃ s1 : State, exec (.attach none) s = .next (s1.hostBack.unpark) ∧ s1.hif.hostLost = false ∧ s1.hif.detached = false ∧
    s1.hif.hbArmed = true ∧ s1.hif.msixHeld = [] ∧
    (∀ q, (s.pt q).defined = true → (s.pt q).hostLost = false → (s.pt q).detached = false → (s1.pt q).held = []) ∧
    let ps := (s.parts.map (·.1)).filter fun q => !((s.pt q).hostLost || (s.pt q).detached)
    ∃ (s0 : State) (ws : List Waiting), ws.Pairwise (fun x y => x.1 ≤ y.1) ∧
      ws.Perm ((ps.flatMap fun q => (s.pt q).held.map fun h => (h.tick, some (q, h), 0)) ++ s.hif.msixHeld.map fun x => (x.1.toNat, none, x.2)) ∧
      s1 = ws.foldl (fun (s : State) w => match w.2.1 with | some (q, h) => s.release q [h] | none => s.msix 0 w.2.2) s0 ∧
      Only [.hif, .parts, .log, .mem, .freeTick] s s0 ∧ s0.mem.hostMem = s.mem.hostMem ∧ s0.hif.msix = s.hif.msix) ∧
  (∀ (q : Nat) (st : BitVec 16), s.releaseWork q st =
    (((s.dropPlan q).endSeqs q).endTasks (fun T => decide (T.id.part.val = q)) st false).modPt q fun P => { P with held := [], evHeld := [] }) ∧
  (s.nightwatch = true → s.lost (some p) = true → ∃ t, exec (.retainExpiry (some p)) s = .next t ∧
    t = ((s.releaseWork p.val stHostLost).modPt p.val fun P => { P with
      rings := P.rings.map fun kv => (kv.1, { kv.2 with en := false, badSeq := none, entries := [] }) }) ∧
    (∀ T ∈ t.tasks, T.id.part ≠ p) ∧ (t.pt p.val).kvSeqs = [] ∧
    (t.pt p.val).held = [] ∧ (t.pt p.val).evHeld = [] ∧ ∀ n, ((t.pt p.val).ring n).en = false) ∧
  (s.nightwatch = true → s.lost none = true → ∃ t, exec (.retainExpiry none) s = .next t ∧ t.hif.msixHeld = [] ∧
    ∀ q ∈ s.parts.map (·.1), (∀ T ∈ t.tasks, T.id.part.val ≠ q) ∧ (t.pt q).kvSeqs = [] ∧ (t.pt q).held = [] ∧ (t.pt q).evHeld = [] ∧
      ∀ n, ((t.pt q).ring n).en = false) ∧
  (∀ x, (s.nightwatch = false ∨ s.lost x = false) → exec (.retainExpiry x) s = .next s) ∧
  (∀ k : Fin 64, s.nightwatch = true → s.partOfFn (k.val + 1) = some p.val → ∃ t, exec (.vfFlr k) s = .next t ∧
    t = (((s.dropLatch (k.val + 1)).releaseWork p.val stFuncReset).releaseContained p.val).modPt p.val Part.hostReset ∧
    (∀ T ∈ t.tasks, T.id.part ≠ p) ∧ (t.pt p.val).kvSeqs = [] ∧
    (t.pt p.val).rings = [] ∧ (t.pt p.val).hostWin = [] ∧ (t.pt p.val).evBase = 0 ∧ (t.pt p.val).evEn = false ∧ (t.pt p.val).held = [] ∧
    (t.pt p.val).phbMs = 0 ∧ k.val + 1 ∉ t.hif.d3) ∧
  (s.nightwatch = true → ∃ t, exec .pfFlr s = .next t ∧ t.hif.aperture = 0 ∧ t.hif.retainS = 0x003C ∧ t.hif.hbMs = 0x03E8 ∧
    t.hif.d3 = [] ∧ t.hif.latch = [] ∧ (∀ q, (t.pt q).hostWin = [] ∧ (t.pt q).phbMs = 0 ∧ (t.pt q).rings = [] ∧ (t.pt q).held = []) ∧
    (∀ q ∈ s.parts.map (·.1), (∀ T ∈ t.tasks, T.id.part.val ≠ q) ∧ (t.pt q).kvSeqs = []) ∧
    ∃ s1 : State, Only [.hif] s1 t ∧ s1 = (s.parts.map (·.1)).foldl (fun s q =>
      ((s.releaseWork q stFuncReset).releaseContained q).modPt q Part.hostReset) s)

/-- R359, R360, R433. That a link-down without an armed heartbeat changes nothing more, the sizes of the apertures and their resizing are the
model's choice (log 57); the sizes after reset are log 74. -/
def Obligations.PcieEvents : Prop := ∀ s : State,
  let armed : Prop := s.served = true ∧ s.hif.hbArmed = true ∧ s.lost none = false
  let low := s.setPwr { s.pwr with pins := { s.pwr.pins with perstN := false } }
  let start : Hif → Hif := fun h =>
    { h with linkUp := false, training := false, d3 := [], latch := [], cpl := .none, msix := [], apGib := h.apBoot, vfGib := Hif.reset.vfGib }
  (¬armed → exec .conventionalReset s = .next (low.setHif (start s.hif)) ∧ exec .hotReset s = .next (s.setHif (start s.hif)) ∧
    exec .pcieLinkDown s = .next (s.setHif { s.hif with linkUp := false })) ∧
  (armed → exec .conventionalReset s = .next ((low.setHif (start s.hif)).enterLost none) ∧
    exec .hotReset s = .next ((s.setHif (start s.hif)).enterLost none) ∧
    exec .pcieLinkDown s = .next ((s.setHif { s.hif with linkUp := false }).enterLost none)) ∧
  exec .perstDeassert s = .next ((s.setPwr { s.pwr with pins := { s.pwr.pins with perstN := true } }).setHif
    { s.hif with training := s.pwr.rails }) ∧
  (∀ g w, s.pwr.rails = true → s.pwr.pins.perstN = true → exec (.pcieLinkUp g w) s = .next (s.setHif { s.hif with
    linkUp := true, training := false, degraded := decide (g < 160 ∨ w < 8) })) ∧
  (∀ fn : Fin 65, (∃ t, exec (.d3hotEntry fn) s = .next t ∧ Only [.hif] s t ∧ fn.val ∈ t.hif.d3 ∧ ∀ x, x ≠ fn.val → (x ∈ t.hif.d3 ↔ x ∈ s.hif.d3)) ∧
    ∃ t, exec (.d0Return fn) s = .next t ∧ Only [.hif] s t ∧ ∀ x, x ∈ t.hif.d3 ↔ x ∈ s.hif.d3 ∧ x ≠ fn.val) ∧
  (∀ q, s.pwr.rails = false → exec (.configRequest q) s = .next (s.setHif { s.hif with cpl := .none })) ∧
  (∀ q, s.pwr.rails = true → s.pwr.boot ≠ .ready → s.pwr.boot ≠ .recovery →
    exec (.configRequest q) s = .next (s.setHif { s.hif with cpl := .retry })) ∧
  (∀ q, s.pwr.rails = true → (s.pwr.boot = .ready ∨ s.pwr.boot = .recovery) → ∃ t, exec (.configRequest q) s = .next t ∧ Only [.hif] s t ∧
    t.hif.cpl = .config t.cfgSpace ∧ t.cfgSpace.noSoftReset = true ∧ t.cfgSpace.ats = false ∧ t.cfgSpace.pageRequest = false ∧
    t.cfgSpace.pasid = false ∧ (s.grd.idFault = true → t.cfgSpace.serial = 0) ∧
    t.cfgSpace.pfGib = (match q with
      | .resize false g => if g = 16 ∨ g = 32 ∨ g = 64 ∨ g = 128 then g else s.hif.apGib
      | _ => s.hif.apGib) ∧
    t.cfgSpace.vfGib = (match q with
      | .resize true g => if g = 1 ∨ g = 2 ∨ g = 4 ∨ g = 8 ∨ g = 16 then g else s.hif.vfGib
      | _ => s.hif.vfGib))

/-- R361, R362, R464. -/
def Obligations.Apertures : Prop := ∀ (fn : Fin 65) (off : BitVec 37) (s : State), s.aperturesOn fn.val = true →
  (∀ (n : Nat) (rs : List (Nat × Nat)), apertureRuns s fn.val off.toNat n = .ok rs → rs.all (fun r => s.devOn r.1 r.2) = true →
    let s1 := rs.foldl (fun s r => s.vaultRead r.1 r.2) s
    ∃ t, exec (.apertureRead fn off n) s = .next t ∧ t.mem = s1.mem ∧
      (∃ ep : List Nat, t.hif.cpl = .data (rs.flatMap fun r => (List.range r.2).map fun i => s1.cell (.dram (r.1 + i))) ep ∧
        (ep = [] ↔ ∀ r ∈ rs, s1.devPoison r.1 r.2 = []) ∧
        ∀ x, rs = [(x, n)] → x % 32 = 0 → mwf false s1.mem.poison = true → ∀ i, i ∈ ep ↔ i % 32 = 0 ∧ i < n ∧ mget false s1.mem.poison ((x + i) / 32) = true) ∧ (s.mem.flaw = [] → s1 = s)) ∧
  (∀ (data : List Byte) (a : Nat), apertureRuns s fn.val off.toNat data.length = .ok [(a, data.length)] → s.devOn a data.length = true →
    s.mem.flaw = [] → ∃ t, exec (.apertureWrite fn off data false) s = .next t ∧ Only [.mem] s t ∧ t.mem.hostMem = s.mem.hostMem ∧
      ∀ x, t.cell (.dram x) = if a ≤ x ∧ x < a + data.length then nth 0 data (x - a) else s.cell (.dram x)) ∧
  (∀ (data : List Byte) (ep : Bool), apertureRuns s fn.val off.toNat data.length = .error true → fn = 0 ∧
    exec (.apertureRead fn off data.length) s = .next (s.setHif { s.hif with protDenied := satAdd s.hif.protDenied 1, cpl := .unsupported }) ∧
    exec (.apertureWrite fn off data ep) s = .next (s.setHif { s.hif with protDenied := satAdd s.hif.protDenied 1 }))

/-- R369 (a NOP does nothing else), R371, R372, R377: bytes 0 to 23 of a record are one posted write and bytes 24 to 31 the next, which is the
last request of the partition's function. That the interrupt follows the record is the model's reading (log 58). -/
def Obligations.Records : Prop :=
  (∀ (e : EntryId) (irq : Bool) (status esc : BitVec 16) (energy : Nat) (result : BitVec 32) (s : State),
    let t := s.complete e irq status esc energy result
    let r := (s.pt e.part.val).ring e.ring.val
    let a := recordAt s e
    (s.hostHeld e.part.val = false → s.glb.fatalSet = false → hostVal t a 4 = e.seq.toNat ∧ hostVal t (a + 4) 2 = status.toNat ∧ hostVal t (a + 6) 2 = esc.toNat ∧
      hostVal t (a + 8) 6 = min energy (2 ^ 48 - 1) ∧ hostVal t (a + 14) 2 = 0 ∧ hostVal t (a + 16) 8 = s.clk.merTick.toNat ∧
      hostVal t (a + 24) 4 = result.toNat ∧ hostVal t (a + 28) 3 = 0 ∧
      (∀ i, i < 7 → (mget 0 t.mem.hostMem (a + 31)).getLsbD i = false) ∧
      (mget 0 t.mem.hostMem (a + 31)).getLsbD 7 = (e.seq.getLsbD r.log2 ^^ true) ∧
      (∀ x, x < a ∨ a + 32 ≤ x → mget 0 t.mem.hostMem x = mget 0 s.mem.hostMem x) ∧
      t.mem.hostReq = some { fn := (s.pt e.part.val).vf.toNat, write := true, addr := a + 24, len := 8, relaxed := false, idBased := false } ∧
      t.hif.msix = if irq = true ∧ r.irq = true then s.hif.msix ++ [((s.pt e.part.val).vf.toNat, e.ring.val)] else s.hif.msix) ∧
    (s.hostHeld e.part.val = false → ((t.pt e.part.val).ring e.ring.val).entries = restOf s e ∧
      (s.glb.fatalSet = true → t.mem.hostMem = s.mem.hostMem ∧ t.hif.msix = s.hif.msix)) ∧
    (s.hostHeld e.part.val = true → Only [.parts] s t ∧ (t.pt e.part.val).held.length = (s.pt e.part.val).held.length + 1 ∧
      ((t.pt e.part.val).ring e.ring.val).entries = r.entries.map fun x => if x.seq = e.seq then { x with st := .done } else x)) ∧
  (∀ (e : EntryId) (s : State), exec (.nopEntry e) s =
    .next (if (s.entryNow e 0 .fetched).isSome then s.complete e (s.entryIrq e) 0 0 0 0 else s))

/-- R50, R129, R146, R465. Which issued instructions can still complete when a task fails is the model's reading (log 31). -/
def Obligations.TaskEnds : Prop := ∀ (tid : TaskId) (T : Task) (s : State), s.findTask tid = some T →
  let gone : State → Prop := fun u => (∀ x ∈ u.tasks, x.id ≠ tid) ∧ (∀ c ∈ T.clusters, Cleared (u.cl c)) ∧
    (if (s.pt tid.part.val).contained then tid ∈ (u.pt tid.part.val).heldEnds
     else (∀ c ∈ T.clusters, ∀ i, i < 4 → winValid (mget 0 (u.cl c).win i) = false) ∧ ∀ k ∈ (u.pt tid.part.val).claims, k.task ≠ tid) ∧
    Finished u T.entry
  let ended := s.nightwatch = true ∧ T.fault = none ∧ T.clusters ≠ [] ∧
    ∀ c ∈ T.clusters, (s.cl c).seq.run = .ended ∧ ∀ kv ∈ (s.cl c).units, kv.2 = []
  let failed := fun f : Machine.TaskFault => s.nightwatch = true ∧ T.fault = some f ∧ ∀ c ∈ T.clusters, runOut (s.pt tid.part.val) f.status (s.cl c) = true
  (ended → ∃ u, exec (.taskEnd tid) s = .next u ∧ gone u) ∧ (¬ended → exec (.taskEnd tid) s = .next s) ∧
  (∀ f, failed f → ∃ u, exec (.taskFail tid) s = .next u ∧ gone u) ∧ ((¬∃ f, failed f) → exec (.taskFail tid) s = .next s)

/-- R127, R128, R369, R370, R408. That LEN 0 and a misaligned START are ENTRY_INVALID, that a cluster kept out of allocation gives
CLUSTER_STATE, that nothing starts while its partition is being parked, and the order of the checks are the model's choice (log 29). -/
def Obligations.TaskEntries : Prop := ∀ (e : EntryId) (bs : List Byte) (s : State) (row : Instr),
  ((row = .task e ∧ s.entryNow e 1 .fetched = some bs) ∨ (row = .taskStart e ∧ s.entryNow e 1 .waiting = some bs)) →
  let p := e.part.val
  let cs := ((s.owned p).drop (fieldAt bs 20 2)).take (fieldAt bs 22 2)
  let len := fieldAt bs 16 2
  let inRange := taskFieldsOk bs = true ∧ fieldAt bs 22 2 ≠ 0 ∧ fieldAt bs 20 2 + fieldAt bs 22 2 ≤ (s.owned p).length
  let allRun := ∀ c ∈ cs, (s.cl c).cstate = .run ∧ s.unallocated c = false
  let free := ∀ c ∈ cs, (s.cl c).task = none
  (s.parkAll p = true → exec row s = .next s) ∧
  (s.parkAll p = false →
    (¬inRange → exec row s = .next (s.completeSt e stEntryInvalid)) ∧
    (inRange → ¬allRun → exec row s = .next (s.completeSt e stClusterState)) ∧
    (inRange → allRun → ¬free → exec row s = .next (s.setEntry e .waiting)) ∧
    (inRange → allRun → free →
      (8192 < len → exec row s = .next (s.completeSt e stProgramSize)) ∧
      (∀ st s1, s.loadProg e.part (fieldAt bs 8 8) len (fieldAt bs 48 8) = (.error st, s1) → exec row s = .next (s1.completeOnce e st)) ∧
      (∀ prog ph s1, s.loadProg e.part (fieldAt bs 8 8) len (fieldAt bs 48 8) = (.ok (prog, ph), s1) →
        (len ≤ fieldAt bs 18 2 → exec row s = .next (s1.completeOnce e stPcRange)) ∧
        (fieldAt bs 18 2 < len → cs.Nodup → ∃ t, exec row s = .next t ∧
          ∃ T ∈ t.tasks, T.id.part = e.part ∧ T.ring = e.ring.val ∧ T.seq = e.seq ∧ T.clusters = cs ∧ T.len = len ∧ T.start = fieldAt bs 18 2 ∧
            T.phases = ph ∧ T.st = .running ∧ T.fault = none ∧ T.tag = BitVec.ofNat 64 (fieldAt bs 40 8) ∧
            T.seed = BitVec.ofNat 64 (fieldAt bs 32 8) ∧ T.ref = (s.pt p).precRef ∧ T.stepped = bitOf (fieldAt bs 5 1) 1 ∧
            ∀ i, i < cs.length →
              let x := t.cl (nth 0 cs i)
              x.task = some T.id ∧ x.seq.run = .running ∧ x.seq.prog = prog ∧ x.seq.pc = fieldAt bs 18 2 ∧ x.seq.loops = [] ∧
                x.seq.e = [] ∧ x.seq.p = [] ∧ x.seq.d = [] ∧ x.seq.status = 0 ∧
                ∀ k, mget 0 x.seq.s k = if k = 1 then BitVec.ofNat 64 i else if k = 2 then BitVec.ofNat 64 cs.length
                  else if k = 3 then BitVec.ofNat 64 (fieldAt bs 24 8) else 0))))

/-- R18, R369. When a sequence ends, and the status of an entry that names no sequence, are the model's choice (log 16). -/
def Obligations.StepEntries : Prop := ∀ (e : EntryId) (s : State),
  let p := e.part.val
  (s.entryNow e 2 .fetched = none → exec (.step e) s = .next s) ∧ (s.entryNow e 5 .fetched = none → exec (.seqEnd e) s = .next s) ∧
  (∀ bs, s.entryNow e 2 .fetched = some bs →
    match s.tasks.find? fun t => decide (t.id.part = e.part) && decide (t.tag = BitVec.ofNat 64 (fieldAt bs 8 8)) && t.fault.isNone with
    | none => exec (.step e) s = .next (s.completeSt e stTaskUnknown)
    | some T => ∃ s1 : State, exec (.step e) s = .next s1.unpark ∧ Only [.parts, .tasks] s s1 ∧
        s1.tasks = s.tasks.map (fun x => if x.id = T.id then { x with steps := x.steps ++ [(e, bitOf (fieldAt bs 5 1) 0, (bs.drop 16).take 32)] } else x) ∧
        ((s1.pt p).ring e.ring.val).entries = ((s.pt p).ring e.ring.val).entries.map fun x => if x.seq = e.seq then { x with st := .active } else x) ∧
  (∀ bs, s.entryNow e 5 .fetched = some bs →
    let sid := BitVec.ofNat 32 (fieldAt bs 8 4)
    (∀ q, (s.pt p).seqOf sid = some q → q.endReq = none →
      if q.st = .resident ∧ s.batchServed p q.batch = true then ∃ t, exec (.seqEnd e) s = .next t ∧ Only [.parts] s t ∧
        (t.pt p).seqOf sid = some { q with endReq := some e } ∧ (t.pt p).kvFree = (s.pt p).kvFree ∧ (t.pt p).kvNodes = (s.pt p).kvNodes
      else ∃ t, exec (.seqEnd e) s = .next t ∧ (t.pt p).seqOf sid = none ∧ Finished t e) ∧
    (((s.pt p).seqOf sid = none ∨ ∃ q, (s.pt p).seqOf sid = some q ∧ q.endReq.isSome = true) →
      ∃ st ∈ statusCodes, exec (.seqEnd e) s = .next ((s.completeSt e st).bump 1)))

/-- R270, R274, R276, R369, R405. That SEQ_ADMIT is not taken while the device quiesces or is in LOW is the model's choice (log 29). -/
def Obligations.Admission : Prop := ∀ (e : EntryId) (sid : BitVec 32) (s : State),
  let p := e.part.val
  (∀ bs, s.entryNow e 4 .fetched = some bs →
    let id := BitVec.ofNat 32 (fieldAt bs 8 4)
    let lay := BitVec.ofNat 32 (fieldAt bs 16 4)
    ((s.pwr.quiescing = true ∨ s.pwr.dev ≠ 0) → exec (.seqAdmit e) s = .next s) ∧
    (s.pwr.quiescing = false → s.pwr.dev = 0 →
      (kvLayout lay = none → exec (.seqAdmit e) s = .next (s.completeSt e stKvLayout)) ∧
      (∀ l toks s1, kvLayout lay = some l → (s.pt p).seqOf id = none → s.structRd e.part (fieldAt bs 32 8) (4 * fieldAt bs 40 4) = (.ok toks, s1) →
        let h := BitVec.ofNat 64 (fieldAt bs 24 8)
        (s.batchServed p h = true ∨ (s.pt p).kvShare = false) →
        ∃ t, exec (.seqAdmit e) s = .next t ∧ Finished t e ∧ ∃ q ∈ (t.pt p).kvSeqs, q.sid = id ∧ q.prio = fieldAt bs 12 1 ∧ q.layout = lay ∧ q.batch = h ∧
          q.st = (if s.batchServed p h then .admitted else q.st) ∧
          q.cursor = if (s.pt p).kvShare then (matchFrom s.tick (chunksOf l.p (promptToks toks)) 0xFFFFFFFF 0 (s.pt p).sweep).2.2 else 0))) ∧
  (s.live = true → ∀ q, (s.pt p).seqOf sid = some q →
    (∀ pg rest, q.st = .swapped → q.out = pg :: rest → ∃ t, exec (.swapWriteDone e.part sid) s = .next t ∧ Only [.parts] s t ∧
      (t.pt p).seqOf sid = some { q with out := rest } ∧
      (t.pt p).kvFree = (s.pt p).kvFree ++ if s.pageRetired p pg = false ∧ ((s.pt p).kvQuota = 0 ∨
        (t.pt p).usedPages.length + (s.pt p).kvFree.length < (s.pt p).kvQuota.toNat) then [pg] else []) ∧
    (∀ ok, q.st = .resuming → q.plain ≠ [] → (ok = false ∨ s.tagsHold p q = false) →
      ∃ t : State, exec (.swapReadDone e.part sid ok) s = .next (t.event p stKvSwapCheck 0xFF sid) ∧ (t.pt p).seqOf sid = none) ∧
    (∀ ok l, q.st = .resuming → (q.plain = [] ∨ (ok = true ∧ s.tagsHold p q = true)) → kvLayout q.layout = some l →
      (s.batchServed p q.batch = true ∨ q.cursor % l.p = 0) →
      ∃ t, exec (.swapReadDone e.part sid ok) s = .next t ∧ ∃ x ∈ (t.pt p).kvSeqs, x.sid = sid ∧ x.cursor = q.cursor ∧ x.slots = [] ∧
        (x.st = .admitted ∨ x.st = .resident)))

/-- R329, R330, R369. The batch that a moved sequence joins, and its first groups, are open (log 44, the model's choice). -/
def Obligations.Resharding : Prop := ∀ (e : EntryId) (s : State),
  let p := e.part.val
  (∀ bs, s.entryNow e 3 .fetched = some bs →
    ((s.pt p).reshPlan.isSome = true → exec (.reshard e) s = .next s) ∧
    ((s.pt p).reshPlan = none →
      (∀ st s1, s.structRd e.part (fieldAt bs 8 8) 64 = (.error st, s1) → exec (.reshard e) s = .next (s1.completeOnce e st)) ∧
      (∀ h s1, s.structRd e.part (fieldAt bs 8 8) 64 = (.ok h, s1) →
        let n := fieldAt h 0 4
        let lay := BitVec.ofNat 32 (fieldAt h 4 4)
        let bad := n < 1 ∨ 256 < n ∨ fieldAt h 8 2 = 0 ∨ fieldAt h 10 54 ≠ 0
        (bad → exec (.reshard e) s = .next (s1.completeOnce e stEntryInvalid)) ∧
        (¬bad → kvLayout lay = none → exec (.reshard e) s = .next (s1.completeOnce e stKvLayout)) ∧
        (¬bad → (kvLayout lay).isSome = true → ∃ t : State, exec (.reshard e) s = .next (t.reshStep p) ∧ Only [.parts] s1 t ∧
          ∃ q, (t.pt p).reshPlan = some q ∧ q.entry = e ∧ q.count = n ∧ q.layout = lay ∧ q.layers = fieldAt h 8 2 ∧ q.next = 0 ∧
            q.addr = fieldAt bs 8 8 + 64 ∧ q.asked = false ∧ q.status = 0)))) ∧
  (∀ q, (s.pt p).reshPlan = some q → (kvLayout q.layout).isSome = true →
    let done := s.nightwatch = true ∧ q.ready = true ∧ q.jobs = [] ∧ q.wait = false ∧ q.status = 0
    (done → (s.pt p).seqOf q.cur.tseq = none → (∀ g ∈ q.got, ∀ y, q.cur.ranges[g.1]? = some y → y.2.1 ≠ q.cur.tseq) →
      ∃ t : State, exec (.reshardRecordDone e.part) s = .next (t.reshStep p) ∧
      (∃ x ∈ (t.pt p).kvSeqs, x.sid = q.cur.tseq ∧ x.prio = q.cur.prio ∧ x.layout = q.layout ∧ x.cursor = q.cur.n) ∧
      (t.pt p).reshMoved = satAdd (s.pt p).reshMoved 1 ∧
      ∃ r, (t.pt p).reshPlan = some r ∧ r.next = q.next + 1 ∧ r.addr = q.addr + q.cur.len ∧ r.asked = false ∧ r.groups = []) ∧
    (¬done → exec (.reshardRecordDone e.part) s = .next s))

/-- R365 to R368, R383. A pass fetches every ring of every partition in turn, and what follows moves no fetch point. The order in
which a pass serves the partitions, and that a locked device serves the rings of all of them, is the model's choice (log 61, 57). -/
def Obligations.Rings : Prop := ∀ (p : Fin 64) (n : Fin 4) (s : State),
  let r := (s.pt p.val).ring n.val
  let others := fun t : State => Only [.parts, .mem] s t ∧ t.mem = { s.mem with hostReq := t.mem.hostReq } ∧
    (∀ q, t.mem.hostReq = some q → s.mem.hostReq ≠ some q → q.fn = (s.pt p.val).vf.toNat) ∧ (∀ q, q ≠ p.val → t.pt q = s.pt q) ∧
    ∀ m, m ≠ n.val → (t.pt p.val).ring m = (s.pt p.val).ring m
  let serves := s.nightwatch = true ∧ r.en = true ∧ r.stopped = false ∧ s.fetches p.val = true
  (s.nightwatch = true → r.loc = false → r.en = false → ∃ t, exec (.ringEnable p n) s = .next t ∧ others t ∧ (t.pt p.val).ring n.val =
    { r with en := true, fresh := false, stopped := false, badSeq := none,
             fetch := if r.fresh || serialBefore r.fetch (ringHead s r) then ringHead s r else r.fetch }) ∧
  (r.en = true → s.switching = false → exec (.ringEnable p n) s = .next s) ∧
  (s.nightwatch = true → ∃ t, exec (.ringDisable p n) s = .next t ∧ others t ∧ (t.pt p.val).ring n.val = { r with en := false, badSeq := none }) ∧
  (∀ q, serves → r.loc = false → r.badSeq = some q →
    if fieldAt (ringSlot s r q) 0 4 = q.toNat then ∃ t, exec (.entrySeq p n) s = .next t ∧ others t ∧ t.parts = s.parts
    else ∃ t : State, exec (.entrySeq p n) s = .next (t.complete { part := p, ring := n, seq := q } false stEntrySeq 0 0 0) ∧ others t ∧
      (t.pt p.val).ring n.val = { r with
        stopped := true, badSeq := none, fetch := q + 1, entries := r.entries ++ [{ seq := q, bytes := ringSlot s r q, st := .active }] }) ∧
  (serves → r.loc = false →
    let ovr := 2 ^ r.log2 < (ringTail s r - ringHead s r).toNat
    let bs := ringSlot s r r.fetch
    (ovr → ∃ t : State, s.fetchRing p n = t.event p.val stRingOverrun (BitVec.ofNat 8 n.val) 0 ∧ others t ∧
      (t.pt p.val).ring n.val = { r with en := false, overrun := true }) ∧
    (¬ovr → serialBefore r.fetch (ringTail s r) = false → others (s.fetchRing p n) ∧ (s.fetchRing p n).parts = s.parts) ∧
    (¬ovr → serialBefore r.fetch (ringTail s r) = true → r.entries.length < 256 → (s.pt p.val).contained = false →
      (fieldAt bs 0 4 ≠ r.fetch.toNat → others (s.fetchRing p n) ∧ ((s.fetchRing p n).pt p.val).ring n.val = { r with badSeq := some r.fetch }) ∧
      (fieldAt bs 0 4 = r.fetch.toNat → ringTail s r = r.fetch + 1 → s.grd.locked = false → entryOk bs = true →
        (fieldAt bs 4 1 = 1 → s.taskCheck p.val bs = 0) → ((s.fetchRing p n).pt p.val).ring n.val =
          { r with fetch := r.fetch + 1, badSeq := none, entries := r.entries ++ [{ seq := r.fetch, bytes := bs, st := .fetched }] }))) ∧
  (∀ host, ∃ t, exec (.schedulingPass host) s = .next t ∧
    if s.nightwatch then t.pwr.phaseEnds = [] ∧
      ∃ s2 s3 : State, s3 = (s.passParts.flatMap fun q => [0, 1, 2, 3].map fun m => ((finPart q, m) : Fin 64 × Fin 4)).foldl
          (fun (s : State) x => s.fetchRing x.1 x.2) s2 ∧ t = s3.passRest s.passParts ∧
        (∀ q, (s2.pt q).rings = (s.pt q).rings ∧ (s2.pt q).defined = (s.pt q).defined ∧ (s2.pt q).hostLost = (s.pt q).hostLost) ∧
        s2.hif.hostLost = s.hif.hostLost ∧ s2.grd = s.grd ∧ s2.tasks = s.tasks ∧
        ((∀ q, (s.pt q).evHeld = []) → ∀ x, mget 0 s2.mem.hostMem x = mget 0 (host.foldl (fun m y => mset 0 m y.1 y.2) s.mem.hostMem) x) ∧
        (s.hif.detachReq = false → (∀ q, (s.pt q).detachReq = false) → ∀ q m,
          let u := (s3.pt q).ring m
          ((t.pt q).ring m).fetch = u.fetch ∧ ((t.pt q).ring m).en = u.en ∧ ((t.pt q).ring m).stopped = u.stopped ∧
            ((t.pt q).ring m).overrun = u.overrun)
    else Only [.mem] s t ∧ t.mem.dram = s.mem.dram ∧
      ∀ x, (∀ y ∈ host, y.1 ≠ x) → mget 0 t.mem.hostMem x = mget 0 s.mem.hostMem x)

/-- R345, R346 steps 1 to 6, R350 to R352, R355 to R357. The place of the strap and of the locked state in the order of the checks, and the
number of the next log entry, are the model's choice (log 49); the signature scheme is an open value (log 12). -/
def Obligations.GuardSubmit : Prop := ∀ s : State,
  (∀ len n, s.grd.busy = true → s.switching = false → exec (.submit len n) s = .next (s.strap n)) ∧
  (∀ part, s.grd.busy = true → s.switching = false → exec (.attest part) s = .next s) ∧
  (s.nightwatch = true → s.grd.busy = false →
    (∀ part, s.grd.idFault = true → exec (.attest part) s = .next (s.setGrd { s.grd with result := stIdFault })) ∧
    (∀ part, s.grd.idFault = false → ∃ t, exec (.attest part) s = .next t ∧ Only [.grd, .log, .mem, .freeTick] s t ∧ t.grd.nonce = s.grd.nonce ∧
      rdBytes t.grd.report 0 2 = leBytes 2 1 ∧ rdBytes t.grd.report 2 2 = leBytes 2 1024 ∧ rdBytes t.grd.report 4 2 = leBytes 2 s.lnk.chip.toNat ∧
      rdBytes t.grd.report 6 1 = [part] ∧ rdBytes t.grd.report 32 64 = rdBytes s.grd.report 32 64 ∧
      rdBytes t.grd.report 768 132 = padTo 132 0 ((Config.sign s.grd.attKey (Config.sha512 (rdBytes t.grd.report 0 768))).take 132)) ∧
    ∀ (len : BitVec 15) (n : Bool),
      let s' := s.strap n
      let bs := rdBytes s.grd.buf 0 len.toNat
      let kind := fieldAt bs 2 2
      let enrols := kind = 2
      ((len = 0 ∨ 16384 < len.toNat ∨ recordOps bs = none) →
        ∃ t, exec (.submit len n) s = .next t ∧ EndsGuard s' stGuardInvalid t ∧ t.grd.nonce = s.grd.nonce) ∧
      ∀ os, 0 < len.toNat → len.toNat ≤ 16384 → recordOps bs = some os → ∃ t, exec (.submit len n) s = .next t ∧
        t.grd.nonce = Config.entropy s.freeTick ∧
        (fieldAt bs 8 16 ≠ s.grd.nonce.toNat → EndsGuard s' stGuardNonce t) ∧
        (fieldAt bs 8 16 = s.grd.nonce.toNat →
          (enrols → n = true → EndsGuard s' stEnrolStrap t) ∧
          (¬enrols → s.grd.locked = true → EndsGuard s' stGuardLocked t) ∧
          (¬enrols → s.grd.locked = false → s.grd.enrolled = false → EndsGuard s' stGuardNotEnrolled t) ∧
          (¬enrols → s.grd.locked = false → s.grd.enrolled = true → ¬Signed s bs → EndsGuard s' stGuardSig t) ∧
          ((enrols ∧ n = false) ∨ (¬enrols ∧ s.grd.locked = false ∧ s.grd.enrolled = true ∧ Signed s bs) →
            let base := if enrols ∧ (s.grd.enrolled = true ∨ s.grd.locked = true) then openSetup else s.grd.cur
            (kind = 1 → fieldAt bs 32 64 ≠ s.flash.lastChain.toNat → EndsGuard s' stGuardInvalid t) ∧
            ((kind = 1 → fieldAt bs 32 64 = s.flash.lastChain.toNat) →
              (∀ i, applyOps base os = .error i → EndsGuard s' stGuardInvalid t ∧ t.grd.op = BitVec.ofNat 16 i) ∧
              (∀ w, applyOps base os = .ok w →
                (kind = 0 → 4096 ≤ s.flash.log.length → EndsGuard s' stGuardLogFull t) ∧
                ((kind = 0 → s.flash.log.length < 4096) → Only [.grd, .freeTick] s' t ∧ t.grd.busy = true ∧ t.grd.cur = s.grd.cur ∧
                  ∃ j, t.grd.job = some j ∧ j.step = .writing ∧ j.kind = kind ∧ j.next = w.state base s.nextLogSeq ∧ j.next.commit = false ∧
                    j.entry.seq = s.nextLogSeq ∧ j.entry.nonce = s.grd.nonce ∧ j.entry.aborted = false))))))

/-- R346 steps 6 to 9, R337, R347 to R353, R468. Which partitions a change affects, and that what R347 forbids is looked at again before the
change takes effect, is the model's choice (log 49). -/
def Obligations.GuardRows : Prop :=
  (∀ (s : State) (x a : Nat), mget 0 (s.zeroExtent x).mem.dram a = if a / 2 ^ 30 = x then 0 else mget 0 s.mem.dram a) ∧
  (∀ s : State, s.grd.job = none → (∀ row ∈ [Instr.guardStateWritten, .guardQuiesceTimeout, .guardCommit], exec row s = .next s) ∧
    ∀ n, exec (.guardQuiesced n) s = .next (s.strap n)) ∧
  ∀ (s : State) (j : GuardJob), s.nightwatch = true → s.grd.job = some j →
    (j.step ≠ .writing → exec .guardStateWritten s = .next s) ∧ (j.step ≠ .applied → exec .guardCommit s = .next s) ∧
    (j.step ≠ .quiescing → (∀ n, exec (.guardQuiesced n) s = .next (s.strap n)) ∧ exec .guardQuiesceTimeout s = .next s) ∧
    (j.step = .writing → ∃ t, exec .guardStateWritten s = .next t ∧ activeCopy t.flash = activeCopy s.flash ∧ inactiveCopy t.flash = j.next ∧
      t.flash.guardCur = s.flash.guardCur ∧ t.grd.cur = s.grd.cur ∧
      (j.kind ≠ 0 → t.flash.log = s.flash.log ∧ t.grd.job = some { j with step := .quiescing }) ∧
      (j.kind = 0 → if s.guardBlocked j.next j.affected then t.grd.busy = false ∧ t.grd.result = stGuardBusy ∧ t.grd.job = none ∧
          t.flash.log = s.flash.log ++ [{ j.entry with aborted := true }]
        else t.flash.log = s.flash.log ++ [j.entry] ∧ t.grd.job = some { j with step := .quiescing })) ∧
    (j.step = .quiescing → ∃ t, exec .guardQuiesceTimeout s = .next t ∧ t.grd.busy = false ∧ t.grd.result = stGuardBusy ∧ t.grd.job = none ∧
      t.grd.cur = s.grd.cur ∧ activeCopy t.flash = activeCopy s.flash ∧ t.flash.log.length = s.flash.log.length ∧
      (j.kind = 0 → ∀ e, t.flash.log.getLast? = some e → e.aborted = true)) ∧
    (j.step = .quiescing → s.allParked (fun p => j.affected.contains p) = false → ∀ n, exec (.guardQuiesced n) s = .next (s.strap n)) ∧
    (j.step = .quiescing → s.allParked (fun p => j.affected.contains p) = true → s.guardBlocked j.next j.affected = true →
      ∀ n, ∃ t, exec (.guardQuiesced n) s = .next t ∧ t.grd.busy = false ∧ t.grd.result = stGuardBusy ∧ t.grd.job = none ∧
        t.grd.cur = s.grd.cur ∧ activeCopy t.flash = activeCopy s.flash ∧ (j.kind = 0 → ∀ e, t.flash.log.getLast? = some e → e.aborted = true)) ∧
    (j.step = .quiescing → (∃ p ∈ j.affected, (s.pt p).contained = true) → s.guardBlocked j.next j.affected = true) ∧
    (j.step = .quiescing → j.kind = 0 → s.allParked (fun p => j.affected.contains p) = true → s.guardBlocked j.next j.affected = false →
      ∀ n, ∃ t, exec (.guardQuiesced n) s = .next t ∧ t.grd.cur = j.next ∧ t.grd.job = some { j with step := .applied } ∧ t.grd.locked = false ∧
        t.flash = s.flash ∧ t.lnk.chip = (match j.next.chip with | some v => v | none => s.lnk.chip) ∧
        (∀ p, p < 64 → if (j.next.part p).defined then (t.pt p).defined = true ∧ (t.pt p).vf = (j.next.part p).vf ∧
            (t.pt p).share = (j.next.part p).share ∧ (t.pt p).kvQuota = (j.next.part p).kvQuota ∧ (t.pt p).extents = (j.next.part p).extents
          else (s.grd.cur.part p).defined = true → (t.pt p).defined = false ∧ (t.pt p).extents = []) ∧
        (∀ p, p < 64 → (s.grd.cur.part p).defined = false → (j.next.part p).defined = true → (j.next.part p).vf ≠ 0 →
          (j.next.part p).vf.toNat ≤ 64 → j.next.vfPart (j.next.part p).vf.toNat = some p → (∀ T ∈ s.tasks, T.id.part.val ≠ p) →
          (t.pt p).rings = [] ∧ (t.pt p).hostWin = [] ∧ (t.pt p).evBase = 0 ∧ (t.pt p).phbMs = 0) ∧
        ∀ c, c < 768 → mget 0 s.grd.cur.clusters c ≠ mget 0 j.next.clusters c →
          let mask := BitVec.ofNat 4 (mget 0 j.next.clusters c / 64)
          (t.cl c).segmask = mask ∧ (t.cl c).owned = decide (mask ≠ 0) ∧ (mask ≠ 0 → (t.cl c).part = BitVec.ofNat 6 (mget 0 j.next.clusters c))) ∧
    (j.step = .quiescing → j.kind ≠ 0 → s.allParked (fun p => j.affected.contains p) = true → s.guardBlocked j.next j.affected = false →
      ∀ n, if j.kind = 2 ∧ n = true then ∃ t, exec (.guardQuiesced n) s = .next t ∧ EndsGuard (s.strap n) stEnrolStrap t
      else ∃ t, exec (.guardQuiesced n) s = .next t ∧ t.flash.log = [j.entry] ∧ t.grd.cur = j.next ∧ t.grd.enrolled = j.next.hasKeys ∧
        t.grd.job = some { j with step := .applied }) ∧
    (j.step = .applied → ∃ t, exec .guardCommit s = .next t ∧ t.grd.busy = false ∧ t.grd.result = 0 ∧ t.grd.job = none ∧
      t.flash.guardCur = !s.flash.guardCur ∧ activeCopy t.flash = { j.next with commit := true } ∧ inactiveCopy t.flash = activeCopy s.flash ∧
      t.flash.log = s.flash.log ∧ t.grd.cur = { j.next with commit := true })

/-- R393 to R399. What waits in a switch, and in which order it is taken afterwards, is the model's choice (log 51); where an image
lies in control SRAM is an open value (log 75), and refusals of requests that the spec does not name are log 19 and log 50. -/
def Obligations.Firmware : Prop := ∀ (s : State) (slot persist : Bool),
  let x := s.flash.slot slot
  let out := (s.flash.slot s.fw.active).stateOut.toNat
  let ends := fun (row : Instr) (st : BitVec 16) => ∃ t, exec row s = .next t ∧ t.fw.act = none ∧ t.fw.result = st ∧ t.fw.state = s.fw.idleCode ∧
    t.fw.active = s.fw.active ∧ t.fw.lpl = s.fw.lpl ∧ t.flash.bootSlot = s.flash.bootSlot ∧ t.flash.slotA = s.flash.slotA ∧ t.flash.slotB = s.flash.slotB
  let refuses := fun st : BitVec 16 => ∃ t, exec (.activate slot persist) s = .next t ∧ t.fw = { s.fw with result := st } ∧ t.flash = s.flash ∧ t.tasks = s.tasks
  (s.served = true → s.switching = true → ∀ c : NwCmd, exec (c.row s.pwr.pins.enrolN) s = .next (s.setFw { s.fw with waiting := s.fw.waiting ++ [c] })) ∧
  (s.served = true → s.fw.act.isSome = true → exec (.fwWrite slot) s = .next (s.setFw { s.fw with result := stFwSlotBusy })) ∧
  (s.fwServed = true → s.fw.write = none → s.fw.act = none →
    let a := bitsOf s.fw.stage.toNat 36 0
    let n := bitsOf s.fw.stage.toNat 63 40
    let v := if s.devOn a n then s.vaultRead a n else s
    let img := fwSlotOf (v.devRd a n)
    let good := v.devOn a n = true ∧ v.devPoison a n = [] ∧ img.valid = true
    let inUse := v.pwr.boot = .ready ∧ slot = v.fw.active
    let only := fun st : BitVec 16 => exec (.fwWrite slot) s = .next (v.setFw { v.fw with result := st })
    (inUse → only stFwSlotActive) ∧ (¬inUse → ¬good → only stFwSig) ∧ (s.mem.flaw = [] → v = s) ∧
    (¬inUse → good → ∃ t, exec (.fwWrite slot) s = .next t ∧ t.fw.write = some (slot, img) ∧ t.fw.state = 1 ∧
      (t.flash.slot slot).valid = false ∧ t.flash.slot (!slot) = s.flash.slot (!slot) ∧ t.flash.bootSlot = s.flash.bootSlot)) ∧
  (∀ b img ok, s.nightwatch = true → s.fw.write = some (b, img) → s.pwr.boot = .ready → ∃ t, exec (.slotWriteDone ok) s = .next t ∧
    t.flash.slot b = { img with valid := ok } ∧ t.flash.slot (!b) = s.flash.slot (!b) ∧ t.fw.write = none ∧
    t.fw.result = if ok then 0 else stFwSig) ∧
  (s.nightwatch = true → s.fw.act = none →
    (slot = s.fw.active → refuses stActSameSlot) ∧ (slot ≠ s.fw.active → x.valid = false → refuses stFwSig) ∧
    (slot ≠ s.fw.active → x.valid = true → (out < x.stateLo.toNat ∨ x.stateHi.toNat < out) → refuses stActStateVersion) ∧
    (slot ≠ s.fw.active → x.valid = true → x.stateLo.toNat ≤ out → out ≤ x.stateHi.toNat → ∃ t, exec (.activate slot persist) s = .next t ∧
      t.fw = { s.fw with act := some { slot := slot, persist := persist, st := .deferred, copy := x }, state := 2 } ∧ t.tasks = s.tasks)) ∧
  (∀ a, s.fw.act = some a →
    exec (.activate slot persist) s = .next s ∧
    (s.nightwatch = true →
      (∃ t, exec .cancel s = .next t ∧ t.fw.act = none ∧ t.fw.result = s.fw.result ∧ t.fw.active = s.fw.active ∧ t.flash = s.flash) ∧
      (a.st = .deferred → ends .deferTimeout stDeferTimeout ∧ (s.emergency = true → exec .activationParkStart s = .next s) ∧
        (s.emergency = false → ∃ t, exec .activationParkStart s = .next t ∧ t.fw = { s.fw with act := some { a with st := .parking }, state := 3 })) ∧
      (a.st = .parking → ends .actParkTimeout stActParkTimeout ∧
        (s.actQuiet = false → exec .firmwareSwitch s = .next s) ∧
        (s.actQuiet = true → ∃ t, exec .firmwareSwitch s = .next t ∧
          t.fw.act = some { a with st := if s.emergency then .deferred else .switching } ∧ (s.emergency = false → t.tasks = s.tasks ∧ t.parts = s.parts)))) ∧
    (s.served = true → a.st = .switching → ends .actFallback stActFallback ∧
      ∃ t, exec .activationDone s = .next t ∧ t.fw.act = none ∧ t.fw.result = 0 ∧ t.fw.active = a.slot ∧ t.fw.lpl = (s.flash.slot a.slot).lpl ∧
        t.flash.bootSlot = (if a.persist then a.slot else s.flash.bootSlot) ∧ t.flash.slotA = s.flash.slotA ∧ t.flash.slotB = s.flash.slotB ∧
        (s.fw.waiting = [] → s.pwr.waitCmd = none → t.mem.ctrlSram = a.copy.loadInto s.mem.ctrlSram ∧ t.ccores = [])))

/-- R402 to R404, R408, R409, R412, R121, R122, R420, R449. That a command to the state held succeeds, the numbers of segments as units,
and FAILED at most 1,023 are the model's choice (log 52), and so is the length of a transition (log 20). -/
def Obligations.UnitPower : Prop :=
  (∀ s : State, s.served = true → s.pwr.busy = true → ∀ first count mask gear, ∀ row ∈ powerRows first count mask gear,
    exec row s = .next (s.setPwr { s.pwr with ignored := true })) ∧
  (∀ s : State, s.served = false → ∀ first count mask gear, ∀ row ∈ powerRows first count mask gear, exec row s = .next s) ∧
  (∀ (s : State) (first : BitVec 10) (count : BitVec 11), Takes s →
    let us := unitRange first count
    let range := fun row => ∃ t, exec row s = .next t ∧ Only [.pwr] s t ∧ t.pwr = { s.pwr with result := stCmdRange, failed := 0 }
    (∀ r ∈ clusterRows,
      (768 < first.toNat + us.length → range (r.1 first count)) ∧
      (first.toNat + us.length ≤ 768 → ∃ t, exec (r.1 first count) s = .next t ∧ Outcome us (clusterVerdict s r.2) t ∧
        t.pwr.trans = (us.filter fun c => decide (clusterVerdict s r.2 c = .moves)).map (fun c => Trans.cluster c r.2) ∧
        ∀ c, if c ∈ us ∧ clusterVerdict s r.2 c = .moves then
          (t.cl c).cstate = (if r.2 = .run then (s.cl c).cstate else r.2) ∧ (t.cl c).spad = (s.cl c).spad ∧ (t.cl c).segOn = (s.cl c).segOn ∧
            (r.2 = .off → (t.cl c).units = [] ∧ (t.cl c).seq = Seq.reset ∧ (t.cl c).droop = false) else t.cl c = s.cl c)) ∧
    (∀ (mask : BitVec 4) (on : Bool),
      let row := if on then Instr.segmentOn first count mask else .segmentOff first count mask
      let ss := us.flatMap fun c => ((List.range 4).filter fun g => mask.getLsbD g).map fun g => 4 * c + g
      (768 < first.toNat + us.length → range row) ∧
      (first.toNat + us.length ≤ 768 → ∃ t, exec row s = .next t ∧ Outcome ss (segmentVerdict s on) t ∧
        t.pwr.trans = (ss.filter fun u => decide (segmentVerdict s on u = .moves)).map (fun u => Trans.segment (u / 4) (u % 4) on) ∧
        ∀ c g, g < 4 → if 4 * c + g ∈ ss ∧ segmentVerdict s on (4 * c + g) = .moves ∧ on = false
          then (t.cl c).segOn.getLsbD g = false ∧ ∀ a, 786432 * g ≤ a → a < 786432 * (g + 1) → mget 0 (t.cl c).spad a = 0
          else (t.cl c).segOn.getLsbD g = (s.cl c).segOn.getLsbD g)) ∧
    (∀ r ∈ groupRows,
      (64 < first.toNat + us.length → range (r.1 first count)) ∧
      (first.toNat + us.length ≤ 64 → ∃ t, exec (r.1 first count) s = .next t ∧ Outcome us (groupVerdict s r.2) t ∧
        ∀ g, if g ∈ us ∧ groupVerdict s r.2 g = .moves then
          (if r.2 = .active then (if (s.grp g).st = .off then (t.grp g).st = .active ∧ (t.grp g).filling = true
             else (t.grp g).st = .selfRefresh ∧ Trans.group g .active ∈ t.pwr.trans)
           else (t.grp g).st = (s.grp g).st ∧ (t.grp g).drain = some r.2) else t.grp g = s.grp g))) ∧
  (∀ s : State, s.nightwatch = true → s.pwr.trans = [] → exec .unitTransitionDone s = .next s) ∧
  (∀ (s : State) (tr : Trans), s.nightwatch = true → s.pwr.trans = [tr] → tr ≠ .device 2 → ∃ t : State,
    exec .unitTransitionDone s = .next t.afterHold ∧ t.pwr.trans = [] ∧
    t.clk.lateDroops = s.clk.lateDroops ∧ t.clk.latePhases = s.clk.latePhases ∧
    (match tr with
      | .cluster c st => (t.cl c).cstate = if st = .run then .run else (s.cl c).cstate
      | .segment c g on => g < 4 → (t.cl c).segOn.getLsbD g = if on then true else (s.cl c).segOn.getLsbD g
      | .group g st => (t.grp g).st = st
      | .device st => t.pwr.dev = st
      | .gear g => t.clk.gear.toNat = g.val ∧ t.clk.changing = false ∧ t.clk.changes = satAdd s.clk.changes 1) ∧
    (s.pwr.busy = true → s.pwr.quiescing = false → s.pwr.removing = false → s.groupsMoving = false → (∀ g st, tr ≠ .group g st) →
      t.pwr.busy = false ∧ t.pwr.result = lowestRefusal s.pwr.refused)) ∧
  (∀ s : State, s.clk.holding = false → let u := s.setClk { s.clk with lateDroops := [], latePhases := [] }
    (s.clk.lateDroops = [] → s.clk.latePhases = [] → s.afterHold = s) ∧
    (∀ c : Fin 768, s.clk.lateDroops = [c.val] → s.clk.latePhases = [] → exec (.droopDetect c) u = .next s.afterHold) ∧
    ∀ id, s.clk.lateDroops = [] → s.clk.latePhases = [id] → exec (.phaseBoundary id) u = .next s.afterHold) ∧
  (∀ (s : State) (g : Fin 64), s.nightwatch = true →
    let zero := fun t : State => ∀ a, g.val * 2 ^ 31 ≤ a → a < (g.val + 1) * 2 ^ 31 → mget 0 t.mem.dram a = 0
    (∀ st, (s.grp g.val).drain = some st → ∃ t, exec (.drainComplete g) s = .next t ∧ (t.grp g.val).st = st ∧ (t.grp g.val).drain = none ∧
      (if st = .off then zero t else t.mem.dram = s.mem.dram)) ∧
    ((s.grp g.val).drain.isSome = true → ∃ t, exec (.drainTimeout g) s = .next t ∧ (t.grp g.val).st = (s.grp g.val).st ∧ (t.grp g.val).drain = none ∧
      t.mem.dram = s.mem.dram ∧ (s.pwr.busy = true → s.pwr.quiescing = false → s.pwr.removing = false → s.pwr.trans = [] → s.pwr.refused = [] →
        (s.modGrp g.val fun v => { v with drain := none }).groupsMoving = false →
        t.pwr.busy = false ∧ t.pwr.result = stDrainTimeout ∧ t.pwr.failed = 1)) ∧
    ((s.grp g.val).filling = true → ∃ t, exec (.groupFillDone g) s = .next t ∧ (t.grp g.val).filling = false ∧ zero t) ∧
    ((s.grp g.val).drain = none → exec (.drainComplete g) s = .next s ∧ exec (.drainTimeout g) s = .next s) ∧
    ((s.grp g.val).filling = false → exec (.groupFillDone g) s = .next s))

/-- R402, R404 to R407, R413, R442, R447. That a command to the state held succeeds with RESULT 0, and the times at which the hold of
an upward change begins, are the model's choice (log 52). -/
def Obligations.DevicePower : Prop := ∀ s : State,
  (Takes s →
    (∀ r ∈ deviceRows,
      (r.2.2 = some s.pwr.dev → ∃ t, exec r.1 s = .next t ∧ t.pwr = { s.pwr with result := 0, failed := 0, refused := [] }) ∧
      (r.2.2 ≠ some s.pwr.dev → s.pwr.dev ∉ r.2.1 → ∃ t, exec r.1 s = .next t ∧ t.pwr = { s.pwr with result := stStateOrder, failed := 1, refused := [] })) ∧
    (s.pwr.dev = 0 → ∃ t, exec .deviceQuiesce s = .next t ∧ t.pwr = { s.pwr with busy := true, refused := [], quiescing := true }) ∧
    (s.pwr.dev = 1 → ∃ t, exec .deviceOn s = .next t ∧ t.pwr = { s.pwr with busy := true, refused := [], trans := [.device 0] }) ∧
    (s.pwr.dev = 2 → ∃ t, exec .deviceOn s = .next t ∧ t.pwr.busy = true ∧ t.pwr.dev = 2 ∧ Trans.device 0 ∈ t.pwr.trans) ∧
    (s.pwr.dev = 1 → ∃ t, exec .deviceLow s = .next t ∧ t.pwr.busy = true ∧ t.pwr.dev = 1 ∧ Trans.device 2 ∈ t.pwr.trans ∧
      (∀ c, c < 768 → (s.cl c).cstate = .run → c ∉ s.glb.badClusters → (t.cl c).cstate = .retain) ∧
      ∀ g, g < 64 → (s.grp g).st = .active → g ∉ s.glb.badGroups → (t.grp g).drain = some .selfRefresh) ∧
    ((s.pwr.dev = 1 ∨ s.pwr.dev = 2) → ∃ t, exec .deviceOff s = .next t ∧
      if s.flashBusy then t.pwr = { s.pwr with result := stFlashBusy, failed := 1, refused := [] } else t.pwr = { s.pwr with busy := true, refused := [], removing := true }) ∧
    (∀ g : BitVec 4, ∃ t, exec (.gearChange g) s = .next t ∧
      if 2 < g.toNat then t.pwr = { s.pwr with result := stStateOrder, failed := 1, refused := [] } ∧ t.clk = s.clk
      else if g.toNat = s.clk.gear.toNat then t.pwr = { s.pwr with result := 0, failed := 0, refused := [] } ∧ t.clk = s.clk
      else t.pwr = { s.pwr with busy := true, refused := [], trans := [.gear (Fin.ofNat 3 g.toNat)] } ∧
        t.clk = { s.clk with changing := true, was := s.clk.gear, goal := BitVec.ofNat 2 g.toNat, since := 0, holdAt := t.clk.holdAt, holdEnd := t.clk.holdEnd, lastHold := t.clk.lastHold } ∧
        t.clk.lastHold.toNat ≤ 210 ∧ t.clk.holdEnd = t.clk.holdAt + (5 * t.clk.lastHold.toNat + 3) / 4 ∧ t.clk.holdAt ≤ 7504 ∧
        (s.clk.gear.toNat < g.toNat → t.clk.holdAt = 2) ∧ (s.clk.gear = 2 → g = 0 → t.clk.holdAt = 7504))) ∧
  (s.nightwatch = true → s.pwr.quiescing = true →
    (s.allParked (fun _ => true) = false → exec .deviceQuiesced s = .next s) ∧
    (s.allParked (fun _ => true) = true → ∃ t, exec .deviceQuiesced s = .next t ∧ Only [.pwr] s t ∧ t.pwr.dev = 1 ∧ t.pwr.quiescing = false) ∧
    ∃ t, exec .stateParkTimeout s = .next t ∧ t.pwr.dev = s.pwr.dev ∧ t.pwr.quiescing = false ∧
      (s.pwr.busy = true → s.pwr.removing = false → s.pwr.trans = [] → s.groupsMoving = false → s.pwr.refused = [] →
        t.pwr.busy = false ∧ t.pwr.result = stStateParkTimeout ∧ t.pwr.failed = 1)) ∧
  (s.pwr.quiescing = false → exec .deviceQuiesced s = .next s ∧ exec .stateParkTimeout s = .next s) ∧
  (s.nightwatch = true → s.pwr.trans = [.device 2] → ∃ t, exec .unitTransitionDone s = .next t ∧
    ((t.pwr.dev = 2 ∧ t.pwr.trans = []) ∨ (t.pwr.dev = s.pwr.dev ∧ t.pwr.trans = [.device 2]))) ∧
  (s.live = true → s.pwr.removing = true → ∃ t, exec .orderlyRemovalEnd s = .next t ∧ t.pwr.rails = false ∧ t.pwr.boot = .off ∧ t.tasks = [] ∧
    t.parts = [] ∧ t.clusters = [] ∧ t.ccores = [] ∧ t.mem.dram = [] ∧ t.log = Log.reset ∧ t.fw = Fw.reset ∧ t.mem.hostMem = s.mem.hostMem ∧
    t.flash.guard0 = s.flash.guard0 ∧ t.flash.guard1 = s.flash.guard1 ∧ t.flash.log = s.flash.log ∧ t.pwr.trip = s.pwr.trip ∧ t.pwr.pins = s.pwr.pins ∧
    (s.fw.write = none → t.flash.slotA = s.flash.slotA ∧ t.flash.slotB = s.flash.slotB) ∧
    (s.cfg.write = none → t.flash.img0 = s.flash.img0 ∧ t.flash.img1 = s.flash.img1)) ∧
  (s.pwr.removing = false → exec .orderlyRemovalEnd s = .next s) ∧
  (∀ v : BitVec 32, s.served = true → ∃ t, exec (.pwrCapWrite v) s = .next t ∧ Only [.pwr] s t ∧
    t.pwr.cap.toNat = v.toNat % 2 ^ 11 ∧ t.pwr = { s.pwr with cap := t.pwr.cap } ∧ t.capW = min 1500 (max 300 (v.toNat % 2 ^ 11)))

/-- R216, R217, R413 to R426, R449. Which clusters CAP_UNMET asks about, and when an Almanac entry counts as used, is the model's choice
(log 53). -/
def Obligations.CapAndHeat : Prop := ∀ s : State,
  (s.nightwatch = true → ∀ (input cluster : Nat) (mj : List (Fin 64 × Nat)) (un : Nat), ∃ t, exec (.capControlPeriod input cluster mj un) s = .next t ∧
    let unmet := s.effCap < ((input : Nat) : Rat) ∧ ∀ T ∈ s.tasks, T.st = .running → ∀ c ∈ T.clusters, (s.cl c).cstate = .run → (s.cl c).limit = 1
    let w := min 1500 (max 300 s.pwr.cap.toNat)
    let fixed := s.pwr.fixed = true ∧ 629 ≤ w ∧ s.pwr.stage = 0 ∧ ¬unmet
    (t.pwr.capUnmet = true ↔ unmet) ∧ (t.pwr.fixedHeld = true ↔ fixed) ∧ t.pwr.inputMw = input ∧ t.pwr.otherMw = (input : Int) - (cluster : Int) ∧
    t.pwr.unattr = s.pwr.unattr + BitVec.ofNat 64 un ∧ t.pwr.energy = s.pwr.energy + BitVec.ofNat 64 ((mj.map (·.2)).foldl (· + ·) un) ∧
    (∀ p v, mj = [(p, v)] → (t.pt p.val).energy = (s.pt p.val).energy + BitVec.ofNat 64 v) ∧
    (∀ c, (t.cl c).cstate = (s.cl c).cstate ∧ ((s.cl c).cstate ≠ .run → (t.cl c).limit = (s.cl c).limit)) ∧
    (s.pwr.stage = 3 → ∀ c, c < 768 → (s.cl c).cstate = .run → (t.cl c).limit = 16) ∧
    (fixed → ∀ c, c < 768 → (s.cl c).cstate = .run → (t.cl c).limit = (clampInt 1 256 ((256 * (92 * (w : Int) - 52520)) / 84480)).toNat) ∧
    (s.pwr.stage ≠ 3 → unmet → ∀ T ∈ s.tasks, T.st = .running → ∀ c ∈ T.clusters, (s.cl c).cstate = .run → (t.cl c).limit = 1) ∧
    (s.pwr.stage ≠ 3 → ¬fixed → ¬unmet → ∀ T, (s.tasks.filter fun x => decide (x.st = .running)) = [T] →
      let cs := T.clusters.filter fun c => decide ((s.cl c).cstate = .run)
      let e := s.est T.id.part.val T.phase
      let b : Rat := s.effCap - (((input : Int) - (cluster : Int) : Int) : Rat)
      let d : Rat := ((e * (cs.length : Int) : Int) : Rat)
      let g : Rat := if b ≤ 0 then 0 else if b < d then b else d
      e ≠ 0 → e ≠ 150 → ∀ c ∈ cs,
        (t.cl c).limit = (clampInt 1 256 (256 * (g / (cs.length : Rat) - 150) / ((e - 150 : Int) : Rat)).floor).toNat)) ∧
  (∀ c : Fin 768, s.live = true → s.clk.holding = true →
    exec (.droopDetect c) s = .next (s.setClk { s.clk with lateDroops := s.clk.lateDroops ++ [c.val] })) ∧
  (∀ c : Fin 768, s.live = true → s.clk.holding = false →
    (if (s.cl c.val).cstate = .run ∧ (s.cl c.val).droop = false then ∃ t, exec (.droopDetect c) s = .next t ∧ (t.cl c.val).droop = true ∧
        t.pwr.clamp = true ∧ t.pwr.droopEv = satAdd s.pwr.droopEv 1 ∧ ∀ d, d ≠ c.val → t.cl d = s.cl d
      else exec (.droopDetect c) s = .next s)) ∧
  (∀ c : Fin 768, s.live = true →
    (if (s.cl c.val).droop = true then ∃ t, exec (.droopRecover c) s = .next t ∧ Only [.clusters, .pwr] s t ∧ (t.cl c.val).droop = false ∧
        (∀ d, d ≠ c.val → (s.cl d).droop = true → t.pwr.clamp = true ∧ t.pwr.clampLong = s.pwr.clampLong) ∧
        (s.clusters = [(c.val, s.cl c.val)] → t.pwr.clamp = false ∧ t.pwr.clampLong = false)
      else exec (.droopRecover c) s = .next s) ∧
    exec .droopEmergency s = .next (if s.pwr.clamp then s.setPwr { s.pwr with clampLong := true } else s)) ∧
  (s.live = true → ∀ rs, ∃ t, exec (.thermalSample rs) s = .next t ∧
    t.pwr.sensors = rs.foldl (fun m r => mset 0 m r.1.val r.2) s.pwr.sensors ∧
    (s.nightwatch = false → t.pwr.stage = s.pwr.stage) ∧
    (s.nightwatch = true → (∀ k, 1 ≤ k → k ≤ 3 → reaches t k → k ≤ t.pwr.stage.toNat) ∧ s.pwr.stage.toNat ≤ t.pwr.stage.toNat ∧
      (s.pwr.stage.toNat < t.pwr.stage.toNat → reaches t t.pwr.stage.toNat)) ∧
    ∀ g, g < 64 → ∀ h, (∃ d, d < 8 ∧ (mget 0 t.pwr.sensors (224 + 4 * d + g / 16)).toInt = h) →
      (∀ d, d < 8 → (mget 0 t.pwr.sensors (224 + 4 * d + g / 16)).toInt ≤ h) →
      ((t.grp g).interval = if 94 * 16 ≤ h then .fastest else if 92 * 16 ≤ h then (if (s.grp g).interval = .fastest then .fastest else .fast)
        else if 84 * 16 ≤ h then .fast else if 82 * 16 ≤ h then (if (s.grp g).interval = .slow then .slow else .fast) else .slow) ∧
        (t.grp g).hot = decide ((t.grp g).interval = .fastest ∧ (s.grp g).st = .active)) ∧
  (s.nightwatch = true → s.pwr.stage ≠ 0 →
    let cool := ∀ n, n < 256 → (mget 0 s.pwr.sensors n).toInt <
      16 * (if 224 ≤ n then nth 0 [0, 92, 93, 95] s.pwr.stage.toNat else nth 0 [0, 92, 97, 102] s.pwr.stage.toNat : Int)
    (cool → ∃ t, exec .thermalStageLeave s = .next t ∧ t.pwr.stage = s.pwr.stage - 1) ∧ (¬cool → exec .thermalStageLeave s = .next s)) ∧
  (∀ n, s.pwr.rails = true → ∃ t, exec (.thermalTrip n) s = .next t ∧ t.pwr.rails = false ∧ t.pwr.trip = true ∧ t.tasks = [] ∧ t.mem.dram = [] ∧
    (s.glb.fatalSet = false → t.hif.aer = s.hif.aer ++ [stThermalTrip]))

/-- R125, R193 to R219, R410. That an unaligned burst is taken down to its burst and bytes short of a burst are dropped is the model's
choice (log 15), and so are the reply register (log 65), the states in which the scratchpad scrub works and the one patrol position of a
group (log 60), and that the reserved AOP does nothing (log 21). -/
def Obligations.DramRows : Prop :=
  (∀ a, a < 2 ^ 37 → a = placeAddr (vaultOf a) (bankOf a) (rowOf a) (columnOf a) (dieOf a) (a % 32) ∧ vaultOf a < 512 ∧ bankOf a < 16 ∧
    rowOf a < 4096 ∧ columnOf a < 16 ∧ dieOf a < 8) ∧
  (∀ v b r c d x, v < 512 → b < 16 → r < 4096 → c < 16 → d < 8 → x < 32 → let a := placeAddr v b r c d x
    a < 2 ^ 37 ∧ vaultOf a = v ∧ bankOf a = b ∧ rowOf a = r ∧ columnOf a = c ∧ dieOf a = d ∧ a % 32 = x) ∧
  ∀ s : State, s.live = true →
    (∀ (a : BitVec 37) (n : Nat) (data : List Byte),
      let reads := fun (row : Instr) (a n : Nat) => a + n ≤ 2 ^ 37 →
        (s.devOn a n = false → ∃ t, exec row s = .next t ∧ t.mem.dram = s.mem.dram ∧ AnswersMem t stGroupOff [] []) ∧
        (s.devOn a n = true → s.mem.flaw = [] → ∃ t, exec row s = .next t ∧ Only [.mem] s t ∧ t.mem.dram = s.mem.dram ∧ t.mem.poison = s.mem.poison ∧
          AnswersMem t 0 ((List.range n).map fun i => s.cell (.dram (a + i))) (s.devPoison a n))
      let writes := fun (row : Instr) (a : Nat) (bs : List Byte) => a + bs.length ≤ 2 ^ 37 →
        (s.devOn a bs.length = false → ∃ t, exec row s = .next t ∧ t.mem.ans.status = stGroupOff ∧
          ∀ x, s.groupOn (groupOf x) = false → t.cell (.dram x) = s.cell (.dram x)) ∧
        (s.devOn a bs.length = true → s.mem.flaw = [] → ∃ t, exec row s = .next t ∧ Only [.mem] s t ∧ t.mem.hostMem = s.mem.hostMem ∧
          AnswersMem t 0 [] [] ∧ ∀ x, t.cell (.dram x) = if a ≤ x ∧ x < a + bs.length then nth 0 bs (x - a) else s.cell (.dram x))
      reads (.narrowRead a n) a.toNat n ∧ writes (.narrowWrite a data) a.toNat data ∧
      reads (.burstRead a n) (a.toNat / 256 * 256) (256 * n) ∧
      writes (.burstWrite a data) (a.toNat / 256 * 256) (data.take (data.length / 256 * 256))) ∧
    (∀ (a : BitVec 37) (n b d : Nat), ReadsSector a.toNat n b d → d < 8 → s.devOn a.toNat n = true → s.mem.field.failed = [] → s.mem.poison = [] →
      (s.mem.flaw = [(8 * b + d, .single)] → mget [] s.mem.errTab (vaultOf (256 * b)) = [] → ∃ t, exec (.narrowRead a n) s = .next t ∧ t.mem.flaw = [] ∧
        t.mem.corrected = satAdd s.mem.corrected 1 ∧ t.mem.poison = [] ∧
        (let key := 262144 + 8 * vaultOf (256 * b) + d
         mget Rise.zero t.log.rise key = { count := satAdd (mget Rise.zero s.log.rise key).count 1, addr := BitVec.ofNat 64 (256 * b + 32 * d) }) ∧
        AnswersMem t 0 ((List.range n).map fun i => s.cell (.dram (a.toNat + i))) []) ∧
      (s.mem.flaw = [(8 * b + d, .double)] → ∃ t, exec (.narrowRead a n) s = .next t ∧ t.mem.recon = satAdd s.mem.recon 1 ∧
        t.mem.poisoned = s.mem.poisoned ∧ t.mem.ans.status = 0 ∧ t.mem.ans.poison = []) ∧
      (∀ e, d < e → e < 8 → s.mem.flaw = [(8 * b + d, .double), (8 * b + e, .double)] → ∃ t, exec (.narrowRead a n) s = .next t ∧
        t.mem.poisoned = satAdd s.mem.poisoned 2 ∧ t.mem.recon = s.mem.recon ∧ t.mem.ans.status = 0 ∧
        ∀ cov : Nat → Bool, cov d = true → (s.decodeBurst b cov).1.mem.flaw = [] ∧
          ∀ k, mget false (s.decodeBurst b cov).1.mem.poison k = decide (k = 8 * b + d ∨ k = 8 * b + e))) ∧
    (∀ (a : BitVec 37) (op ty : BitVec 2) (data : List Byte) (poisoned : Bool),
      let n := if ty = 1 then 8 else if ty = 3 then 2 else 4
      (op = 3 → exec (.memoryAtomic a op ty data poisoned) s = .next s) ∧
      (op ≠ 3 → s.devOn a.toNat 1 = false → ∃ t, exec (.memoryAtomic a op ty data poisoned) s = .next t ∧ t.mem.ans.status = stGroupOff) ∧
      (op ≠ 3 → s.devOn a.toNat 1 = true → s.mem.flaw = [] → a.toNat % n = 0 → data.length = n →
        ∃ t, exec (.memoryAtomic a op ty data poisoned) s = .next t ∧ Only [.mem] s t ∧ AnswersMem t 0 [] [] ∧
          let x := leNat ((List.range n).map fun i => s.cell (.dram (a.toNat + i)))
          let y := leNat data
          if mget false s.mem.poison (a.toNat / 32) = true then t.mem.dram = s.mem.dram ∧ t.mem.poison = s.mem.poison
          else if poisoned = true then t.mem.dram = s.mem.dram ∧ mget false t.mem.poison (a.toNat / 32) = true
          else (∀ k, k < a.toNat ∨ a.toNat + n ≤ k → t.cell (.dram k) = s.cell (.dram k)) ∧
            (ty.toNat < 2 → leNat ((List.range n).map fun i => t.cell (.dram (a.toNat + i))) =
              if op = 0 then (x + y) % 2 ^ (8 * n) else
              let less := (BitVec.ofNat (8 * n) y).slt (BitVec.ofNat (8 * n) x)
              if op = 1 then (if less then y else x) else if (BitVec.ofNat (8 * n) x).slt (BitVec.ofNat (8 * n) y) then y else x))) ∧
    (∀ (p : Fin 64) (table : BitVec 256) (slots : List (Option Nat)) (fmt : BitVec 8), (s.pt p.val).defined = true → (∀ x ∈ slots, x = none) →
      ∃ t, exec (.pooledBag p table slots fmt) s = .next t ∧ Only [.mem, .freeTick] s t ∧
        AnswersMem t 0 (List.replicate ((mkOpd table).t.e 0 * eltBytes fmt.toNat) 0) []) ∧
    (∀ (v : Fin 512) (die : Fin 8) (bank : Fin 16), if (s.grp (v.val / 8)).st = .active then ∃ t, exec (.refresh v die bank) s = .next t ∧
        t = s.setMem { s.mem with refreshes := t.mem.refreshes } ∧
        mget 0 t.mem.refreshes (128 * v.val + 16 * die.val + bank.val) = mget 0 s.mem.refreshes (128 * v.val + 16 * die.val + bank.val) + 1
      else exec (.refresh v die bank) s = .next s) ∧
    (∀ g : Fin 64, if (s.grp g.val).st = .active then s.mem.flaw = [] → ∃ t, exec (.patrolScrub g) s = .next t ∧
        t = s.setMem { s.mem with scrubPos := t.mem.scrubPos, scrubPasses := t.mem.scrubPasses } ∧
        mget 0 t.mem.scrubPos g.val = (if mget 0 s.mem.scrubPos g.val < 1048575 then mget 0 s.mem.scrubPos g.val + 1 else 0) ∧
        t.mem.scrubPasses = if 1048575 ≤ mget 0 s.mem.scrubPos g.val ∧ g.val = 0 then satAdd s.mem.scrubPasses 1 else s.mem.scrubPasses
      else exec (.patrolScrub g) s = .next s) ∧
    (∀ (v : Fin 512) (i : Nat), ∃ t, exec (.errorEntryExpire v i) s = .next t ∧ t = s.setMem { s.mem with errTab := t.mem.errTab } ∧
      ∀ u, mget [] t.mem.errTab u = if u = v.val then (mget [] s.mem.errTab u).eraseIdx i else mget [] s.mem.errTab u) ∧
    (∀ c : Fin 768, let x := s.cl c.val
      (x.cstate ≠ .off → x.scrubLine < 24576 → x.segOn.getLsbD (x.scrubLine / 6144) = true → x.spadFlaw = [] →
        ∃ t, exec (.scratchpadScrub c) s = .next t ∧ Only [.clusters] s t ∧ t.cl c.val = { x with scrubLine := (x.scrubLine + 1) % 24576 }) ∧
      ((x.cstate = .off ∨ x.segOn = 0) → exec (.scratchpadScrub c) s = .next s))

/-- R225, R389 to R391, R437, R439, R440, R451, R467 and the CLEAR fields of chapter 23. That image writes queue and the order of
their checks is the model's choice (log 50), and so is that RELEASE leaves MORE as it was (log 55). -/
def Obligations.ImagesAndLog : Prop := ∀ s : State,
  (s.nightwatch = true → s.cfg.write.isSome = true → exec .configWrite s = .next (s.setCfg { s.cfg with queue := s.cfg.queue ++ [.host], busy := true })) ∧
  (s.nightwatch = true → s.cfg.write = none → s.cfg.queue = [] →
    let a := s.cfg.stage.toNat
    let q := s.setCfg { s.cfg with queue := [.host] }
    let v := if s.devOn a 262144 then q.vaultRead a 262144 else q
    let bs := v.devRd a 262144
    let cur := if s.flash.chosen then s.flash.img1 else s.flash.img0
    let sound := s.devOn a 262144 = true ∧ v.devPoison a 262144 = [] ∧ imgHead bs = true ∧ (imgSecs bs).all (secOk bs) = true
    let refused := fun st : BitVec 16 => exec .configWrite s = .next (v.setCfg { v.cfg with queue := [], result := st, busy := false })
    (s.mem.flaw = [] → v = q) ∧ (¬sound → refused stCfgCheck) ∧
    (sound → s.grd.enrolled = true → (parseImage bs).ident ≠ cur.ident → refused stCfgGuarded) ∧
    (sound → (s.grd.enrolled = false ∨ (parseImage bs).ident = cur.ident) → ∃ x,
      exec .configWrite s = .next (v.setCfg { v.cfg with queue := [], busy := true, write := some x, dirty := false }) ∧
      x = { parseImage bs with fieldRep := some v.mem.field.stored, bytes := x.bytes }) ∧
    (if s.cfg.dirty = true ∧ s.glb.cfgDefaulted = false then ∃ t x, exec .fieldRewrite s = .next t ∧ Only [.cfg] s t ∧
        t.cfg = { s.cfg with busy := true, write := some x, dirty := false } ∧ x = { cur with fieldRep := some s.mem.field.stored, bytes := x.bytes }
      else exec .fieldRewrite s = .next s)) ∧
  (∀ x, s.nightwatch = true → s.cfg.write = some x → ∃ t, exec .imageWriteDone s = .next t ∧ Only [.cfg, .flash] s t ∧
    t.flash.chosen = !s.flash.chosen ∧ (if s.flash.chosen then t.flash.img0 = x ∧ t.flash.img1 = s.flash.img1 else t.flash.img1 = x ∧ t.flash.img0 = s.flash.img0) ∧
    t.flash.slotA = s.flash.slotA ∧ t.flash.guard0 = s.flash.guard0 ∧ t.flash.log = s.flash.log ∧
    (s.cfg.queue = [] → t.cfg = { s.cfg with write := none, result := 0, busy := false })) ∧
  (s.nightwatch = true → s.cfg.write = none → exec .imageWriteDone s = .next s) ∧
  (s.served = true →
    (∀ (k : BitVec 8) (d : BitVec 56), let pt := 0xF0 + k.toNat % 16
      if s.log.en = true ∧ s.log.mask.getLsbD pt = true then
        (Recording s → ∃ t, exec (.traceMark k d) s = .next t ∧ Only [.log, .mem, .freeTick] s t ∧ Traced s t pt (d.setWidth 64)) ∧
        (s.switching = false → ¬Recording s → ∃ t, exec (.traceMark k d) s = .next t ∧ Only [.log, .freeTick] s t ∧
          t.log = { s.log with full := true, drops := satAdd s.log.drops 1 }) ∧
        (s.switching = true → ∃ t, exec (.traceMark k d) s = .next t ∧ Only [.log, .freeTick] s t ∧
          t.log = { s.log with drops := satAdd s.log.drops 1 })
      else exec (.traceMark k d) s = .next s) ∧
    (s.log.en = true → exec .traceEnable s = .next s ∧ (Recording s → ∃ t, exec .epochRecord s = .next t ∧ Traced s t 0 s.clk.merTick)) ∧
    (s.log.en = false → exec .epochRecord s = .next s ∧ (Recording s → ∃ t, exec .traceEnable s = .next t ∧ t.log.en = true ∧ Traced s t 0 s.clk.merTick)) ∧
    exec .clearLost s = .next (s.setLog { s.log with lost := 0 }) ∧
    ∀ c : Fin 768,
      exec (.spadStatusClear c) s = .next (s.modCl c.val fun x => { x with corrected := 0, uncorrected := 0, winFaults := 0 }) ∧
      exec (.vecStatusClear c) s = .next (s.modCl c.val fun x => { x with flushes := 0, overflows := 0, invalids := 0 }) ∧
      exec (.xcStatusClear c) s = .next (s.modCl c.val fun x => { x with expStalls := 0, rawTiles := 0, indexFaults := 0 }) ∧
      exec (.sparseStatusClear c) s = .next (s.modCl c.val fun x => { x with imbalance := 0, worst := 0, splitFaults := 0 })) ∧
  (∀ p : Fin 64, s.nightwatch = true → if (s.pt p.val).contained then ∃ t, exec (.release p) s = .next t ∧
      Only [.cfg, .log, .mem, .parts, .clusters, .freeTick] s t ∧ (t.pt p.val).contained = false ∧ (t.pt p.val).more = (s.pt p.val).more ∧ (t.pt p.val).errRecord = 0 ∧ (t.pt p.val).heldEnds = [] ∧
      (∀ k ∈ (t.pt p.val).claims, k.task ∉ (s.pt p.val).heldEnds ∨ k.task.part ≠ p) ∧ (t.pt p.val).extents = (s.pt p.val).extents
    else exec (.release p) s = .next s)

/-- R281 to R283, R287 to R289, R292, R295, R299 to R307, R406, R457. What the spec leaves open of flits and of replay is the model's
choice (logs 46 and 72), and so are the end of a port, its event and its identity exchange (log 47) and the visible flits (log 65). -/
def Obligations.PortRows : Prop := ∀ (s : State) (m : Fin 39),
  let n := m.val
  let p := s.po n
  (∀ lanes : BitVec 4, s.live = true →
    let again := p.st = .training ∧ (0 < p.failTrains ∨ p.replay ≠ [])
    let k := if p.lit = 0 ∧ again then lanes else if p.lit.toNat < lanes.toNat then p.lit else lanes
    (k ≠ 0 → p.st = .training → exec (.laneTrained m lanes) s = .next (if p.lanes = 0 then
      s.modPo n fun p => { p with lanes := k, identCount := 0, identLast := none } else s)) ∧
    (k ≠ 0 → p.st ∈ [PortSt.quarantine, .active] → exec (.laneTrained m lanes) s =
      .next (s.modPo n fun p => { p with lanes := if p.lanes.toNat < k.toNat then k else p.lanes, rising := false })) ∧
    ((k = 0 ∨ p.st ∈ [PortSt.down, .dark]) → exec (.laneTrained m lanes) s = .next s)) ∧
  (∀ i : Ident, s.live = true → p.lanes ≠ 0 →
    let k := if p.identLast = some i then p.identCount + 1 else 1
    ((p.st = .quarantine ∨ p.st = .training ∧ k < 3) →
      exec (.trainingFlit m i) s = .next (s.modPo n fun p => { p with identLast := some i, identCount := k })) ∧
    (p.st = .training → 3 ≤ k → ∃ t, exec (.trainingFlit m i) s = .next t ∧
      (t.po n).foundChip = i.chip ∧ (t.po n).foundPort = i.port ∧ (t.po n).foundSlot = i.slot ∧
      ((t.po n).mismatch = true ↔ Differs s n i) ∧ (t.po n).st ≠ .training ∧
      ((t.po n).st = .quarantine ↔ Differs s n i ∨ s.lnk.chip = 0x3FFF ∨ i.chip = 0x3FFF) ∧
      (p.lit ≠ 0 → p.withdrawn = false → ((t.po n).st = .active ∨ (t.po n).st = .quarantine) ∧ (t.po n).lanes = (if i.lanes ≠ 0 ∧ i.lanes.toNat < p.lanes.toNat then i.lanes.setWidth 4 else p.lanes)) ∧
      (t.po n).lpl.toNat = min s.fw.lpl.toNat (if i.lpl.toNat = 0 ∨ 4 ≤ i.lpl.toNat then 3 else i.lpl.toNat)) ∧
    (p.st ∈ [PortSt.training, .quarantine] → ∃ t x, exec (.trainingFlitSend m) s = .next t ∧ Only [.lnk] s t ∧
      (t.po n).identOut = some (ownIdent s n) ∧ (t.po n).sent = [x] ∧ GoodCrc x.raw ∧ flitKind x.raw = 3 ∧ identOf x.raw = ownIdent s n)) ∧
  (PortIn s n [.training] → ∃ t, exec (.identityTimeout m) s = .next t ∧ LinkGone t n .down) ∧
  (PortIn s n [.training, .quarantine, .active] → ∃ t, exec (.laneSignalLoss m) s = .next t ∧ LinkGone t n (if p.darkNote then .dark else .down)) ∧
  (PortIn s n [.down, .dark] → exec (.laneSignalLoss m) s = .next s ∧ exec (.portSilenceTimeout m) s = .next s ∧ exec (.identityTimeout m) s = .next s) ∧
  (PortIn s n [.quarantine, .active] → if p.darkNote then exec (.portSilenceTimeout m) s = .next s
    else ∃ t, exec (.portSilenceTimeout m) s = .next t ∧ LinkGone t n .down) ∧
  (PortIn s n [.active] → exec (.darkNotice m) s = .next (s.modPo n fun p => { p with darkNote := true }) ∧
    ∃ t, exec (.withdrawalMessage m) s = .next t ∧ if p.replay = [] ∧ p.txq = [] then LinkGone t n (if p.lit = 0 then .dark else .down)
      else t = s.modPo n fun p => { p with withdrawn := true }) ∧
  (s.live = true → p.st ≠ .active → exec (.darkNotice m) s = .next s ∧ exec (.withdrawalMessage m) s = .next s) ∧
  (PortIn s n [.dark] → p.darkNote = true → p.lit ≠ 0 → ∃ t, exec (.laneLightDetect m) s = .next t ∧ Trains t n) ∧
  -- flits that bring no data
  (∀ f : RawFlit, let u := counted s n f
    ((s.live = false ∨ p.lanes = 0) → exec (.idleFlit m f) s = .next s) ∧
    (s.live = true → p.lanes ≠ 0 →
      (¬GoodCrc f → p.st ≠ .active → exec (.idleFlit m f) s = .next (u.modPo n fun p => { p with crcFail := satAdd p.crcFail 1 })) ∧
      (¬GoodCrc f → p.st = .active → ∃ t, exec (.idleFlit m f) s = .next t ∧ Only [.log, .lnk] s t ∧ Replies (t.po n) true p.rxSeq ∧
        (t.po n).crcFail = satAdd p.crcFail 1 ∧ (t.po n).rxSeq = p.rxSeq ∧ (t.po n).fec = (u.po n).fec) ∧
      (GoodCrc f → flitKind f = 3 → exec (.idleFlit m f) s = exec (.trainingFlit m (identOf f)) u) ∧
      (GoodCrc f → flitKind f = 2 → p.st ≠ .active → exec (.idleFlit m f) s = exec (.beacon m (beaconOf f)) u) ∧
      (GoodCrc f → flitKind f ∉ [2, 3] → p.st ≠ .active → exec (.idleFlit m f) s = .next u) ∧
      (GoodCrc f → flitKind f ∉ [1, 2, 3] → p.st = .active →
        (flitNak f = false → p.txq = [] → p.lit ≠ 0 → p.withdrawn = false → ∃ t, exec (.idleFlit m f) s = .next t ∧ Only [.log, .lnk] s t ∧
          Replies (t.po n) false p.rxSeq ∧ (t.po n).credShared = p.credShared + (f.head.extractLsb' 40 10).toNat ∧
          (∀ k, mget 0 (t.po n).credDed k = mget 0 p.credDed k + if k = 2 * (f.head.extractLsb' 60 4).toNat + (if f.head.getLsbD 59 then 1 else 0)
            then (f.head.extractLsb' 50 9).toNat else 0) ∧
          (t.po n).replay = match p.replay.findIdx? fun x => decide (x.seq = flitAck f) with | some i => p.replay.drop (i + 1) | none => p.replay) ∧
        (flitNak f = true → p.replay ≠ [] → (∀ x ∈ p.replay, x.seq ≠ flitAck f) → ∃ t, exec (.idleFlit m f) s = .next t ∧
          if p.failReplays < 8 then (t.po n).resend = true ∧ (t.po n).failReplays = p.failReplays + 1 ∧
            (t.po n).replays = satAdd p.replays p.replay.length ∧
            (p.replay.map (·.seq)) <+: ((t.po n).sent.map (·.hdr.seq)) ∧ p.replay.map (·.seq) <+: (t.po n).replay.map (·.seq)
          else if p.failTrains < 3 then (t.po n).st = .training ∧ (t.po n).lanes = 0 ∧ (t.po n).replay = p.replay ∧ (t.po n).failTrains = p.failTrains + 1
          else LinkGone t n .down)))) ∧
  -- commands of the host; during a firmware switch they wait
  (if s.nightwatch = true ∧ p.st ∈ [PortSt.down, .quarantine] ∧ s.badPort n = false then ∃ t, exec (.retrain m) s = .next t ∧
      (t.po n).lit = s.litTarget n ∧ if s.litTarget n = 0 then LinkGone t n .dark else Trains t n
    else Unheld s → exec (.retrain m) s = .next s) ∧
  (∀ chip : BitVec 14, if s.nightwatch = true ∧ s.lnk.chip = 0x3FFF ∧ chip ≠ 0x3FFF ∧ s.grd.enrolled = false ∧ s.grd.locked = false then
      ∃ t, exec (.chipAssign chip) s = .next t ∧ t.lnk.chip = chip ∧
        (p.lanes ≠ 0 → p.st ∈ [PortSt.training, .quarantine, .active] → (t.po n).st = .training ∧ (t.po n).identCount = 0 ∧ (t.po n).lanes = p.lanes)
    else Unheld s → exec (.chipAssign chip) s = .next s) ∧
  (∀ mask : BitVec 39, s.nightwatch = true → mwf 0x3FFFFFC0 s.lnk.routes = true → ∃ t, exec (.adopt mask) s = .next t ∧
    let taken := fun q : Nat => q < 39 ∧ mask.getLsbD q = true ∧ (s.po q).st = .quarantine ∧ (s.po q).mismatch = true
    let moved := fun q : Nat => taken q ∧ ((s.po q).expectChip ≠ (s.po q).foundChip ∨ (s.po q).expectPort ≠ (s.po q).foundPort)
    (taken n → (t.po n).expectChip = p.foundChip ∧ (t.po n).expectPort = p.foundPort ∧ (t.po n).st = .training ∧ (t.po n).identCount = 0) ∧
    (¬taken n → t.po n = p) ∧
    ∀ dst i, i < 4 → let x := routePort s.lnk.routes dst i
      (¬moved x → routePort t.lnk.routes dst i = x) ∧
      (moved x → routePort t.lnk.routes dst i = s.foundOn (s.po x).expectChip (s.po x).expectPort)) ∧
  (∀ v : BitVec 32, s.nightwatch = true →
    (s.lnk.busy = true → exec (.litLanesChange v) s = .next (s.setLnk { s.lnk with pendMode := s.lnk.pendMode ++ [v] })) ∧
    (s.lnk.busy = false → exec (.litLanesChange v) s = .next (s.applyMode v) ∧ let t := s.applyMode v
      t.lnk.groupLit = v.extractLsb' 4 2 ∧ t.lnk.machineLit = v.extractLsb' 6 2 ∧ t.lnk.mode = v.getLsbD 0 ∧ t.lnk.boardRobust = v.getLsbD 30 ∧
      (7 ≤ n → (t.po n).lit = (if s.badPort n = true ∨ s.opticalDark = true ∨ p.expectChip = 0x3FFF then 0 else
          let l := if n < 23 then litLanes (v.extractLsb' 4 2) 32 else litLanes (v.extractLsb' 6 2) (if v.getLsbD 0 then 32 else 8)
          if l = 32 then 2 else if l = 16 then 1 else if (n - 7) % 16 < 8 then 1 else 0) ∧
        (p.st = .active → p.lit ≠ 0 → (t.po n).lit ≠ 0 → (t.po n).lit ≠ p.lit →
          if (t.po n).lit.toNat < p.lanes.toNat then (t.po n).lanes = (t.po n).lit
          else ((t.po n).rising = true ↔ p.lanes.toNat < (t.po n).lit.toNat))))) ∧
  (s.nightwatch = true → s.lnk.busy = true → (∀ q, q < 39 → (s.po q).st = .active → (s.po q).lit ≠ 0 ∧ (s.po q).withdrawn = false) →
    ((∃ q, 7 ≤ q ∧ q < 39 ∧ ¬AtLanes (s.po q)) → exec .laneChangeDone s = .next s) ∧
    ((∀ q, 7 ≤ q → q < 39 → AtLanes (s.po q)) →
      (s.lnk.pendMode = [] → ∃ t, exec .laneChangeDone s = .next t ∧ t.lnk = { s.lnk with busy := false }) ∧
      ∀ v vs, s.lnk.pendMode = v :: vs → let w := (s.setLnk { s.lnk with busy := false, pendMode := [] }).applyMode v
        (w.lnk.busy = true → exec .laneChangeDone s = .next (w.setLnk { w.lnk with pendMode := vs })) ∧
        (w.lnk.busy = false → vs = [] → exec .laneChangeDone s = .next w))) ∧
  (s.lnk.busy = false → exec .laneChangeDone s = .next s)

/-- R299, R310 to R312. How an offset becomes whole ticks is the model's choice (log 22), and so are the parent on a board that hears
of no root, the fields of the status and that a slew is replaced (log 48); the visible flit is log 65. -/
def Obligations.BeaconRows : Prop := ∀ (s : State) (m : Fin 39), s.live = true →
  let n := m.val
  (∀ b, (s.po n).st ∉ [PortSt.quarantine, .active] → exec (.beacon m b) s = .next s ∧ exec (.beaconSend m) s = .next s) ∧
  (∀ b : BeaconMsg, (s.po n).st = .quarantine →
    exec (.beacon m b) s = .next (s.modPo n fun p => { p with bTx := b.tx, bArrive := s.clk.merTick })) ∧
  ((s.po n).st = .active → ∀ b, let s1 := s.modPo n fun p => { p with
        bTx := b.tx, bArrive := s.clk.merTick, bRoot := b.root, bDepth := b.depth, bUpRoot := b.upRoot, bUpValid := b.upValid
        bUpDepth := b.upDepth, bSeen := true }
    let th := offset32 b (s.clk.merTick.toNat : Int)
    let run := if -32 ≤ th ∧ th ≤ 32 then s.mer.lockRun + 1 else 0
    (s1.parentPort = some n → s.mer.parent.toNat = n → ∃ t k, exec (.beacon m b) s = .next t ∧ th - 32 < 32 * k ∧ 32 * k < th + 32 ∧
      t.lnk = s1.lnk ∧ t.mer.parent.toNat = n ∧ t.mer.root = false ∧ t.mer.depth = b.depth.toNat + 1 ∧ t.mer.rootChip = b.root ∧ t.mer.lockRun = run ∧
      (if s.mer.locked then t.clk = s.clk ∧ t.mer.slew = k ∧ t.mer.locked = true
       else t.clk = { s.clk with merTick := BitVec.ofInt 64 ((s.clk.merTick.toNat : Int) + k) } ∧ t.mer.locked = decide (16 ≤ run))) ∧
    (s1.parentPort ≠ some n → ∃ t, exec (.beacon m b) s = .next t ∧ t.clk = s.clk ∧ t.lnk = s1.lnk ∧ t.mer.locked = s.mer.locked ∧ t.mer.slew = s.mer.slew)) ∧
  ((s.po n).st ∈ [PortSt.quarantine, .active] → ∃ t b, exec (.beaconSend m) s = .next t ∧ Only [.lnk, .freeTick] s t ∧
    (∃ x, (t.po n).sent = [x] ∧ GoodCrc x.raw ∧ flitKind x.raw = 2 ∧ beaconOf x.raw = b) ∧
    (t.po n).beaconOut = some b ∧ b.tx = s.clk.merTick ∧ b.echo = (s.po n).bTx ∧
    b.hold = (s.clk.merTick - (s.po n).bArrive).setWidth 32 ∧ b.locked = s.mer.locked ∧ b.depth = BitVec.ofNat 8 s.mer.depth ∧
    b.root = (if s.mer.root then s.lnk.chip else s.mer.rootChip) ∧ b.fmt = if 2 ≤ (s.po n).lpl.toNat then 2 else 1)

/-- R286, R290 to R293, R297, R340, R410. The check of a request's reserved fields, the order of the checks and the bytes of a GATHER
are the model's choice (log 45), the credits and slots log 72, the reserved AOP log 21, the status of an unroutable packet log 47. -/
def Obligations.Remote : Prop := ∀ (s : State) (m : Fin 39) (k : Packet),
  let n := m.val
  (∀ r ∈ packetRows, ¬PortIn s n [.active] → exec (r.2 m k) s = .next s) ∧
  (∀ tag, s.live = false → exec (.requestTimeout tag) s = .next s.goOn) ∧
  (∀ f, exec (.dataFlit m f) s = exec (.idleFlit m f) s) ∧
  (PortIn s n [.active] →
    -- other chips
    (∀ r ∈ packetRows, k.dst ≠ s.lnk.chip → s.lnk.chip ≠ 0x3FFF →
      (∀ q st, s.routeOf k.dst k.vc.toNat k.stage.toNat = .ok (q, st) →
        exec (r.2 m k) s = .next (s.push q { k with typ := r.1, stage := BitVec.ofNat 3 st })) ∧
      (∀ st, s.routeOf k.dst k.vc.toNat k.stage.toNat = .error st → k.src ≠ s.lnk.chip →
        (r ∈ requestRows → Answered (exec (r.2 m k) s) s k (answerType r.1) st) ∧ (r ∉ requestRows → exec (r.2 m k) s = .next s))) ∧
    (∀ dst vc stage, (dst = 0x3FFF ∨ (mget 0x3FFFFFC0 s.lnk.routes dst.toNat).getLsbD 31 = false) → s.routeOf dst vc stage = .error stChipLost) ∧
    -- what turns a request away
    (∀ r ∈ requestRows.take 3, let k1 := { k with typ := r.1 }
      let wr := decide (r.1 ≠ 0x01)
      let a := bitsOf k.addr.toNat 41 0
      let space := bitsOf k.addr.toNat 63 60
      (k.dst = s.lnk.chip → s.pwr.removing = true → Answered (exec (r.2 m k) s) s k (answerType r.1) stChipLost) ∧
      (k.dst = s.lnk.chip → s.pwr.removing = false → (k.resv = true ∨ 16 < k.len.toNat ∨ bitsOf k.addr.toNat 59 56 ≠ 0 ∨ space = 1 ∨ 3 < space ∨
          ((space = 2 ∨ space = 3) ∧ k.vc.toNat < 12)) → Answered (exec (r.2 m k) s) s k (answerType r.1) stAddrRange) ∧
      (Sound s k1 → space = 0 → 0 < k.len.toNat →
        ((∀ kv ∈ s.grd.cur.admTab, ¬Permits kv.2 k wr a (lenBytes k)) → exec (r.2 m k) s = .next
          ((s.noteSev .portState 3 0xFF stAdmitDenied [k.src.setWidth 64, k.spart.setWidth 64, k.addr]).send
            (answerTo s k (answerType r.1) stAdmitDenied [] 0)).1) ∧
        ∀ i e, s.grd.cur.admTab = [(i, e)] → Permits e k wr a (lenBytes k) →
          let p := (e.extractLsb' 34 6).toNat
          ((s.pt p).contained = true → Answered (exec (r.2 m k) s) s k (answerType r.1) stPartContained) ∧
          ((s.pt p).contained = false → (s.pt p).mappedRange a (lenBytes k) = false → Answered (exec (r.2 m k) s) s k (answerType r.1) stAddrRange) ∧
          ((s.pt p).contained = false → (s.pt p).mappedRange a (lenBytes k) = true → s.landing k1 wr a (lenBytes k) = .ok (.part p))) ∧
      (∀ l, k.dst = s.lnk.chip → s.landing k1 wr a (lenBytes k) = .ok l → l ≠ .window → (∃ x ∈ s.runsAt l a (lenBytes k), s.devOn x.1 x.2 = false) →
        if wr then ∃ x ∈ s.runsAt l a (lenBytes k), s.devOn x.1 x.2 = false ∧ ∃ p, exec (r.2 m k) s = .next
            ((s.groupOffLog x.1 p k.src).send (answerTo s k (answerType r.1) stGroupOff [] 0)).1
        else Answered (exec (r.2 m k) s) s k (answerType r.1) stGroupOff)) ∧
    -- what a request does
    (∀ d, let a := bitsOf k.addr.toNat 41 0
      let z := lenBytes k
      (k.dst = s.lnk.chip → LandsAt s { k with typ := 0x01 } false a z d → (k.vc = 13 → s.codedLink k = true ∨ ∀ p, s.codedAt p a = none) → ∃ pz, PoisonOf s d z pz ∧ exec (.read m k) s = .next
        (s.send (answerTo s k 0x10 0 ((List.range k.len.toNat).map fun j => BitVec.ofNat 256 (leNat (dramAt s (d + 32 * j) 32))) pz)).1) ∧
      (k.dst = s.lnk.chip → LandsAt s { k with typ := 0x02 } true a z d → k.poison = 0 → ∃ u : State, exec (.write m k) s = .next (u.send (answerTo s k 0x11 0 [] 0)).1 ∧
        Only [.mem] s u ∧ u.mem.hostMem = s.mem.hostMem ∧ u.mem.ctrlSram = s.mem.ctrlSram ∧
        (∀ y, (y < d ∨ d + z ≤ y) → u.cell (.dram y) = s.cell (.dram y)) ∧
        ∀ j i, j < k.len.toNat → i < 32 →
          (WritesByte k j i → u.cell (.dram (d + 32 * j + i)) = BitVec.ofNat 8 ((nth 0 k.data j).toNat >>> (8 * i))) ∧
          (¬WritesByte k j i → u.cell (.dram (d + 32 * j + i)) = s.cell (.dram (d + 32 * j + i)))) ∧
      (k.dst = s.lnk.chip → LandsAt s { k with typ := 0x03 } true a z d →
        (k.op.extractLsb' 6 2 = 3 → Answered (exec (.atomic m k) s) s k 0x11 0) ∧
        (k.op = 0 → k.len = 1 → d % 32 = 0 → k.poison = 0 → mget false s.mem.poison (d / 32) = false →
          ∃ u : State, exec (.atomic m k) s = .next (u.send (answerTo s k 0x11 0 [] 0)).1 ∧ Only [.mem] s u ∧
            (∀ y, (y < d ∨ d + 32 ≤ y) → u.cell (.dram y) = s.cell (.dram y)) ∧
            ∀ i, i < 8 → leNat (dramAt u (d + 4 * i) 4) = (leNat (dramAt s (d + 4 * i) 4) + (nth 0 k.data 0).toNat / 2 ^ (32 * i) % 2 ^ 32) % 2 ^ 32)) ∧
      (let g := Config.gatherList (k.op.getLsbD 6) (k.data.flatMap fun x => leBytes 32 x.toNat)
        let base := bitsOf k.aux.toNat 41 0
        let w := g.1.1 * eltBytes g.1.2.1
        let k1 := { k with typ := 0x04 }
        (∀ i rest st, k.dst = s.lnk.chip → g.2 = some i :: rest → s.landing k1 false (base + i * w) w = .error st → st ≠ stAdmitDenied →
          Answered (exec (.gather m k) s) s k 0x12 st) ∧
        (∀ i l, k.dst = s.lnk.chip → g.2 = [some i] → k.op.getLsbD 7 = false → 0 < w → w ≤ 512 → s.landing k1 false base 0 = .ok l → l ≠ .window →
          s.runsAt l (base + i * w) w = [(d, w)] → LandsAt s k1 false (base + i * w) w d → ∃ pz gs, PoisonOf s d w pz ∧ gs.length = (w + 31) / 32 ∧
            (∀ j, j < gs.length → nth 0 gs j = BitVec.ofNat 256 (leNat (dramAt s (d + 32 * j) (min 32 (w - 32 * j))))) ∧
            exec (.gather m k) s = .next (s.send (answerTo s k 0x12 0 gs pz)).1))) ∧
    -- responses
    (∀ row ∈ [Instr.readResp m k, .ack m k, .gatherResp m k], k.dst = s.lnk.chip →
      ((∀ q ∈ s.lnk.reqs, q.tag ≠ k.tag) →
        exec row s = .next (s.modPo n fun p => { p with discards := satAdd p.discards 1 }).goOn) ∧
      (∀ q, s.lnk.reqs.find? (fun x => decide (x.tag = k.tag)) = some q → (k.status ≠ 0 ∨ q.more ≤ k.data.length) →
        ∃ u : State, exec row s = .next u.goOn ∧ u.lnk = { s.lnk with reqs := s.lnk.reqs.filter fun x => decide (x.tag ≠ k.tag) }) ∧
      (∀ q c u id off j, s.lnk.reqs = [q] → q.tag = k.tag → q.owner = .job c u id off → k.status = 0 →
        ((s.cl c).unit u).find? (fun y => decide (y.id = id)) = some j → ∃ (v : State) (j' : Job), exec row s = .next v.goOn ∧
          ((v.cl c).unit u).find? (fun y => decide (y.id = id)) = some j' ∧ j'.fault = j.fault ∧
          (if q.more ≤ k.data.length then j'.awaited = j.awaited - 1 ∧ v.lnk.reqs = [] else j'.awaited = j.awaited ∧
            v.lnk.reqs = [{ q with more := q.more - k.data.length, owner := .job c u id (off + k.data.length) }]) ∧
          ∀ i, i < k.data.length → mget 0 j'.rx (off + i) = nth 0 k.data i)) ∧
    (∀ tag, ((∀ q ∈ s.lnk.reqs, q.tag ≠ tag) → exec (.requestTimeout tag) s = .next s.goOn) ∧
      (∀ q, s.lnk.reqs.find? (fun x => decide (x.tag = tag)) = some q → ∃ u : State,
        exec (.requestTimeout tag) s = .next (u.chipLost q.chip).goOn ∧
        u.lnk = { s.lnk with reqs := s.lnk.reqs.filter fun x => decide (x.tag ≠ tag) } ∧
        (∀ c v id off j, q.owner = .job c v id off → ((s.cl c).unit v).find? (fun y => decide (y.id = id)) = some j → j.fault = 0 → ∃ j',
          ((u.cl c).unit v).find? (fun y => decide (y.id = id)) = some j' ∧ j'.fault = stChipLost))) ∧
    -- data flits
    (∀ f : RawFlit, GoodCrc f → flitKind f = 1 → (s.po n).lanes ≠ 0 →
      let u := counted s n f
      (flitSeq f = (s.po n).rxSeq → (s.po n).rxPart = [] →
        ((∀ i, i < 15 → f.slots.extractLsb' (128 * i) 128 = 0) → exec (.dataFlit m f) s =
          .next ((u.modPo n fun p => { p with rxSeq := p.rxSeq + 1, rxPart := [] }).flitHead n (flitHdr f.head) false)) ∧
        (∀ r ∈ packetRows, k.typ = r.1 → Framed k → k.data.length ≤ 6 →
          (∀ i, i < 15 → f.slots.extractLsb' (128 * i) 128 = nth 0 (packetSlots k) i) →
          ∃ v, exec (r.2 m k) (u.modPo n fun p => { p with rxSeq := p.rxSeq + 1, rxPart := [] }) = .next v ∧
            exec (.dataFlit m f) s = .next ((v.modPo n fun p => p.free k).flitHead n (flitHdr f.head) false)) ∧
        (k.typ ∉ 0x20 :: 0x30 :: packetRows.map (·.1) → Framed k → k.data.length ≤ 6 →
          (∀ i, i < 15 → f.slots.extractLsb' (128 * i) 128 = nth 0 (packetSlots k) i) → exec (.dataFlit m f) s =
            .next ((((u.modPo n fun p => { p with rxSeq := p.rxSeq + 1, rxPart := [] }).modPo n fun p => { p with
              discards := satAdd p.discards 1 }).modPo n fun p => p.free k).flitHead n (flitHdr f.head) false))) ∧
      (flitSeq f ≠ (s.po n).rxSeq → flitNak f = false → (s.po n).txq = [] → (s.po n).lit ≠ 0 → (s.po n).withdrawn = false →
        ∃ t, exec (.dataFlit m f) s = .next t ∧ Only [.log, .lnk] s t ∧ (t.po n).rxSeq = (s.po n).rxSeq ∧
          Replies (t.po n) (decide ((flitSeq f - (s.po n).rxSeq).toNat < 2048)) (s.po n).rxSeq)))

/-- R286, R315, R319, R325, R326, R330 to R332, R443, R465. The words of the re-sharding messages and what may be lent are the model's
choice (log 44), the collective store and its engine log 42, a chip that is lost log 47, the set-up segment log 17, and that a status
which Table 23.9 does not list counts as CHIP_LOST log 76. -/
def Obligations.Messages : Prop := ∀ (s : State) (m : Fin 39),
  let n := m.val
  (∀ src x, ¬(s.nightwatch = true ∧ (s.po n).st = .active ∧ s.pwr.removing = false) → exec (.sys m src x) s = .next s) ∧
  (s.nightwatch = true → (s.po n).st = .active → s.pwr.removing = false → ∀ (src : BitVec 14) (p : Fin 64) (no i : Nat) (sid : BitVec 32),
    let P := s.pt p.val
    let back := s.sendSys src 12 [BitVec.ofNat 64 p.val, sid.setWidth 64]
    -- a lend ends
    (let u := s.modSeq p.val sid fun q => { q with lent := q.lent - 1 }
     ((∀ q, P.seqOf sid = some q → s.batchServed p.val q.batch = true ∨ q.st ≠ .admitted) → exec (.sys m src (.lendEnd p sid)) s = .next u) ∧
      (∀ q, P.seqOf sid = some q → s.batchServed p.val q.batch = false → q.st = .admitted →
        exec (.sys m src (.lendEnd p sid)) s = .next ((u.joinBatch p.val sid).copyShared p.val sid))) ∧
    -- pages are asked for
    (∀ cnt : BitVec 32,
      let row := .sys m src (.pageListAsk p no i sid cnt)
      let refuses := fun st : BitVec 16 => exec row s = .next (s.sendSys src 12
        [BitVec.ofNat 64 p.val, BitVec.ofNat 64 no, BitVec.ofNat 64 i, st.setWidth 64])
      (P.contained = true → refuses stPartContained) ∧ (P.contained = false → P.seqOf sid = none → refuses stKvBusy) ∧
      ∀ q l, P.contained = false → P.seqOf sid = some q → kvLayout q.layout = some l →
        let busy := q.st = .swapped ∨ q.st = .resuming ∨ (q.st = .resident ∧ s.batchServed p.val q.batch = true)
        let pages := (List.range ((cnt.toNat + l.p - 1) / l.p)).flatMap fun g => (P.group (nth 0 q.groups g)).pages
        (busy → refuses stKvBusy) ∧ (¬busy → q.cursor < cnt.toNat → refuses stReshardLayout) ∧
        (¬busy → cnt.toNat ≤ q.cursor → exec row s =
          .next ((s.modSeq p.val sid fun q => { q with lent := q.lent + 1 }).sendSys src 12
            ([BitVec.ofNat 64 p.val, BitVec.ofNat 64 no, BitVec.ofNat 64 i, sid.setWidth 64, q.layout.setWidth 64,
              if pages.any (fun pg => P.prot (65536 * pg)) then 1 else 0] ++ pages.map (BitVec.ofNat 64))))) ∧
    -- pages come, or a refusal
    (∀ lay pages prot st,
      let give := exec (.sys m src (.pageListGive p no i sid lay pages prot)) s
      let refuse := exec (.sys m src (.pageListRefuse p no i st)) s
      (P.reshPlan = none → give = .next back ∧ refuse = .next s) ∧
      ∀ q, P.reshPlan = some q → ((no ≠ P.reshNo ∨ q.asked = false) → give = .next back ∧ refuse = .next s) ∧ (no = P.reshNo → q.asked = true →
        (∀ chip rest, q.cur.ranges[i]? = some (chip, rest) → chip ≠ src → give = .next s ∧ refuse = .next s) ∧
        (q.cur.ranges[i]? = none → give = .next s ∧ refuse = .next s) ∧
        (∀ rest, q.cur.ranges[i]? = some (src, rest) →
          give = .next ((s.reshGot p.val i lay pages prot).reshStep p.val) ∧
          refuse = .next (if q.ready then s else (s.modPt p.val fun P => { P with reshPlan := some (q.withStatus st) }).reshStep p.val))))) ∧
  (∀ x : CollMsg,
    let p := x.key.1
    let h := x.key.2.1
    let rank := x.key.2.2.1
    -- the entry and its list are read as a structure of the partition
    let w := (s.collTouch (finPart p) h).1
    let tgt := w.collTarget p h rank
    let head := tgt.bind w.collHead
    let cur := head.map fun y => y.2.key
    let full : Prop := some x.key ≠ cur ∧ 131072 < w.storeHeld p rank tgt + x.size
    let engine := match tgt with | some c => c + 1 | none => 1024 + rank
    let in1 := w.modPt p fun P => P.keepMsg x (decide full)
    let kept := if full then in1.modPo n fun q => { q with stops := q.stops ++ [(p, engine, x.vc)] } else in1
    (s.mem.flaw = [] → s.mem.poison = [] → w = s) ∧
    (∀ g st, x = .stop g st → st ∉ statusCodes → exec (.collAbort m g st) s = exec (.collAbort m g stChipLost) s) ∧
    (¬PortIn s n [.active] → exec (collRow m x) s = .next s) ∧
    (PortIn s n [.active] → s.collEntry p h = none → exec (collRow m x) s = .next (s.noteSev .portState 3 (BitVec.ofNat 8 p) stAdmitDenied
      [(collSource x).setWidth 64, BitVec.ofNat 64 p, BitVec.ofNat 64 (s.lnk.chip.toNat * 2 ^ 42)])) ∧
    (PortIn s n [.active] → s.collEntry p h ≠ none →
      ((s.pt p).contained = true → s.collGroup p h = none → exec (collRow m x) s = .next s) ∧
      (∀ g st, (s.pt p).contained = true → x = .stop g st → exec (collRow m x) s = .next s) ∧
      (∀ rs, (s.pt p).contained = true → s.collGroup p h = some rs → (∀ g st, x ≠ .stop g st) → ∃ hd : BitVec 256,
        hd.toNat % 2 ^ 16 = h ∧ hd.toNat / 2 ^ 16 % 2 ^ 16 = x.key.2.2.2 ∧ hd.toNat / 2 ^ 64 % 2 ^ 16 = rank ∧ hd.toNat / 2 ^ 80 % 2 ^ 8 = 3 ∧
        exec (collRow m x) s = .next (((rs.map (·.chip)).filter (· ≠ s.lnk.chip.toNat)).foldl (fun (u : State) d =>
          (u.send (abortTo s p d stPartContained hd)).1) s)) ∧
      ((s.pt p).contained = false → (w.pt p).contained = false → (∀ g st, x = .stop g st → st ∈ statusCodes) → some x.key ≠ cur →
        exec (collRow m x) s = .next kept) ∧
      (∀ c j kk, (s.pt p).contained = false → (w.pt p).contained = false → (∀ g st, x = .stop g st → st ∈ statusCodes) → tgt = some c →
        w.collHead c = some (j, kk) → kk.key = x.key → exec (collRow m x) s = .next (cStep c j kept).freeStops ∧
        ∀ g st, x = .stop g st → j.dead = false → j.fault = 0 → (∀ y ∈ (w.pt p).collIn, y.key ≠ x.key) →
          exec (collRow m x) s = .next (kept.collFail c j true st).freeStops))) ∧
  (∀ chip : BitVec 14, (s.live = false → exec (.failureNotice chip) s = .next s.goOn) ∧
    (s.live = true → ∃ u : State, exec (.failureNotice chip) s = .next u.goOn ∧ (∀ q ∈ u.lnk.reqs, q.chip ≠ chip) ∧
      ((∀ q ∈ s.lnk.reqs, q.chip ≠ chip) → u.lnk.reqs = s.lnk.reqs) ∧
      ∀ p q i rest, (s.pt p).reshPlan = some q → q.asked = true → q.ready = false → q.status = 0 → q.cur.ranges[i]? = some (chip, rest) →
        (∀ g ∈ q.got, g.1 ≠ i) → ∃ q', (u.pt p).reshPlan = some q' ∧ q'.status = stChipLost))

/-- R430 to R435, R441, R458 to R469. What self-test and boot find is their operand; the input voltage, the units without which nothing is
served and the recovery are the model's choice (log 54), and so are the classes and the times of error records (log 55). -/
def Obligations.PowerUpAndErrors : Prop := ∀ s : State,
  (if s.pwr.pins.present then exec .bladeMate s = .next s else exec .bladeMate s = .next (s.setPwr { s.pwr with
    pins := { s.pwr.pins with present := true, vin := 64000 }, charged := true })) ∧
  (∀ r ∈ cutRows, ∃ t, exec r.1 s = .next t ∧ r.2.1 s.pwr.pins t.pwr.pins ∧ t.pwr.trip = (s.pwr.trip && !r.2.2.1) ∧ t.pwr.charged = (s.pwr.charged && !r.2.2.2) ∧
    (s.pwr.rails = true → RailsDown s t) ∧
    (s.pwr.rails = false → Only [.pwr, .freeTick] s t ∧ t.pwr = { s.pwr with pins := t.pwr.pins, trip := t.pwr.trip, charged := t.pwr.charged })) ∧
  (∀ e : BootEnv,
    let may := s.pwr.pins.present = true ∧ s.pwr.charged = true ∧ s.pwr.pins.enable = false ∧ s.pwr.rails = false ∧ s.pwr.trip = false
    let boots := if (s.flash.slot s.flash.bootSlot).valid then some s.flash.bootSlot
      else if (s.flash.slot (!s.flash.bootSlot)).valid then some (!s.flash.bootSlot) else none
    (¬may → exec (.powerUp e) s = .next s) ∧
    (may → s.fw.write = none → s.cfg.write = none → ∃ t, exec (.powerUp e) s = .next t ∧ t.pwr.rails = true ∧
      t.pwr.pins = { s.pwr.pins with enable := true, refclk := true, slot := e.slotStraps, enrolN := e.enrolN, vin := t.pwr.pins.vin } ∧
      60000 ≤ t.pwr.pins.vin ∧ t.pwr.pins.vin ≤ 68000 ∧ (60000 ≤ s.pwr.pins.vin → s.pwr.pins.vin ≤ 68000 → t.pwr.pins.vin = s.pwr.pins.vin) ∧ t.pwr.slotId = e.slotStraps ∧
      t.glb.badCores = e.badCores.map (·.val) ∧ t.glb.badGroups = e.badGroups.map (·.val) ∧ t.glb.badPorts = e.badPorts.map (·.val) ∧
      (∀ c, c ∈ t.glb.badClusters ↔ c < 768 ∧ FailsTest e c) ∧ t.glb.fatalSet = false ∧ t.glb.bootMs = e.bootMs ∧ t.grd.nonce = e.nonce ∧
      t.tasks = [] ∧ t.pending = s.pending ∧
      (¬Serves e → t.pwr.boot = .noCore) ∧
      (Serves e → boots = none → t.pwr.boot = .recovery ∧ t.glb.noFw = true) ∧
      ∀ b, Serves e → boots = some b → t.pwr.boot = .booting ∧ t.fw.active = b ∧ t.fw.booted = b ∧ t.glb.slotFallback = decide (b ≠ s.flash.bootSlot) ∧
        t.pwr.cap = s.flash.boots.power.getD 600 ∧ t.capW = min 1500 (max 300 t.pwr.cap.toNat) ∧
        t.mem.ctrlSram = (s.flash.slot b).loadInto [] ∧
        ∀ c, c < 768 → (if c ∈ t.glb.badClusters then (t.cl c).cstate = .off ∧ (t.cl c).segOn = 0 else (t.cl c).cstate = .run ∧
          ∀ g, g < 4 → ((t.cl c).segOn.getLsbD g = true ↔ ∀ x ∈ e.badSegs, x.1.val = c → x.2.val ≠ g)) ∧ (t.cl c).spad = [])) ∧
  (¬(s.live = true ∧ s.pwr.boot = .booting) → exec .bootComplete s = .next s) ∧
  (s.live = true → s.pwr.boot = .booting → ∃ t, exec .bootComplete s = .next t ∧ t.pwr = { s.pwr with boot := .ready } ∧
    ∀ n, n < 39 → (s.badPort n = true → (t.po n).st = .down) ∧ (s.badPort n = false → s.litTarget n ≠ 0 → Trains t n ∧ (t.po n).lit = s.litTarget n) ∧
      (s.badPort n = false → s.litTarget n = 0 → t.po n = s.po n)) ∧
  (∀ c : Fin 768, let x := s.cl c.val
    let r := s.mkErr stErrUnitInternal 2 (s.partOf c.val) 1 c.val 0 1 0
    let p := x.part.toNat
    (s.live = false → exec (.unitInternalError c) s = .next s) ∧
    (s.live = true → ∃ t, exec (.unitInternalError c) s = .next t ∧ t.log.errq = s.log.errq ++ [r] ∧ t.glb.degraded = true ∧
      (∀ d, d ∈ t.glb.badClusters ↔ d = c.val ∨ d ∈ s.glb.badClusters) ∧ (t.cl c.val).units = [] ∧ (t.cl c.val).cores = [] ∧
      (x.owned = false → t.parts = s.parts ∧ t.tasks = s.tasks ∧ t.mem = s.mem) ∧
      (x.owned = true → (s.pt p).contained = true → (t.pt p) = { s.pt p with
          more := satAdd (s.pt p).more 1, collFailed := (t.pt p).collFailed, collIn := (t.pt p).collIn } ∧ t.tasks = s.tasks) ∧
      (x.owned = true → (s.pt p).contained = false → (t.pt p).contained = true ∧ (t.pt p).errRecord = BitVec.ofNat 256 (leNat (r.bytes false)) ∧
        ∀ T, s.findTask T.id = some T → T.id.part.val = p → T.fault = none → ∃ T', t.findTask T.id = some T' ∧ T'.steps = [] ∧
          T'.fault.map (·.status) = some (if x.task = some T.id then stErrUnitInternal else stPartContained)))) ∧
  (∀ p : Fin 64, (¬(s.live = true ∧ (s.pt p.val).defined = true) → exec (.hostRequestError p) s = .next s) ∧
    (s.live = true → (s.pt p.val).defined = true → ∃ t, exec (.hostRequestError p) s = .next t ∧ (t.pt p.val).contained = true ∧
      t.log.errq = s.log.errq ++ [s.mkErr stErrHostRequest 2 (BitVec.ofNat 8 p.val) 7 0 0 1 0] ∧ t.glb = s.glb ∧
      (t.pt p.val).more = if (s.pt p.val).contained then satAdd (s.pt p.val).more 1 else (s.pt p.val).more)) ∧
  (∀ (st u i : BitVec 16) (ak : BitVec 8) (addr : Word),
    if s.live = true ∧ st ∈ [stErrCtrlSram, stErrWatchdog, stErrMesh, stErrVaultInternal, stErrPowerStage, stThermalTrip] then
      ∃ t, exec (.fatalError st u i ak addr) s = .next t ∧ GoesFatal s t (s.mkErr st 3 0xFF u.toNat i.toNat addr.toNat 1 ak)
    else exec (.fatalError st u i ak addr) s = .next s) ∧
  (∀ k : Fin 8, if s.live = true ∧ k.val ∉ s.glb.badCores then
      ∃ t, exec (.watchdogExpiry k) s = .next t ∧ GoesFatal s t (s.mkErr stErrWatchdog 3 0xFF 6 k.val 0 1 0)
    else exec (.watchdogExpiry k) s = .next s) ∧
  (∀ (st u i : BitVec 16) (pa ak : BitVec 8) (addr : Word) (cnt : BitVec 32),
    let key := 65536 * u.toNat + i.toNat
    let own := u.toNat ∈ [2, 4, 5]
    let r : Rise := if own then mget Rise.zero s.log.rise key else { count := cnt, addr := addr }
    if s.live = true ∧ st ∈ [stErrCorrectedMem, stErrCorrectedLink, stErrCorrectedPcie] ∧ r.count ≠ 0 then
      exec (.correctedRecord st u i pa ak addr cnt) s = .next (s.setLog { s.log with
        errq := s.log.errq ++ [s.mkErr st 0 pa u.toNat i.toNat r.addr.toNat r.count.toNat ak]
        rise := if own then mset Rise.zero s.log.rise key Rise.zero else s.log.rise })
    else exec (.correctedRecord st u i pa ak addr cnt) s = .next s)
end

