-- ==== Sys2Proof/Laws/Maps.lean ====
section
/-! SUPPORT. Laws of the sparse maps: a read after a write, the canonical form, and that canonical maps with equal reads are
equal. -/

namespace Sys2Proof.Machine

variable {α : Type}

/-! ### Reads after writes: on any list, canonical or not -/

@[simp] theorem mget_nil (d : α) (k : Nat) : mget d [] k = d := rfl

theorem mget_mput (d : α) (m : Map α) (k j : Nat) (v : α) : mget d (mput m k v) j = if j = k then v else mget d m j := by
  induction m with
  | nil => simp [mput, mget]
  | cons h t ih =>
    obtain ⟨k', v'⟩ := h
    simp only [mput]
    split
    · simp only [mget]
    · split
      · next e => subst e; simp only [mget]; split <;> rfl
      · next ne =>
        simp only [mget, ih]
        by_cases h1 : j = k' <;> by_cases h2 : j = k <;> simp_all

theorem mget_merase (d : α) (m : Map α) (k j : Nat) : mget d (merase m k) j = if j = k then d else mget d m j := by
  induction m with
  | nil => simp [merase, mget]
  | cons h t ih =>
    obtain ⟨k', v'⟩ := h
    simp only [merase]
    split
    · next e => subst e; rw [ih]; by_cases h1 : j = k <;> simp [mget, h1]
    · next ne => simp only [mget, ih]; by_cases h1 : j = k' <;> by_cases h2 : j = k <;> simp_all

/-- A read after a write gives the value written at its key and leaves every other key alone. -/
theorem mget_mset [DecidableEq α] (d : α) (m : Map α) (k j : Nat) (v : α) :
    mget d (mset d m k v) j = if j = k then v else mget d m j := by
  unfold mset
  split
  · next h => rw [mget_merase, h]
  · exact mget_mput d m k j v

@[simp] theorem mget_mset_self [DecidableEq α] (d : α) (m : Map α) (k : Nat) (v : α) : mget d (mset d m k v) k = v := by
  simp [mget_mset]
theorem mget_mset_ne [DecidableEq α] (d : α) (m : Map α) {k j : Nat} (v : α) (h : j ≠ k) :
    mget d (mset d m k v) j = mget d m j := by
  simp [mget_mset, h]

/-! ### Canonical form -/

theorem mwfFrom_mono [DecidableEq α] (d : α) (m : Map α) {lo : Option Nat} {l : Nat} (h : mwfFrom d (some l) m = true)
    (hlo : ∀ x, lo = some x → x ≤ l) : mwfFrom d lo m = true := by
  cases m with
  | nil => rfl
  | cons p t =>
    obtain ⟨k, v⟩ := p
    cases lo with
    | none => simp_all [mwfFrom]
    | some x =>
      have := hlo x rfl
      simp only [mwfFrom, Bool.and_eq_true, decide_eq_true_eq] at h ⊢
      exact ⟨⟨by omega, h.1.2⟩, h.2⟩

theorem mwfFrom_mput [DecidableEq α] (d : α) (m : Map α) (lo : Option Nat) (k : Nat) (v : α) (h : mwfFrom d lo m = true)
    (hv : v ≠ d) (hk : ∀ x, lo = some x → x < k) : mwfFrom d lo (mput m k v) = true := by
  induction m generalizing lo with
  | nil => cases lo <;> simp_all [mput, mwfFrom]
  | cons p t ih =>
    obtain ⟨k', v'⟩ := p
    have hb : mwfFrom d (some k') t = true ∧ v' ≠ d := by
      simp only [mwfFrom, Bool.and_eq_true, decide_eq_true_eq] at h; exact ⟨h.2, h.1.2⟩
    have hlo : ∀ x, lo = some x → x < k' := by
      intro x hx; subst hx; simp only [mwfFrom, Bool.and_eq_true, decide_eq_true_eq] at h; exact h.1.1
    simp only [mput]
    split
    · next hlt => cases lo <;> simp_all [mwfFrom]
    · split
      · next e => subst e; cases lo <;> simp_all [mwfFrom]
      · next hn hne =>
        have := ih (some k') hb.1 (fun x hx => by cases hx; omega)
        cases lo <;> simp_all [mwfFrom]

theorem mwfFrom_merase [DecidableEq α] (d : α) (m : Map α) (lo : Option Nat) (k : Nat) (h : mwfFrom d lo m = true) :
    mwfFrom d lo (merase m k) = true := by
  induction m generalizing lo with
  | nil => rfl
  | cons p t ih =>
    obtain ⟨k', v'⟩ := p
    have hb : mwfFrom d (some k') t = true := by
      simp only [mwfFrom, Bool.and_eq_true] at h; exact h.2
    have hlo : ∀ x, lo = some x → x ≤ k' := by
      intro x hx; subst hx; simp only [mwfFrom, Bool.and_eq_true, decide_eq_true_eq] at h; omega
    simp only [merase]
    split
    · exact mwfFrom_mono d _ (ih (some k') hb) hlo
    · have := ih (some k') hb
      cases lo <;> simp_all [mwfFrom]

/-- Every write keeps the canonical form. -/
theorem mwf_mset [DecidableEq α] (d : α) (m : Map α) (k : Nat) (v : α) (h : mwf d m = true) : mwf d (mset d m k v) = true := by
  unfold mset
  split
  · exact mwfFrom_merase d m none k h
  · next hv => exact mwfFrom_mput d m none k v h hv (fun x hx => by cases hx)

theorem mwf_nil [DecidableEq α] (d : α) : mwf d ([] : Map α) = true := rfl

/-- Keys below the bound of a canonical map read as the default. -/
theorem mget_below [DecidableEq α] (d : α) (m : Map α) (l j : Nat) (h : mwfFrom d (some l) m = true) (hj : j ≤ l) :
    mget d m j = d := by
  induction m generalizing l with
  | nil => rfl
  | cons p t ih =>
    obtain ⟨k, v⟩ := p
    simp only [mwfFrom, Bool.and_eq_true, decide_eq_true_eq] at h
    simp only [mget]
    rw [if_neg (by omega), ih k h.2 (by omega)]

theorem mwfFrom_ext [DecidableEq α] (d : α) (m n : Map α) (lo : Option Nat) (hm : mwfFrom d lo m = true)
    (hn : mwfFrom d lo n = true) (h : ∀ k, mget d m k = mget d n k) : m = n := by
  induction m generalizing n lo with
  | nil =>
    cases n with
    | nil => rfl
    | cons p t =>
      obtain ⟨k, v⟩ := p
      have := h k
      simp [mget] at this
      simp only [mwfFrom, Bool.and_eq_true, decide_eq_true_eq] at hn
      exact absurd this.symm hn.1.2
  | cons p t ih =>
    obtain ⟨k, v⟩ := p
    have hm' := hm
    simp only [mwfFrom, Bool.and_eq_true, decide_eq_true_eq] at hm'
    cases n with
    | nil =>
      have := h k
      simp [mget] at this
      exact absurd this hm'.1.2
    | cons q u =>
      obtain ⟨j, w⟩ := q
      have hn' := hn
      simp only [mwfFrom, Bool.and_eq_true, decide_eq_true_eq] at hn'
      have hkj : k = j := by
        rcases Nat.lt_trichotomy k j with hlt | heq | hgt
        · have := h k
          rw [mget, if_pos rfl, mget, if_neg (by omega), mget_below d u j k hn'.2 (by omega)] at this
          exact absurd this hm'.1.2
        · exact heq
        · have := h j
          rw [mget, if_neg (by omega), mget, if_pos rfl, mget_below d t k j hm'.2 (by omega)] at this
          exact absurd this.symm hn'.1.2
      subst hkj
      have hv : v = w := by have := h k; simpa [mget] using this
      subst hv
      have : t = u := ih u (some k) hm'.2 hn'.2 (fun i => by
        by_cases hi : i = k
        · subst hi
          rw [mget_below d t i i hm'.2 (Nat.le_refl _), mget_below d u i i hn'.2 (Nat.le_refl _)]
        · have := h i; simpa [mget, hi] using this)
      rw [this]

/-- Canonical maps that read alike are equal data. -/
theorem mwf_ext [DecidableEq α] (d : α) (m n : Map α) (hm : mwf d m = true) (hn : mwf d n = true)
    (h : ∀ k, mget d m k = mget d n k) : m = n := mwfFrom_ext d m n none hm hn h

end Sys2Proof.Machine
end

