-- ==== Sys2Proof/Laws/State.lean ====
section
/-! SUPPORT. What each update of a component leaves in each field, by `rfl`, and what the register operations read back. -/

namespace Sys2Proof.Machine

@[simp] theorem State.setPwr_fields (s : State) (x : Pwr) :
    (s.setPwr x).pending = s.pending ∧ (s.setPwr x).pwr = x ∧ (s.setPwr x).clk = s.clk ∧ (s.setPwr x).glb = s.glb ∧
    (s.setPwr x).cfg = s.cfg ∧ (s.setPwr x).flash = s.flash ∧ (s.setPwr x).grd = s.grd ∧ (s.setPwr x).fw = s.fw ∧
    (s.setPwr x).log = s.log ∧ (s.setPwr x).hif = s.hif ∧ (s.setPwr x).mem = s.mem ∧ (s.setPwr x).lnk = s.lnk ∧
    (s.setPwr x).mer = s.mer ∧ (s.setPwr x).parts = s.parts ∧ (s.setPwr x).clusters = s.clusters ∧
    (s.setPwr x).ccores = s.ccores ∧ (s.setPwr x).tasks = s.tasks ∧ (s.setPwr x).freeTick = s.freeTick :=
  ⟨rfl, rfl, rfl, rfl, rfl, rfl, rfl, rfl, rfl, rfl, rfl, rfl, rfl, rfl, rfl, rfl, rfl, rfl⟩
@[simp] theorem State.setClk_fields (s : State) (x : Clk) :
    (s.setClk x).pending = s.pending ∧ (s.setClk x).pwr = s.pwr ∧ (s.setClk x).clk = x ∧ (s.setClk x).glb = s.glb ∧
    (s.setClk x).cfg = s.cfg ∧ (s.setClk x).flash = s.flash ∧ (s.setClk x).grd = s.grd ∧ (s.setClk x).fw = s.fw ∧
    (s.setClk x).log = s.log ∧ (s.setClk x).hif = s.hif ∧ (s.setClk x).mem = s.mem ∧ (s.setClk x).lnk = s.lnk ∧
    (s.setClk x).mer = s.mer ∧ (s.setClk x).parts = s.parts ∧ (s.setClk x).clusters = s.clusters ∧
    (s.setClk x).ccores = s.ccores ∧ (s.setClk x).tasks = s.tasks ∧ (s.setClk x).freeTick = s.freeTick :=
  ⟨rfl, rfl, rfl, rfl, rfl, rfl, rfl, rfl, rfl, rfl, rfl, rfl, rfl, rfl, rfl, rfl, rfl, rfl⟩
@[simp] theorem State.setGlb_fields (s : State) (x : Glb) :
    (s.setGlb x).pending = s.pending ∧ (s.setGlb x).pwr = s.pwr ∧ (s.setGlb x).clk = s.clk ∧ (s.setGlb x).glb = x ∧
    (s.setGlb x).cfg = s.cfg ∧ (s.setGlb x).flash = s.flash ∧ (s.setGlb x).grd = s.grd ∧ (s.setGlb x).fw = s.fw ∧
    (s.setGlb x).log = s.log ∧ (s.setGlb x).hif = s.hif ∧ (s.setGlb x).mem = s.mem ∧ (s.setGlb x).lnk = s.lnk ∧
    (s.setGlb x).mer = s.mer ∧ (s.setGlb x).parts = s.parts ∧ (s.setGlb x).clusters = s.clusters ∧
    (s.setGlb x).ccores = s.ccores ∧ (s.setGlb x).tasks = s.tasks ∧ (s.setGlb x).freeTick = s.freeTick :=
  ⟨rfl, rfl, rfl, rfl, rfl, rfl, rfl, rfl, rfl, rfl, rfl, rfl, rfl, rfl, rfl, rfl, rfl, rfl⟩
@[simp] theorem State.setCfg_fields (s : State) (x : Cfg) :
    (s.setCfg x).pending = s.pending ∧ (s.setCfg x).pwr = s.pwr ∧ (s.setCfg x).clk = s.clk ∧ (s.setCfg x).glb = s.glb ∧
    (s.setCfg x).cfg = x ∧ (s.setCfg x).flash = s.flash ∧ (s.setCfg x).grd = s.grd ∧ (s.setCfg x).fw = s.fw ∧
    (s.setCfg x).log = s.log ∧ (s.setCfg x).hif = s.hif ∧ (s.setCfg x).mem = s.mem ∧ (s.setCfg x).lnk = s.lnk ∧
    (s.setCfg x).mer = s.mer ∧ (s.setCfg x).parts = s.parts ∧ (s.setCfg x).clusters = s.clusters ∧
    (s.setCfg x).ccores = s.ccores ∧ (s.setCfg x).tasks = s.tasks ∧ (s.setCfg x).freeTick = s.freeTick :=
  ⟨rfl, rfl, rfl, rfl, rfl, rfl, rfl, rfl, rfl, rfl, rfl, rfl, rfl, rfl, rfl, rfl, rfl, rfl⟩
@[simp] theorem State.setFlash_fields (s : State) (x : Flash) :
    (s.setFlash x).pending = s.pending ∧ (s.setFlash x).pwr = s.pwr ∧ (s.setFlash x).clk = s.clk ∧
    (s.setFlash x).glb = s.glb ∧ (s.setFlash x).cfg = s.cfg ∧ (s.setFlash x).flash = x ∧ (s.setFlash x).grd = s.grd ∧
    (s.setFlash x).fw = s.fw ∧ (s.setFlash x).log = s.log ∧ (s.setFlash x).hif = s.hif ∧ (s.setFlash x).mem = s.mem ∧
    (s.setFlash x).lnk = s.lnk ∧ (s.setFlash x).mer = s.mer ∧ (s.setFlash x).parts = s.parts ∧
    (s.setFlash x).clusters = s.clusters ∧ (s.setFlash x).ccores = s.ccores ∧ (s.setFlash x).tasks = s.tasks ∧
    (s.setFlash x).freeTick = s.freeTick :=
  ⟨rfl, rfl, rfl, rfl, rfl, rfl, rfl, rfl, rfl, rfl, rfl, rfl, rfl, rfl, rfl, rfl, rfl, rfl⟩
@[simp] theorem State.setGrd_fields (s : State) (x : Grd) :
    (s.setGrd x).pending = s.pending ∧ (s.setGrd x).pwr = s.pwr ∧ (s.setGrd x).clk = s.clk ∧ (s.setGrd x).glb = s.glb ∧
    (s.setGrd x).cfg = s.cfg ∧ (s.setGrd x).flash = s.flash ∧ (s.setGrd x).grd = x ∧ (s.setGrd x).fw = s.fw ∧
    (s.setGrd x).log = s.log ∧ (s.setGrd x).hif = s.hif ∧ (s.setGrd x).mem = s.mem ∧ (s.setGrd x).lnk = s.lnk ∧
    (s.setGrd x).mer = s.mer ∧ (s.setGrd x).parts = s.parts ∧ (s.setGrd x).clusters = s.clusters ∧
    (s.setGrd x).ccores = s.ccores ∧ (s.setGrd x).tasks = s.tasks ∧ (s.setGrd x).freeTick = s.freeTick :=
  ⟨rfl, rfl, rfl, rfl, rfl, rfl, rfl, rfl, rfl, rfl, rfl, rfl, rfl, rfl, rfl, rfl, rfl, rfl⟩
@[simp] theorem State.setFw_fields (s : State) (x : Fw) :
    (s.setFw x).pending = s.pending ∧ (s.setFw x).pwr = s.pwr ∧ (s.setFw x).clk = s.clk ∧ (s.setFw x).glb = s.glb ∧
    (s.setFw x).cfg = s.cfg ∧ (s.setFw x).flash = s.flash ∧ (s.setFw x).grd = s.grd ∧ (s.setFw x).fw = x ∧
    (s.setFw x).log = s.log ∧ (s.setFw x).hif = s.hif ∧ (s.setFw x).mem = s.mem ∧ (s.setFw x).lnk = s.lnk ∧
    (s.setFw x).mer = s.mer ∧ (s.setFw x).parts = s.parts ∧ (s.setFw x).clusters = s.clusters ∧
    (s.setFw x).ccores = s.ccores ∧ (s.setFw x).tasks = s.tasks ∧ (s.setFw x).freeTick = s.freeTick :=
  ⟨rfl, rfl, rfl, rfl, rfl, rfl, rfl, rfl, rfl, rfl, rfl, rfl, rfl, rfl, rfl, rfl, rfl, rfl⟩
@[simp] theorem State.setLog_fields (s : State) (x : Log) :
    (s.setLog x).pending = s.pending ∧ (s.setLog x).pwr = s.pwr ∧ (s.setLog x).clk = s.clk ∧ (s.setLog x).glb = s.glb ∧
    (s.setLog x).cfg = s.cfg ∧ (s.setLog x).flash = s.flash ∧ (s.setLog x).grd = s.grd ∧ (s.setLog x).fw = s.fw ∧
    (s.setLog x).log = x ∧ (s.setLog x).hif = s.hif ∧ (s.setLog x).mem = s.mem ∧ (s.setLog x).lnk = s.lnk ∧
    (s.setLog x).mer = s.mer ∧ (s.setLog x).parts = s.parts ∧ (s.setLog x).clusters = s.clusters ∧
    (s.setLog x).ccores = s.ccores ∧ (s.setLog x).tasks = s.tasks ∧ (s.setLog x).freeTick = s.freeTick :=
  ⟨rfl, rfl, rfl, rfl, rfl, rfl, rfl, rfl, rfl, rfl, rfl, rfl, rfl, rfl, rfl, rfl, rfl, rfl⟩
@[simp] theorem State.setHif_fields (s : State) (x : Hif) :
    (s.setHif x).pending = s.pending ∧ (s.setHif x).pwr = s.pwr ∧ (s.setHif x).clk = s.clk ∧ (s.setHif x).glb = s.glb ∧
    (s.setHif x).cfg = s.cfg ∧ (s.setHif x).flash = s.flash ∧ (s.setHif x).grd = s.grd ∧ (s.setHif x).fw = s.fw ∧
    (s.setHif x).log = s.log ∧ (s.setHif x).hif = x ∧ (s.setHif x).mem = s.mem ∧ (s.setHif x).lnk = s.lnk ∧
    (s.setHif x).mer = s.mer ∧ (s.setHif x).parts = s.parts ∧ (s.setHif x).clusters = s.clusters ∧
    (s.setHif x).ccores = s.ccores ∧ (s.setHif x).tasks = s.tasks ∧ (s.setHif x).freeTick = s.freeTick :=
  ⟨rfl, rfl, rfl, rfl, rfl, rfl, rfl, rfl, rfl, rfl, rfl, rfl, rfl, rfl, rfl, rfl, rfl, rfl⟩
@[simp] theorem State.setMem_fields (s : State) (x : Mem) :
    (s.setMem x).pending = s.pending ∧ (s.setMem x).pwr = s.pwr ∧ (s.setMem x).clk = s.clk ∧ (s.setMem x).glb = s.glb ∧
    (s.setMem x).cfg = s.cfg ∧ (s.setMem x).flash = s.flash ∧ (s.setMem x).grd = s.grd ∧ (s.setMem x).fw = s.fw ∧
    (s.setMem x).log = s.log ∧ (s.setMem x).hif = s.hif ∧ (s.setMem x).mem = x ∧ (s.setMem x).lnk = s.lnk ∧
    (s.setMem x).mer = s.mer ∧ (s.setMem x).parts = s.parts ∧ (s.setMem x).clusters = s.clusters ∧
    (s.setMem x).ccores = s.ccores ∧ (s.setMem x).tasks = s.tasks ∧ (s.setMem x).freeTick = s.freeTick :=
  ⟨rfl, rfl, rfl, rfl, rfl, rfl, rfl, rfl, rfl, rfl, rfl, rfl, rfl, rfl, rfl, rfl, rfl, rfl⟩
@[simp] theorem State.setLnk_fields (s : State) (x : Lnk) :
    (s.setLnk x).pending = s.pending ∧ (s.setLnk x).pwr = s.pwr ∧ (s.setLnk x).clk = s.clk ∧ (s.setLnk x).glb = s.glb ∧
    (s.setLnk x).cfg = s.cfg ∧ (s.setLnk x).flash = s.flash ∧ (s.setLnk x).grd = s.grd ∧ (s.setLnk x).fw = s.fw ∧
    (s.setLnk x).log = s.log ∧ (s.setLnk x).hif = s.hif ∧ (s.setLnk x).mem = s.mem ∧ (s.setLnk x).lnk = x ∧
    (s.setLnk x).mer = s.mer ∧ (s.setLnk x).parts = s.parts ∧ (s.setLnk x).clusters = s.clusters ∧
    (s.setLnk x).ccores = s.ccores ∧ (s.setLnk x).tasks = s.tasks ∧ (s.setLnk x).freeTick = s.freeTick :=
  ⟨rfl, rfl, rfl, rfl, rfl, rfl, rfl, rfl, rfl, rfl, rfl, rfl, rfl, rfl, rfl, rfl, rfl, rfl⟩
@[simp] theorem State.setMer_fields (s : State) (x : Mer) :
    (s.setMer x).pending = s.pending ∧ (s.setMer x).pwr = s.pwr ∧ (s.setMer x).clk = s.clk ∧ (s.setMer x).glb = s.glb ∧
    (s.setMer x).cfg = s.cfg ∧ (s.setMer x).flash = s.flash ∧ (s.setMer x).grd = s.grd ∧ (s.setMer x).fw = s.fw ∧
    (s.setMer x).log = s.log ∧ (s.setMer x).hif = s.hif ∧ (s.setMer x).mem = s.mem ∧ (s.setMer x).lnk = s.lnk ∧
    (s.setMer x).mer = x ∧ (s.setMer x).parts = s.parts ∧ (s.setMer x).clusters = s.clusters ∧
    (s.setMer x).ccores = s.ccores ∧ (s.setMer x).tasks = s.tasks ∧ (s.setMer x).freeTick = s.freeTick :=
  ⟨rfl, rfl, rfl, rfl, rfl, rfl, rfl, rfl, rfl, rfl, rfl, rfl, rfl, rfl, rfl, rfl, rfl, rfl⟩
@[simp] theorem State.setParts_fields (s : State) (x : Map Part) :
    (s.setParts x).pending = s.pending ∧ (s.setParts x).pwr = s.pwr ∧ (s.setParts x).clk = s.clk ∧
    (s.setParts x).glb = s.glb ∧ (s.setParts x).cfg = s.cfg ∧ (s.setParts x).flash = s.flash ∧ (s.setParts x).grd = s.grd ∧
    (s.setParts x).fw = s.fw ∧ (s.setParts x).log = s.log ∧ (s.setParts x).hif = s.hif ∧ (s.setParts x).mem = s.mem ∧
    (s.setParts x).lnk = s.lnk ∧ (s.setParts x).mer = s.mer ∧ (s.setParts x).parts = x ∧
    (s.setParts x).clusters = s.clusters ∧ (s.setParts x).ccores = s.ccores ∧ (s.setParts x).tasks = s.tasks ∧
    (s.setParts x).freeTick = s.freeTick :=
  ⟨rfl, rfl, rfl, rfl, rfl, rfl, rfl, rfl, rfl, rfl, rfl, rfl, rfl, rfl, rfl, rfl, rfl, rfl⟩
@[simp] theorem State.setClusters_fields (s : State) (x : Map Cluster) :
    (s.setClusters x).pending = s.pending ∧ (s.setClusters x).pwr = s.pwr ∧ (s.setClusters x).clk = s.clk ∧
    (s.setClusters x).glb = s.glb ∧ (s.setClusters x).cfg = s.cfg ∧ (s.setClusters x).flash = s.flash ∧
    (s.setClusters x).grd = s.grd ∧ (s.setClusters x).fw = s.fw ∧ (s.setClusters x).log = s.log ∧
    (s.setClusters x).hif = s.hif ∧ (s.setClusters x).mem = s.mem ∧ (s.setClusters x).lnk = s.lnk ∧
    (s.setClusters x).mer = s.mer ∧ (s.setClusters x).parts = s.parts ∧ (s.setClusters x).clusters = x ∧
    (s.setClusters x).ccores = s.ccores ∧ (s.setClusters x).tasks = s.tasks ∧ (s.setClusters x).freeTick = s.freeTick :=
  ⟨rfl, rfl, rfl, rfl, rfl, rfl, rfl, rfl, rfl, rfl, rfl, rfl, rfl, rfl, rfl, rfl, rfl, rfl⟩
@[simp] theorem State.setCcores_fields (s : State) (x : Map CCore) :
    (s.setCcores x).pending = s.pending ∧ (s.setCcores x).pwr = s.pwr ∧ (s.setCcores x).clk = s.clk ∧
    (s.setCcores x).glb = s.glb ∧ (s.setCcores x).cfg = s.cfg ∧ (s.setCcores x).flash = s.flash ∧
    (s.setCcores x).grd = s.grd ∧ (s.setCcores x).fw = s.fw ∧ (s.setCcores x).log = s.log ∧ (s.setCcores x).hif = s.hif ∧
    (s.setCcores x).mem = s.mem ∧ (s.setCcores x).lnk = s.lnk ∧ (s.setCcores x).mer = s.mer ∧
    (s.setCcores x).parts = s.parts ∧ (s.setCcores x).clusters = s.clusters ∧ (s.setCcores x).ccores = x ∧
    (s.setCcores x).tasks = s.tasks ∧ (s.setCcores x).freeTick = s.freeTick :=
  ⟨rfl, rfl, rfl, rfl, rfl, rfl, rfl, rfl, rfl, rfl, rfl, rfl, rfl, rfl, rfl, rfl, rfl, rfl⟩
@[simp] theorem State.setTasks_fields (s : State) (x : List Task) :
    (s.setTasks x).pending = s.pending ∧ (s.setTasks x).pwr = s.pwr ∧ (s.setTasks x).clk = s.clk ∧
    (s.setTasks x).glb = s.glb ∧ (s.setTasks x).cfg = s.cfg ∧ (s.setTasks x).flash = s.flash ∧ (s.setTasks x).grd = s.grd ∧
    (s.setTasks x).fw = s.fw ∧ (s.setTasks x).log = s.log ∧ (s.setTasks x).hif = s.hif ∧ (s.setTasks x).mem = s.mem ∧
    (s.setTasks x).lnk = s.lnk ∧ (s.setTasks x).mer = s.mer ∧ (s.setTasks x).parts = s.parts ∧
    (s.setTasks x).clusters = s.clusters ∧ (s.setTasks x).ccores = s.ccores ∧ (s.setTasks x).tasks = x ∧
    (s.setTasks x).freeTick = s.freeTick :=
  ⟨rfl, rfl, rfl, rfl, rfl, rfl, rfl, rfl, rfl, rfl, rfl, rfl, rfl, rfl, rfl, rfl, rfl, rfl⟩
@[simp] theorem State.setFreeTick_fields (s : State) (x : Nat) :
    (s.setFreeTick x).pending = s.pending ∧ (s.setFreeTick x).pwr = s.pwr ∧ (s.setFreeTick x).clk = s.clk ∧
    (s.setFreeTick x).glb = s.glb ∧ (s.setFreeTick x).cfg = s.cfg ∧ (s.setFreeTick x).flash = s.flash ∧
    (s.setFreeTick x).grd = s.grd ∧ (s.setFreeTick x).fw = s.fw ∧ (s.setFreeTick x).log = s.log ∧
    (s.setFreeTick x).hif = s.hif ∧ (s.setFreeTick x).mem = s.mem ∧ (s.setFreeTick x).lnk = s.lnk ∧
    (s.setFreeTick x).mer = s.mer ∧ (s.setFreeTick x).parts = s.parts ∧ (s.setFreeTick x).clusters = s.clusters ∧
    (s.setFreeTick x).ccores = s.ccores ∧ (s.setFreeTick x).tasks = s.tasks ∧ (s.setFreeTick x).freeTick = x :=
  ⟨rfl, rfl, rfl, rfl, rfl, rfl, rfl, rfl, rfl, rfl, rfl, rfl, rfl, rfl, rfl, rfl, rfl, rfl⟩
@[simp] theorem State.setCl_fields (s : State) (c : Nat) (x : Cluster) :
    (s.setCl c x).pending = s.pending ∧ (s.setCl c x).pwr = s.pwr ∧ (s.setCl c x).clk = s.clk ∧ (s.setCl c x).glb = s.glb ∧
    (s.setCl c x).cfg = s.cfg ∧ (s.setCl c x).flash = s.flash ∧ (s.setCl c x).grd = s.grd ∧ (s.setCl c x).fw = s.fw ∧
    (s.setCl c x).log = s.log ∧ (s.setCl c x).hif = s.hif ∧ (s.setCl c x).mem = s.mem ∧ (s.setCl c x).lnk = s.lnk ∧
    (s.setCl c x).mer = s.mer ∧ (s.setCl c x).parts = s.parts ∧ (s.setCl c x).clusters = mset Cluster.reset s.clusters c x ∧
    (s.setCl c x).ccores = s.ccores ∧ (s.setCl c x).tasks = s.tasks ∧ (s.setCl c x).freeTick = s.freeTick :=
  ⟨rfl, rfl, rfl, rfl, rfl, rfl, rfl, rfl, rfl, rfl, rfl, rfl, rfl, rfl, rfl, rfl, rfl, rfl⟩
@[simp] theorem State.setPt_fields (s : State) (p : Nat) (x : Part) :
    (s.setPt p x).pending = s.pending ∧ (s.setPt p x).pwr = s.pwr ∧ (s.setPt p x).clk = s.clk ∧ (s.setPt p x).glb = s.glb ∧
    (s.setPt p x).cfg = s.cfg ∧ (s.setPt p x).flash = s.flash ∧ (s.setPt p x).grd = s.grd ∧ (s.setPt p x).fw = s.fw ∧
    (s.setPt p x).log = s.log ∧ (s.setPt p x).hif = s.hif ∧ (s.setPt p x).mem = s.mem ∧ (s.setPt p x).lnk = s.lnk ∧
    (s.setPt p x).mer = s.mer ∧ (s.setPt p x).parts = mset Part.reset s.parts p x ∧ (s.setPt p x).clusters = s.clusters ∧
    (s.setPt p x).ccores = s.ccores ∧ (s.setPt p x).tasks = s.tasks ∧ (s.setPt p x).freeTick = s.freeTick :=
  ⟨rfl, rfl, rfl, rfl, rfl, rfl, rfl, rfl, rfl, rfl, rfl, rfl, rfl, rfl, rfl, rfl, rfl, rfl⟩
@[simp] theorem State.setCc_fields (s : State) (k : Nat) (x : CCore) :
    (s.setCc k x).pending = s.pending ∧ (s.setCc k x).pwr = s.pwr ∧ (s.setCc k x).clk = s.clk ∧ (s.setCc k x).glb = s.glb ∧
    (s.setCc k x).cfg = s.cfg ∧ (s.setCc k x).flash = s.flash ∧ (s.setCc k x).grd = s.grd ∧ (s.setCc k x).fw = s.fw ∧
    (s.setCc k x).log = s.log ∧ (s.setCc k x).hif = s.hif ∧ (s.setCc k x).mem = s.mem ∧ (s.setCc k x).lnk = s.lnk ∧
    (s.setCc k x).mer = s.mer ∧ (s.setCc k x).parts = s.parts ∧ (s.setCc k x).clusters = s.clusters ∧
    (s.setCc k x).ccores = mset CCore.reset s.ccores k x ∧ (s.setCc k x).tasks = s.tasks ∧
    (s.setCc k x).freeTick = s.freeTick :=
  ⟨rfl, rfl, rfl, rfl, rfl, rfl, rfl, rfl, rfl, rfl, rfl, rfl, rfl, rfl, rfl, rfl, rfl, rfl⟩
@[simp] theorem State.setPo_fields (s : State) (n : Nat) (x : Port) :
    (s.setPo n x).pending = s.pending ∧ (s.setPo n x).pwr = s.pwr ∧ (s.setPo n x).clk = s.clk ∧ (s.setPo n x).glb = s.glb ∧
    (s.setPo n x).cfg = s.cfg ∧ (s.setPo n x).flash = s.flash ∧ (s.setPo n x).grd = s.grd ∧ (s.setPo n x).fw = s.fw ∧
    (s.setPo n x).log = s.log ∧ (s.setPo n x).hif = s.hif ∧ (s.setPo n x).mem = s.mem ∧
    (s.setPo n x).lnk = { s.lnk with ports := mset Port.reset s.lnk.ports n x } ∧ (s.setPo n x).mer = s.mer ∧
    (s.setPo n x).parts = s.parts ∧ (s.setPo n x).clusters = s.clusters ∧ (s.setPo n x).ccores = s.ccores ∧
    (s.setPo n x).tasks = s.tasks ∧ (s.setPo n x).freeTick = s.freeTick :=
  ⟨rfl, rfl, rfl, rfl, rfl, rfl, rfl, rfl, rfl, rfl, rfl, rfl, rfl, rfl, rfl, rfl, rfl, rfl⟩
@[simp] theorem State.bump_fields (s : State) (n : Nat) :
    (s.bump n).pending = s.pending ∧ (s.bump n).pwr = s.pwr ∧ (s.bump n).clk = s.clk ∧ (s.bump n).glb = s.glb ∧
    (s.bump n).cfg = s.cfg ∧ (s.bump n).flash = s.flash ∧ (s.bump n).grd = s.grd ∧ (s.bump n).fw = s.fw ∧
    (s.bump n).log = s.log ∧ (s.bump n).hif = s.hif ∧ (s.bump n).mem = s.mem ∧ (s.bump n).lnk = s.lnk ∧
    (s.bump n).mer = s.mer ∧ (s.bump n).parts = s.parts ∧ (s.bump n).clusters = s.clusters ∧ (s.bump n).ccores = s.ccores ∧
    (s.bump n).tasks = s.tasks ∧ (s.bump n).freeTick = s.freeTick + n :=
  ⟨rfl, rfl, rfl, rfl, rfl, rfl, rfl, rfl, rfl, rfl, rfl, rfl, rfl, rfl, rfl, rfl, rfl, rfl⟩

/-! ### One unit read after another is written -/

@[simp] theorem State.setCl_cl (s : State) (c d : Nat) (x : Cluster) : (s.setCl c x).cl d = if d = c then x else s.cl d :=
  mget_mset _ _ _ _ _
@[simp] theorem State.setPt_pt (s : State) (p q : Nat) (x : Part) : (s.setPt p x).pt q = if q = p then x else s.pt q :=
  mget_mset _ _ _ _ _
@[simp] theorem State.setCc_cc (s : State) (k j : Nat) (x : CCore) : (s.setCc k x).cc j = if j = k then x else s.cc j :=
  mget_mset _ _ _ _ _
@[simp] theorem State.setPo_po (s : State) (n m : Nat) (x : Port) : (s.setPo n x).po m = if m = n then x else s.po m :=
  mget_mset _ _ _ _ _
@[simp] theorem State.modCl_cl (s : State) (c d : Nat) (f : Cluster → Cluster) :
    (s.modCl c f).cl d = if d = c then f (s.cl c) else s.cl d := State.setCl_cl s c d _
@[simp] theorem State.modPt_pt (s : State) (p q : Nat) (f : Part → Part) :
    (s.modPt p f).pt q = if q = p then f (s.pt p) else s.pt q := State.setPt_pt s p q _
@[simp] theorem State.modCc_cc (s : State) (k j : Nat) (f : CCore → CCore) :
    (s.modCc k f).cc j = if j = k then f (s.cc k) else s.cc j := State.setCc_cc s k j _
@[simp] theorem State.modPo_po (s : State) (n m : Nat) (f : Port → Port) :
    (s.modPo n f).po m = if m = n then f (s.po n) else s.po m := State.setPo_po s n m _

/-! ### Parts of a cluster -/

@[simp] theorem Cluster.setCore_spad (x : Cluster) (k : Nat) (m : MCore) : (x.setCore k m).spad = x.spad := rfl
@[simp] theorem Cluster.setUnit_spad (x : Cluster) (u : Nat) (q : List Job) : (x.setUnit u q).spad = x.spad := rfl
@[simp] theorem Cluster.spadPoisonSet_spad (x : Cluster) (ks : List Nat) : (x.spadPoisonSet ks).spad = x.spad := rfl
@[simp] theorem Cluster.taintHeads_spad (x : Cluster) (u a n : Nat) : (x.taintHeads u a n).spad = x.spad := rfl
@[simp] theorem Cluster.setUnit_unit (x : Cluster) (u v : Nat) (q : List Job) :
    (x.setUnit u q).unit v = if v = u then q else x.unit v := mget_mset _ _ _ _ _
@[simp] theorem Cluster.setCore_mcore (x : Cluster) (k j : Nat) (m : MCore) :
    (x.setCore k m).mcore j = if j = k then m else x.mcore j := mget_mset _ _ _ _ _

end Sys2Proof.Machine
end

