-- ==== Sys2Proof/Laws/Agents.lean ====
section
/-! SUPPORT. The register operations of a sequencer and a control core: what each reads back, and that each changes nothing
but its agent. -/

namespace Sys2Proof.Machine

/-! ### Nothing but the agent -/

theorem AgentOnly.refl (a : Agent) (s : State) : AgentOnly a s s where
  rest := by constructor <;> intros <;> rfl
  clusters := fun _ => rfl
  seqs := fun _ _ => rfl
  cores := fun _ _ => rfl

theorem AgentOnly.modSeq (s : State) (c : Fin 768) (f : Seq → Seq) :
    AgentOnly (.seq c) s (s.modCl c.val fun x => { x with seq := f x.seq }) where
  rest := by constructor <;> intros <;> first | rfl | (rename_i h; exact absurd (by decide) h)
  clusters := by
    intro d; simp only [State.modCl_cl]; split
    · rename_i h; subst h; rfl
    · rfl
  seqs := by
    intro d h; simp only [State.modCl_cl]; rw [if_neg (h c rfl)]
  cores := fun _ _ => rfl

theorem AgentOnly.modCore (s : State) (k : Fin 8) (f : CCore → CCore) : AgentOnly (.core k) s (s.modCc k.val f) where
  rest := by constructor <;> intros <;> first | rfl | (rename_i h; exact absurd (by decide) h)
  clusters := fun _ => rfl
  seqs := fun _ _ => rfl
  cores := by
    intro j h; simp only [State.modCc_cc]; rw [if_neg (h k rfl)]

theorem Only.trans {cs : List Comp} {s t u : State} (h : Only cs s t) (k : Only cs t u) : Only cs s u where
  queue := k.queue.trans h.queue
  pwr x := (k.pwr x).trans (h.pwr x)
  clk x := (k.clk x).trans (h.clk x)
  glb x := (k.glb x).trans (h.glb x)
  cfg x := (k.cfg x).trans (h.cfg x)
  flash x := (k.flash x).trans (h.flash x)
  grd x := (k.grd x).trans (h.grd x)
  fw x := (k.fw x).trans (h.fw x)
  log x := (k.log x).trans (h.log x)
  hif x := (k.hif x).trans (h.hif x)
  mem x := (k.mem x).trans (h.mem x)
  lnk x := (k.lnk x).trans (h.lnk x)
  mer x := (k.mer x).trans (h.mer x)
  parts x := (k.parts x).trans (h.parts x)
  clusters x := (k.clusters x).trans (h.clusters x)
  ccores x := (k.ccores x).trans (h.ccores x)
  tasks x := (k.tasks x).trans (h.tasks x)
  freeTick x := (k.freeTick x).trans (h.freeTick x)

theorem AgentOnly.trans {a : Agent} {s t u : State} (h : AgentOnly a s t) (k : AgentOnly a t u) : AgentOnly a s u where
  rest := h.rest.trans k.rest
  clusters c := (k.clusters c).trans (h.clusters c)
  seqs c x := (k.seqs c x).trans (h.seqs c x)
  cores c x := (k.cores c x).trans (h.cores c x)

theorem State.setS_agentOnly (a : Agent) (s : State) (i : Nat) (v : Word) : AgentOnly a s (s.setS a i v) := by
  unfold State.setS
  split
  · exact AgentOnly.refl a s
  · cases a with
    | seq c => exact AgentOnly.modSeq s c fun q => { q with s := mset 0 q.s i v }
    | core k => exact AgentOnly.modCore s k fun q => { q with s := mset 0 q.s i v }
theorem State.setE_agentOnly (a : Agent) (s : State) (i : Nat) (v : BitVec 16) : AgentOnly a s (s.setE a i v) := by
  cases a with
  | seq c => exact AgentOnly.modSeq s c fun q => { q with e := mset 0 q.e i v }
  | core k => exact AgentOnly.modCore s k fun q => { q with e := mset 0 q.e i v }
theorem State.setP_agentOnly (a : Agent) (s : State) (i : Nat) (v : Bool) : AgentOnly a s (s.setP a i v) := by
  cases a with
  | seq c => exact AgentOnly.modSeq s c fun q => { q with p := mset false q.p i v }
  | core k => exact AgentOnly.modCore s k fun q => { q with p := mset false q.p i v }
theorem State.setD_agentOnly (a : Agent) (s : State) (i : Nat) (v : BitVec 256) : AgentOnly a s (s.setD a i v) := by
  cases a with
  | seq c => exact AgentOnly.modSeq s c fun q => { q with d := mset 0 q.d i v }
  | core k => exact AgentOnly.refl _ s
theorem State.setPc_agentOnly (a : Agent) (s : State) (pc : Nat) (ls : List LoopFrame) : AgentOnly a s (s.setPc a pc ls) := by
  cases a with
  | seq c => exact AgentOnly.modSeq s c fun q => { q with pc := pc, loops := ls }
  | core k => exact AgentOnly.modCore s k fun q => { q with pc := pc, loops := ls }
theorem State.setStatus_agentOnly (a : Agent) (s : State) (v : Word) : AgentOnly a s (s.setStatus a v) := by
  cases a with
  | seq c => exact AgentOnly.modSeq s c fun q => { q with status := v }
  | core k => exact AgentOnly.modCore s k fun q => { q with status := v }
theorem State.stall_agentOnly (a : Agent) (s : State) (x : Stall) : AgentOnly a s (s.stall a x) := by
  cases a with
  | seq c => exact AgentOnly.modSeq s c fun q => { q with run := .stalled x }
  | core k => exact AgentOnly.modCore s k fun q => { q with wait := some x }
theorem State.unstall_agentOnly (a : Agent) (s : State) : AgentOnly a s (s.unstall a) := by
  cases a with
  | seq c => exact AgentOnly.modSeq s c fun q => { q with run := .running }
  | core k => exact AgentOnly.modCore s k fun q => { q with wait := none }

/-! ### The agent's own registers -/

theorem State.setS_regS (a : Agent) (s : State) (i j : Nat) (v : Word) :
    (s.setS a i v).regS a j = if j = i ∧ i ≠ 0 then v else s.regS a j := by
  unfold State.setS State.regS
  by_cases hi : i = 0
  · simp [hi]
  · by_cases hj : j = 0
    · have : ¬(j = i) := by omega
      simp [hj, hi]; omega
    · cases a <;> simp [hi, hj, mget_mset]
theorem State.setE_regE (a : Agent) (s : State) (i j : Nat) (v : BitVec 16) :
    (s.setE a i v).regE a j = if j = i then v else s.regE a j := by
  cases a <;> simp [State.setE, State.regE, mget_mset]
theorem State.setP_regP (a : Agent) (s : State) (i j : Nat) (v : Bool) :
    (s.setP a i v).regP a j = if j = i then v else s.regP a j := by
  cases a <;> simp [State.setP, State.regP, mget_mset]
theorem State.setD_regD (c : Fin 768) (s : State) (i j : Nat) (v : BitVec 256) :
    (s.setD (.seq c) i v).regD (.seq c) j = if j = i then v else s.regD (.seq c) j := by
  simp [State.setD, State.regD, mget_mset]
theorem State.setPc_at (a : Agent) (s : State) (pc : Nat) (ls : List LoopFrame) :
    (s.setPc a pc ls).pcOf a = pc ∧ (s.setPc a pc ls).loopsOf a = ls := by
  cases a <;> simp [State.setPc, State.pcOf, State.loopsOf]

theorem State.setS_kept (a : Agent) (s : State) (i : Nat) (v : Word) : RegsKept a [i] [] [] [] s (s.setS a i v) := by
  refine ⟨fun j hj => ?_, fun j _ => ?_, fun j _ => ?_, fun j _ => ?_, ?_, ?_⟩
  · rw [State.setS_regS, if_neg]; intro h; exact hj (by simp [h.1])
  all_goals
    by_cases hi : i = 0
    · cases a <;> simp [State.setS, hi]
    · cases a <;> simp [State.setS, hi, State.regE, State.regP, State.regD, State.statusOf]
theorem State.setE_kept (a : Agent) (s : State) (i : Nat) (v : BitVec 16) : RegsKept a [] [i] [] [] s (s.setE a i v) := by
  refine ⟨fun j _ => ?_, fun j hj => ?_, fun j _ => ?_, fun j _ => ?_, ?_, ?_⟩
  · cases a <;> simp [State.setE, State.regS]
  · rw [State.setE_regE, if_neg]; intro h; exact hj (by simp [h])
  all_goals cases a <;> simp [State.setE, State.regP, State.regD, State.statusOf]
theorem State.setP_kept (a : Agent) (s : State) (i : Nat) (v : Bool) : RegsKept a [] [] [i] [] s (s.setP a i v) := by
  refine ⟨fun j _ => ?_, fun j _ => ?_, fun j hj => ?_, fun j _ => ?_, ?_, ?_⟩
  · cases a <;> simp [State.setP, State.regS]
  · cases a <;> simp [State.setP, State.regE]
  · rw [State.setP_regP, if_neg]; intro h; exact hj (by simp [h])
  all_goals cases a <;> simp [State.setP, State.regD, State.statusOf]
theorem State.setD_kept (a : Agent) (s : State) (i : Nat) (v : BitVec 256) : RegsKept a [] [] [] [i] s (s.setD a i v) := by
  cases a with
  | core k => constructor <;> simp [State.setD]
  | seq c =>
    refine ⟨fun j _ => ?_, fun j _ => ?_, fun j _ => ?_, fun j hj => ?_, ?_, ?_⟩
    · simp [State.setD, State.regS]
    · simp [State.setD, State.regE]
    · simp [State.setD, State.regP]
    · rw [State.setD_regD, if_neg]; intro h; exact hj (by simp [h])
    all_goals simp [State.setD, State.statusOf]
theorem State.setPc_kept (a : Agent) (s : State) (pc : Nat) (ls : List LoopFrame) : RegsKept a [] [] [] [] s (s.setPc a pc ls) := by
  refine ⟨fun j _ => ?_, fun j _ => ?_, fun j _ => ?_, fun j _ => ?_, ?_, ?_⟩
  all_goals cases a <;> simp [State.setPc, State.regS, State.regE, State.regP, State.regD, State.statusOf]

theorem RegsKept.trans {a : Agent} {S E P D S' E' P' D' : List Nat} {s t u : State} (h : RegsKept a S E P D s t)
    (k : RegsKept a S' E' P' D' t u) : RegsKept a (S ++ S') (E ++ E') (P ++ P') (D ++ D') s u := by
  refine ⟨fun i hi => ?_, fun i hi => ?_, fun i hi => ?_, fun i hi => ?_, k.status.trans h.status, ?_⟩
  · rw [List.mem_append, not_or] at hi; exact (k.scalars i hi.2).trans (h.scalars i hi.1)
  · rw [List.mem_append, not_or] at hi; exact (k.events i hi.2).trans (h.events i hi.1)
  · rw [List.mem_append, not_or] at hi; exact (k.preds i hi.2).trans (h.preds i hi.1)
  · rw [List.mem_append, not_or] at hi; exact (k.descs i hi.2).trans (h.descs i hi.1)
  · have h1 := h.run; have k1 := k.run
    cases a with
    | seq c => exact ⟨k1.1.trans h1.1, k1.2.trans h1.2⟩
    | core j => exact ⟨k1.1.trans h1.1, k1.2.1.trans h1.2.1, k1.2.2.trans h1.2.2⟩

/-! ### An instruction that writes one register and goes on -/

/-- Index and loops where a register is written are those before. -/
theorem State.setS_at (a : Agent) (s : State) (i : Nat) (v : Word) :
    (s.setS a i v).pcOf a = s.pcOf a ∧ (s.setS a i v).loopsOf a = s.loopsOf a := by
  by_cases hi : i = 0
  · cases a <;> simp [State.setS, hi]
  · cases a <;> simp [State.setS, hi, State.pcOf, State.loopsOf]
theorem State.setE_at (a : Agent) (s : State) (i : Nat) (v : BitVec 16) :
    (s.setE a i v).pcOf a = s.pcOf a ∧ (s.setE a i v).loopsOf a = s.loopsOf a := by
  cases a <;> simp [State.setE, State.pcOf, State.loopsOf]
theorem State.setP_at (a : Agent) (s : State) (i : Nat) (v : Bool) :
    (s.setP a i v).pcOf a = s.pcOf a ∧ (s.setP a i v).loopsOf a = s.loopsOf a := by
  cases a <;> simp [State.setP, State.pcOf, State.loopsOf]
theorem State.setD_at (a : Agent) (s : State) (i : Nat) (v : BitVec 256) :
    (s.setD a i v).pcOf a = s.pcOf a ∧ (s.setD a i v).loopsOf a = s.loopsOf a := by
  cases a <;> simp [State.setD, State.pcOf, State.loopsOf]

/-- A state that keeps the agent's index and registers retires with one step on. -/
theorem State.advance_retires {a : Agent} {S E P D : List Nat} {s t : State} (h : AgentOnly a s t) (k : RegsKept a S E P D s t)
    (at' : t.pcOf a = s.pcOf a ∧ t.loopsOf a = s.loopsOf a) : Retires a S E P D s (t.advance a) := by
  refine ⟨h.trans (State.setPc_agentOnly _ _ _ _), ?_, ?_⟩
  · have := k.trans (State.setPc_kept a t (nextPc (t.pcOf a) (t.loopsOf a)).1 (nextPc (t.pcOf a) (t.loopsOf a)).2)
    simpa only [List.append_nil, State.advance] using this
  · have := State.setPc_at a t (nextPc (t.pcOf a) (t.loopsOf a)).1 (nextPc (t.pcOf a) (t.loopsOf a)).2
    simpa only [GoesOn, State.advance, at'.1, at'.2] using this

end Sys2Proof.Machine
end

