-- ==== Sys2Proof/Laws/Bytes.lean ====
section
/-! SUPPORT. Laws of byte lists and of memories as maps of bytes (R7). -/

namespace Sys2Proof.Machine

@[simp] theorem rdBytes_length (m : Map Byte) (a n : Nat) : (rdBytes m a n).length = n := by simp [rdBytes]
@[simp] theorem leBytes_length (n v : Nat) : (leBytes n v).length = n := by
  induction n generalizing v with
  | zero => rfl
  | succ n ih => simp [leBytes, ih]

/-- The low bytes of a number have its value modulo 256 to their count. -/
theorem leNat_leBytes (n v : Nat) : leNat (leBytes n v) = v % 256 ^ n := by
  induction n generalizing v with
  | zero => simp [leBytes, leNat, Nat.mod_one]
  | succ n ih =>
    have h : (256 : Nat) ^ (n + 1) = 256 * 256 ^ n := by rw [Nat.pow_succ, Nat.mul_comm]
    simp only [leBytes, leNat, ih, BitVec.toNat_ofNat]
    rw [h, Nat.mod_mul]

theorem leNat_lt (bs : List Byte) : leNat bs < 256 ^ bs.length := by
  induction bs with
  | nil => simp [leNat]
  | cons b bs ih =>
    simp only [leNat, List.length_cons, Nat.pow_succ]
    have := b.isLt
    omega

/-- Bytes outside a write read as before. -/
theorem mget_wrBytes_out (m : Map Byte) (a x : Nat) (bs : List Byte) (h : x < a ∨ a + bs.length ≤ x) :
    mget 0 (wrBytes m a bs) x = mget 0 m x := by
  induction bs generalizing m a with
  | nil => rfl
  | cons b bs ih =>
    simp only [wrBytes, List.length_cons] at *
    rw [ih _ _ (by omega), mget_mset_ne _ _ _ (by omega)]

/-- Bytes of a write read as written. -/
theorem mget_wrBytes_in (m : Map Byte) (a i : Nat) (bs : List Byte) (h : i < bs.length) :
    mget 0 (wrBytes m a bs) (a + i) = bs[i] := by
  induction bs generalizing m a i with
  | nil => simp at h
  | cons b bs ih =>
    simp only [wrBytes]
    cases i with
    | zero => rw [Nat.add_zero, mget_wrBytes_out _ _ _ _ (by omega)]; simp
    | succ i =>
      have := ih (mset 0 m a b) (a + 1) i (by simpa using h)
      rw [Nat.add_right_comm, Nat.add_assoc] at this
      simpa using this

/-- A read of what was just written. -/
theorem rdBytes_wrBytes (m : Map Byte) (a : Nat) (bs : List Byte) : rdBytes (wrBytes m a bs) a bs.length = bs := by
  apply List.ext_getElem
  · simp
  · intro i h1 h2
    simp only [rdBytes, List.getElem_map, List.getElem_range]
    exact mget_wrBytes_in m a i bs h2

/-- Every write of bytes keeps the canonical form. -/
theorem mwf_wrBytes (m : Map Byte) (a : Nat) (bs : List Byte) (h : mwf 0 m = true) : mwf 0 (wrBytes m a bs) = true := by
  induction bs generalizing m a with
  | nil => exact h
  | cons b bs ih => exact ih _ _ (mwf_mset 0 m a b h)

end Sys2Proof.Machine
end

