-- ==== Sys2Proof/Laws/Keeps.lean ====
section
/-! SUPPORT. What an operation may change, said once per operation: `Keeps w s t` says that t differs from s only in the components
whose bit is set in w, and that the canonical form of the memories and the legal values of the registers carry over. -/

namespace Sys2Proof.Machine

/-- Bit i of w set: component i of the state, in the order of its fields, may differ. -/
structure Keeps (w : Nat) (s t : State) : Prop where
  pwr      : w.testBit 1 = false → t.pwr = s.pwr
  clk      : w.testBit 2 = false → t.clk = s.clk
  glb      : w.testBit 3 = false → t.glb = s.glb
  cfg      : w.testBit 4 = false → t.cfg = s.cfg
  flash    : w.testBit 5 = false → t.flash = s.flash
  grd      : w.testBit 6 = false → t.grd = s.grd
  fw       : w.testBit 7 = false → t.fw = s.fw
  log      : w.testBit 8 = false → t.log = s.log
  hif      : w.testBit 9 = false → t.hif = s.hif
  mem      : w.testBit 10 = false → t.mem = s.mem
  lnk      : w.testBit 11 = false → t.lnk = s.lnk
  mer      : w.testBit 12 = false → t.mer = s.mer
  parts    : w.testBit 13 = false → t.parts = s.parts
  clusters : w.testBit 14 = false → t.clusters = s.clusters
  ccores   : w.testBit 15 = false → t.ccores = s.ccores
  tasks    : w.testBit 16 = false → t.tasks = s.tasks
  freeTick : w.testBit 17 = false → t.freeTick = s.freeTick
  queue    : t.pending = s.pending
  canon    : s.Canon → t.Canon
  legal    : s.Legal → t.Legal

theorem Keeps.refl (w : Nat) (s : State) : Keeps w s s := by
  constructor <;> intros <;> first | rfl | assumption

theorem Keeps.trans {w : Nat} {s t u : State} (h : Keeps w s t) (k : Keeps w t u) : Keeps w s u where
  pwr b := (k.pwr b).trans (h.pwr b)
  clk b := (k.clk b).trans (h.clk b)
  glb b := (k.glb b).trans (h.glb b)
  cfg b := (k.cfg b).trans (h.cfg b)
  flash b := (k.flash b).trans (h.flash b)
  grd b := (k.grd b).trans (h.grd b)
  fw b := (k.fw b).trans (h.fw b)
  log b := (k.log b).trans (h.log b)
  hif b := (k.hif b).trans (h.hif b)
  mem b := (k.mem b).trans (h.mem b)
  lnk b := (k.lnk b).trans (h.lnk b)
  mer b := (k.mer b).trans (h.mer b)
  parts b := (k.parts b).trans (h.parts b)
  clusters b := (k.clusters b).trans (h.clusters b)
  ccores b := (k.ccores b).trans (h.ccores b)
  tasks b := (k.tasks b).trans (h.tasks b)
  freeTick b := (k.freeTick b).trans (h.freeTick b)
  queue := k.queue.trans h.queue
  canon c := k.canon (h.canon c)
  legal l := k.legal (h.legal l)

theorem Keeps.bits {m n v : Nat} (h : m &&& n = m) (hv : n &&& v = n) : m &&& v = m := by
  rw [← h, Nat.and_assoc, hv]

/-- A smaller set of components is also kept by the larger one. -/
theorem Keeps.mono {v w : Nat} {s t : State} (hv : v &&& w = v) (h : Keeps v s t) : Keeps w s t := by
  have low : ∀ i, w.testBit i = false → v.testBit i = false := by
    intro i hi
    have := congrArg (fun x : Nat => x.testBit i) hv
    simp only [Nat.testBit_and, hi, Bool.and_false] at this
    exact this.symm
  exact {
    pwr := fun b => h.pwr (low _ b), clk := fun b => h.clk (low _ b)
    glb := fun b => h.glb (low _ b), cfg := fun b => h.cfg (low _ b), flash := fun b => h.flash (low _ b)
    grd := fun b => h.grd (low _ b), fw := fun b => h.fw (low _ b), log := fun b => h.log (low _ b)
    hif := fun b => h.hif (low _ b), mem := fun b => h.mem (low _ b), lnk := fun b => h.lnk (low _ b)
    mer := fun b => h.mer (low _ b), parts := fun b => h.parts (low _ b), clusters := fun b => h.clusters (low _ b)
    ccores := fun b => h.ccores (low _ b), tasks := fun b => h.tasks (low _ b), freeTick := fun b => h.freeTick (low _ b)
    queue := h.queue, canon := h.canon, legal := h.legal }

/-- The last operation of a chain, and what stands before it. -/
theorem Keeps.after {v w : Nat} {s t u : State} (h : Keeps v t u) (hv : v &&& w = v) (hk : Keeps w s t) : Keeps w s u :=
  hk.trans (h.mono hv)

theorem Keeps.ite {w : Nat} {s a b : State} {c : Prop} [Decidable c] (ha : Keeps w s a) (hb : Keeps w s b) :
    Keeps w s (if c then a else b) := by split <;> assumption

theorem Keeps.ite_fst {w : Nat} {α : Type} {s : State} {a b : State × α} {c : Prop} [Decidable c] (ha : Keeps w s a.1) (hb : Keeps w s b.1) :
    Keeps w s (if c then a else b).1 := by split <;> assumption
theorem Keeps.ite_snd {w : Nat} {α : Type} {s : State} {a b : α × State} {c : Prop} [Decidable c] (ha : Keeps w s a.2) (hb : Keeps w s b.2) :
    Keeps w s (if c then a else b).2 := by split <;> assumption

/-- A fold of operations that each keep the rest keeps it. -/
theorem Keeps.foldl {w : Nat} {β : Type} {f : State → β → State} (h : ∀ s x, Keeps w s (f s x)) (xs : List β) (s : State) :
    Keeps w s (xs.foldl f s) := by
  induction xs generalizing s with
  | nil => exact Keeps.refl w s
  | cons x xs ih => exact (h s x).trans (ih (f s x))

/-- The same for a fold that carries more than the state. -/
theorem Keeps.foldlPair {w : Nat} {β γ : Type} {f : State × γ → β → State × γ} (h : ∀ a x, Keeps w a.1 (f a x).1) (xs : List β)
    (a : State × γ) : Keeps w a.1 (xs.foldl f a).1 := by
  induction xs generalizing a with
  | nil => exact Keeps.refl w a.1
  | cons x xs ih => exact (h a x).trans (ih (f a x))

/-! ### One component is written -/

theorem State.setGlb_keeps (s : State) (x : Glb) : Keeps 8 s (s.setGlb x) := by
  constructor <;> first | exact fun _ => rfl | exact fun h => h | rfl | exact fun h => absurd h (by decide)
theorem State.setCfg_keeps (s : State) (x : Cfg) : Keeps 16 s (s.setCfg x) := by
  constructor <;> first | exact fun _ => rfl | exact fun h => h | rfl | exact fun h => absurd h (by decide)
theorem State.setFlash_keeps (s : State) (x : Flash) : Keeps 32 s (s.setFlash x) := by
  constructor <;> first | exact fun _ => rfl | exact fun h => h | rfl | exact fun h => absurd h (by decide)
theorem State.setGrd_keeps (s : State) (x : Grd) : Keeps 64 s (s.setGrd x) := by
  constructor <;> first | exact fun _ => rfl | exact fun h => h | rfl | exact fun h => absurd h (by decide)
theorem State.setFw_keeps (s : State) (x : Fw) : Keeps 128 s (s.setFw x) := by
  constructor <;> first | exact fun _ => rfl | exact fun h => h | rfl | exact fun h => absurd h (by decide)
theorem State.setLog_keeps (s : State) (x : Log) : Keeps 256 s (s.setLog x) := by
  constructor <;> first | exact fun _ => rfl | exact fun h => h | rfl | exact fun h => absurd h (by decide)
theorem State.setHif_keeps (s : State) (x : Hif) : Keeps 512 s (s.setHif x) := by
  constructor <;> first | exact fun _ => rfl | exact fun h => h | rfl | exact fun h => absurd h (by decide)
theorem State.setLnk_keeps (s : State) (x : Lnk) : Keeps 2048 s (s.setLnk x) := by
  constructor <;> first | exact fun _ => rfl | exact fun h => h | rfl | exact fun h => absurd h (by decide)
theorem State.setParts_keeps (s : State) (x : Map Part) : Keeps 8192 s (s.setParts x) := by
  constructor <;> first | exact fun _ => rfl | exact fun h => h | rfl | exact fun h => absurd h (by decide)
theorem State.setCcores_keeps (s : State) (x : Map CCore) : Keeps 32768 s (s.setCcores x) := by
  constructor <;> first | exact fun _ => rfl | exact fun h => h | rfl | exact fun h => absurd h (by decide)
theorem State.setTasks_keeps (s : State) (x : List Task) : Keeps 65536 s (s.setTasks x) := by
  constructor <;> first | exact fun _ => rfl | exact fun h => h | rfl | exact fun h => absurd h (by decide)
theorem State.setFreeTick_keeps (s : State) (x : Nat) : Keeps 131072 s (s.setFreeTick x) := by
  constructor <;> first | exact fun _ => rfl | exact fun h => h | rfl | exact fun h => absurd h (by decide)
theorem State.setMem_keeps (s : State) (x : Mem) (h : MemOk s.mem → MemOk x) : Keeps 1024 s (s.setMem x) := by
  constructor <;> first | exact fun _ => rfl | exact fun h => h | rfl | exact fun h => absurd h (by decide) | exact fun c => ⟨h c.1, c.2⟩
theorem State.setPwr_keeps (s : State) (x : Pwr) (h : PwrOk s.pwr → PwrOk x) : Keeps 2 s (s.setPwr x) := by
  constructor <;> first | exact fun _ => rfl | exact fun h => h | rfl | exact fun h => absurd h (by decide) | exact fun c => ⟨h c.1, c.2⟩
theorem State.setClk_keeps (s : State) (x : Clk) (h : ClkOk s.clk → ClkOk x) : Keeps 4 s (s.setClk x) := by
  constructor <;> first | exact fun _ => rfl | exact fun h => h | rfl | exact fun h => absurd h (by decide) | exact fun c => ⟨c.1, h c.2.1, c.2.2⟩
theorem State.setMer_keeps (s : State) (x : Mer) (h : MerOk s.mer → MerOk x) : Keeps 4096 s (s.setMer x) := by
  constructor <;> first | exact fun _ => rfl | exact fun h => h | rfl | exact fun h => absurd h (by decide) | exact fun c => ⟨c.1, c.2.1, h c.2.2⟩
theorem State.setClusters_keeps (s : State) (x : Map Cluster)
    (h : (∀ c, Memory.wf (s.cl c).spad = true) → ∀ c, Memory.wf (mget Cluster.reset x c).spad = true) :
    Keeps 16384 s (s.setClusters x) := by
  constructor <;> first | exact fun _ => rfl | exact fun h => h | rfl | exact fun h => absurd h (by decide) | exact fun c => ⟨c.1, h c.2⟩

/-- A cluster is replaced by one whose scratchpad stays canonical. -/
theorem State.modCl_keeps (s : State) (c : Nat) (f : Cluster → Cluster)
    (h : Memory.wf (s.cl c).spad = true → Memory.wf (f (s.cl c)).spad = true) : Keeps 16384 s (s.modCl c f) := by
  refine State.setClusters_keeps s _ fun hs d => ?_
  rw [mget_mset]
  split
  · exact h (hs c)
  · exact hs d
theorem State.setCl_keeps (s : State) (c : Nat) (x : Cluster)
    (h : Memory.wf (s.cl c).spad = true → Memory.wf x.spad = true) : Keeps 16384 s (s.setCl c x) :=
  State.modCl_keeps s c (fun _ => x) h

/-! ### Canonical form of what operations write -/

theorem mwfFrom_filter {α : Type} [DecidableEq α] (d : α) (f : Nat × α → Bool) (m : Map α) (lo : Option Nat)
    (h : mwfFrom d lo m = true) : mwfFrom d lo (m.filter f) = true := by
  induction m generalizing lo with
  | nil => exact h
  | cons kv m ih =>
    obtain ⟨k, v⟩ := kv
    simp only [mwfFrom, Bool.and_eq_true] at h
    rw [List.filter_cons]
    split
    · simp only [mwfFrom, Bool.and_eq_true]
      exact ⟨h.1, ih _ h.2⟩
    · refine ih lo ?_
      cases lo with
      | none =>
        cases hm : m with
        | nil => rfl
        | cons x xs =>
          have := h.2; rw [hm] at this
          simp only [mwfFrom, Bool.and_eq_true] at this ⊢
          exact ⟨⟨trivial, this.1.2⟩, this.2⟩
      | some l => exact mwfFrom_mono d m h.2 (fun x hx => by injection hx with hx; subst hx; have := h.1.1; simp only [decide_eq_true_eq] at this; omega)
/-- Entries taken out of a memory leave it canonical. -/
theorem mwf_filter (m : Map Byte) (f : Nat × Byte → Bool) (h : mwf 0 m = true) : mwf 0 (m.filter f) = true :=
  mwfFrom_filter 0 f m none h
theorem mwf_foldl_mset (xs : List (Nat × Byte)) (m : Map Byte) (h : mwf 0 m = true) :
    mwf 0 (xs.foldl (fun m x => mset 0 m x.1 x.2) m) = true := by
  induction xs generalizing m with
  | nil => exact h
  | cons x xs ih => exact ih _ (mwf_mset 0 m x.1 x.2 h)
theorem Cluster.zeroSeg_wf (x : Cluster) (g : Nat) (h : Memory.wf x.spad = true) : Memory.wf (x.zeroSeg g).spad = true :=
  mwf_filter _ _ h
theorem Cluster.zeroSegs_wf (gs : List Nat) (x : Cluster) (h : Memory.wf x.spad = true) :
    Memory.wf (gs.foldl (fun x i => x.zeroSeg i) x).spad = true := by
  induction gs generalizing x with
  | nil => exact h
  | cons g gs ih => exact ih _ (x.zeroSeg_wf g h)
theorem Cluster.spadWr_wf (x : Cluster) (a : Nat) (bs : List Byte) (h : Memory.wf x.spad = true) :
    Memory.wf (x.spadWr a bs).spad = true := mwf_wrBytes _ _ _ h
/-- Clusters changed one by one keep canonical scratchpads. -/
theorem mget_map_wf (f : Nat × Cluster → Cluster) (hf : ∀ kv, Memory.wf kv.2.spad = true → Memory.wf (f kv).spad = true)
    (m : Map Cluster) (c : Nat) (h : Memory.wf (mget Cluster.reset m c).spad = true) :
    Memory.wf (mget Cluster.reset (m.map fun kv => (kv.1, f kv)) c).spad = true := by
  induction m with
  | nil => exact h
  | cons kv m ih =>
    obtain ⟨k, v⟩ := kv
    simp only [List.map_cons, mget] at h ⊢
    split
    · rename_i hk; simp only [hk, if_true] at h; exact hf (k, v) h
    · rename_i hk; simp only [hk, if_false] at h; exact ih h
/-- A cap does not touch the device's state. -/
theorem pwrOk_cap (p : Pwr) (c : BitVec 11) (h : PwrOk p) : PwrOk { p with cap := c } := h
/-- The device state of a finished transition is ON, QUIESCED or LOW. -/
theorem dev_ok (n : Fin 3) : BitVec.ofNat 2 n.val ≠ 3 := by revert n; decide

theorem memOk_rowFails (rows : List (Fin 512 × Fin 8 × Fin 16 × BitVec 12)) (m : Mem) (h : MemOk m) : MemOk (rows.foldl Mem.rowFails m) := by
  induction rows generalizing m with
  | nil => exact h
  | cons x xs ih =>
    refine ih _ ?_
    unfold Mem.rowFails
    dsimp only
    split
    · exact h
    · split
      · exact h
      · split <;> exact h
/-- Decrypted sectors leave the memory canonical. -/
theorem openUp_ok (ks : List Nat) (m : Mem) (h : MemOk m) : MemOk (m.openUp ks) := by
  unfold Mem.openUp
  split
  · exact h
  · rename_i hc
    clear hc
    induction ks generalizing m with
    | nil => exact h
    | cons k ks ih =>
      refine ih _ ?_
      dsimp only
      split
      · exact h
      · exact ⟨mwf_wrBytes _ _ _ h.1, h.2⟩
/-- Loading an image keeps control SRAM canonical. -/
theorem loadInto_wf (x : FwSlot) (m : Map Byte) (h : Memory.wf m = true) : Memory.wf (x.loadInto m) = true := mwf_wrBytes _ _ _ h
/-- Banks that keep undefined entries leave the scratchpad alone. -/
theorem keepBad_spad (id : Nat) (late : List (Nat × TileRun)) (x : Cluster) : (keepBad x id late).spad = x.spad := by
  unfold keepBad
  induction late generalizing x with
  | nil => rfl
  | cons y ys ih => exact (ih _).trans ((Cluster.setUnit_spad _ _ _).trans (Cluster.setCore_spad _ _ _))
/-- A map whose listed clusters have canonical scratchpads has only such ones. -/
theorem mget_wf_all (m : Map Cluster) (h : ∀ kv ∈ m, Memory.wf kv.2.spad = true) (c : Nat) :
    Memory.wf (mget Cluster.reset m c).spad = true := by
  induction m with
  | nil => rfl
  | cons kv m ih =>
    obtain ⟨k, v⟩ := kv
    simp only [mget]
    split
    · exact h (k, v) (by simp)
    · exact ih fun x hx => h x (List.mem_cons_of_mem _ hx)
/-- The gear of a finished change is one of the three. -/
theorem gear_ok (n : Fin 3) : (BitVec.ofNat 2 n.val).toNat ≤ 2 := by revert n; decide
/-- A gear change that begins has two legal gears, and one that goes on keeps them. -/
theorem clkOk_start {k x : Clk} (n : Fin 3) (hg : x.gear = k.gear) (hw : x.was = k.gear) (ho : x.goal = BitVec.ofNat 2 n.val)
    (h : ClkOk k) : ClkOk x := ⟨hg ▸ h.1, hw ▸ h.1, ho ▸ gear_ok n⟩
theorem clkOk_done {k x : Clk} (n : Fin 3) (hg : x.gear = BitVec.ofNat 2 n.val) (hw : x.was = k.was) (ho : x.goal = k.goal)
    (h : ClkOk k) : ClkOk x := ⟨hg ▸ gear_ok n, hw ▸ h.2.1, ho ▸ h.2.2⟩
theorem gearTick_ok (k : Clk) (h : ClkOk k) : ClkOk (gearTick k) := by
  unfold gearTick
  dsimp only
  split
  · exact ⟨h.2.2, h.2⟩
  · exact h
theorem merNext_ok (m : Mer) (t : Word) (h : MerOk m) : MerOk (merNext m t).1 := by
  unfold merNext
  split
  · split <;> exact h
  · exact h

/-! ### The operations with a side condition, at the end of a chain -/

theorem Keeps.after_setMem {w : Nat} {s t : State} {x : Mem} (hv : 1024 &&& w = 1024) (h : MemOk t.mem → MemOk x) (hk : Keeps w s t) :
    Keeps w s (t.setMem x) := (State.setMem_keeps t x h).after hv hk
theorem Keeps.after_setPwr {w : Nat} {s t : State} {x : Pwr} (hv : 2 &&& w = 2) (h : PwrOk t.pwr → PwrOk x) (hk : Keeps w s t) :
    Keeps w s (t.setPwr x) := (State.setPwr_keeps t x h).after hv hk
theorem Keeps.after_setClk {w : Nat} {s t : State} {x : Clk} (hv : 4 &&& w = 4) (h : ClkOk t.clk → ClkOk x) (hk : Keeps w s t) :
    Keeps w s (t.setClk x) := (State.setClk_keeps t x h).after hv hk
theorem Keeps.after_setMer {w : Nat} {s t : State} {x : Mer} (hv : 4096 &&& w = 4096) (h : MerOk t.mer → MerOk x) (hk : Keeps w s t) :
    Keeps w s (t.setMer x) := (State.setMer_keeps t x h).after hv hk
theorem Keeps.after_setClusters {w : Nat} {s t : State} {x : Map Cluster} (hv : 16384 &&& w = 16384)
    (h : (∀ c, Memory.wf (t.cl c).spad = true) → ∀ c, Memory.wf (mget Cluster.reset x c).spad = true) (hk : Keeps w s t) :
    Keeps w s (t.setClusters x) := (State.setClusters_keeps t x h).after hv hk
theorem Keeps.after_modCl {w : Nat} {s t : State} {c : Nat} {f : Cluster → Cluster} (hv : 16384 &&& w = 16384)
    (h : Memory.wf (t.cl c).spad = true → Memory.wf (f (t.cl c)).spad = true) (hk : Keeps w s t) :
    Keeps w s (t.modCl c f) := (State.modCl_keeps t c f h).after hv hk
theorem Keeps.after_setCl {w : Nat} {s t : State} {c : Nat} {x : Cluster} (hv : 16384 &&& w = 16384)
    (h : Memory.wf (t.cl c).spad = true → Memory.wf x.spad = true) (hk : Keeps w s t) :
    Keeps w s (t.setCl c x) := (State.setCl_keeps t c x h).after hv hk

/-- A state that stands in a pair. -/
theorem Keeps.of_pair {α : Type} {w : Nat} {s t : State} {y : α} {p : State × α} (h : p = (t, y)) (k : Keeps w s p.1) : Keeps w s t := by
  subst h; exact k
theorem Keeps.of_pair2 {α : Type} {w : Nat} {s t : State} {y : α} {p : α × State} (h : p = (y, t)) (k : Keeps w s p.2) : Keeps w s t := by
  subst h; exact k

/-- Every next state that an outcome holds keeps the rest. -/
structure Keeps.Out (w : Nat) (s : State) (o : Host.Outcome State Fault Refusal) : Prop where
  keeps : ∀ t, o = .next t → Keeps w s t
theorem Keeps.Out.next {w : Nat} {s t : State} (h : Keeps w s t) : Keeps.Out w s (.next t) :=
  ⟨fun u hu => by injection hu with hu; subst hu; exact h⟩
theorem Keeps.Out.fault {w : Nat} {s : State} {f : Fault} : Keeps.Out w s (.fault f) := ⟨fun _ h => nomatch h⟩
theorem Keeps.Out.ite {w : Nat} {s : State} {a b : Host.Outcome State Fault Refusal} {c : Prop} [Decidable c] (ha : Keeps.Out w s a)
    (hb : Keeps.Out w s b) : Keeps.Out w s (if c then a else b) := by split <;> assumption

end Sys2Proof.Machine
end

