-- ==== Sys2Proof/Laws/KeepsCore.lean ====
section
/-! SUPPORT. What may change, one lemma per operation (see `Keeps`): the shared operations: memory, records, faults, issue, tensor checks and the ways out of the chip. -/

namespace Sys2Proof.Machine

set_option linter.unusedSimpArgs false

/-! ### Machine/Cells.lean -/

theorem State.fixNote_keeps (s : State) (unit index n addr : Nat) : Keeps 256 s (State.fixNote s unit index n addr) := by
  unfold State.fixNote
  repeat' (first
    | with_reducible exact Keeps.refl _ _
    | with_reducible apply Keeps.ite
    | ((with_reducible apply Keeps.after (State.setLog_keeps _ _)); case hv => decide))
theorem State.decodeBurst_keeps (s : State) (b : Nat) (cov : Nat → Bool) : Keeps 1280 s (State.decodeBurst s b cov).1 := by
  unfold State.decodeBurst
  repeat' (first
    | with_reducible exact Keeps.refl _ _
    | ((with_reducible apply Keeps.after_setMem); (case hv => decide); (case h => (intro h; obtain ⟨h1, h2, h3⟩ := h; unfold MemOk; dsimp only; refine ⟨?_, ?_, ?_⟩ <;> first | (with_reducible first | exact h1 | exact h2 | exact h3 | exact mwf_wrBytes _ _ _ h1 | exact mwf_wrBytes _ _ _ h2 | exact mwf_wrBytes _ _ _ h3 | exact mwf_filter _ _ h1 | exact mwf_foldl_mset _ _ h2 | exact mwf_nil 0 | exact mwf_mset 0 _ _ _ h2 | exact loadInto_wf _ _ h3 | exact loadInto_wf _ _ (mwf_nil 0)) | exact h1 | exact h2 | exact h3)))
    | ((with_reducible apply Keeps.after (State.fixNote_keeps _ _ _ _ _)); case hv => decide)
    | with_reducible refine Keeps.trans ?_ (Keeps.foldl (fun s x => ?_) _ _))

/-! ### Machine/Ops.lean -/

theorem State.bump_keeps (s : State) (n : Nat) : Keeps 131072 s (State.bump s n) := by
  unfold State.bump
  repeat' (first
    | with_reducible exact Keeps.refl _ _
    | ((with_reducible apply Keeps.after (State.setFreeTick_keeps _ _)); case hv => decide))
theorem State.devWr_keeps (s : State) (a : Nat) (bs : List Byte) : Keeps 1024 s (State.devWr s a bs) := by
  unfold State.devWr
  dsimp only
  refine Keeps.after_setMem (by decide) (fun h => ?_) (Keeps.refl _ _)
  have h' := openUp_ok (sectorsOf a bs.length) s.mem h
  exact ⟨mwf_wrBytes _ _ _ h'.1, h'.2⟩
theorem State.narrowWr_keeps (s : State) (a : Nat) (bs : List Byte) : Keeps 1280 s (State.narrowWr s a bs) := by
  unfold State.narrowWr
  try dsimp only
  repeat' (first
    | with_reducible exact Keeps.refl _ _
    | assumption
    | with_reducible apply Keeps.ite
    | ((with_reducible apply Keeps.after (State.devWr_keeps _ _ _)); case hv => decide)
    | ((with_reducible apply Keeps.after (State.decodeBurst_keeps _ _ _)); case hv => decide)
    | ((with_reducible apply Keeps.after_setMem); (case hv => decide); (case h => (intro h; obtain ⟨h1, h2, h3⟩ := h; unfold MemOk; dsimp only; refine ⟨?_, ?_, ?_⟩ <;> first | (with_reducible first | exact h1 | exact h2 | exact h3 | exact mwf_wrBytes _ _ _ h1 | exact mwf_wrBytes _ _ _ h2 | exact mwf_wrBytes _ _ _ h3 | exact mwf_filter _ _ h1 | exact mwf_foldl_mset _ _ h2 | exact mwf_nil 0 | exact mwf_mset 0 _ _ _ h2 | exact loadInto_wf _ _ h3 | exact loadInto_wf _ _ (mwf_nil 0)) | exact h1 | exact h2 | exact h3)))
    | with_reducible apply Keeps.ite_fst
    | with_reducible apply Keeps.ite_snd
    | intro _
    | split
    | with_reducible apply Keeps.of_pair (by assumption)
    | with_reducible apply Keeps.of_pair2 (by assumption)
    | dsimp only)
theorem State.traceRaw_keeps (s : State) (pt : Nat) (duty : Nat) (part : BitVec 8) (d0 d1 d2 : Word) : Keeps 1280 s (State.traceRaw s pt duty part d0 d1 d2) := by
  unfold State.traceRaw
  repeat' (first
    | with_reducible exact Keeps.refl _ _
    | with_reducible apply Keeps.ite
    | ((with_reducible apply Keeps.after (State.narrowWr_keeps _ _ _)); case hv => decide)
    | ((with_reducible apply Keeps.after (State.setLog_keeps _ _)); case hv => decide))
theorem State.trace_keeps (s : State) (t : Tp) (part : BitVec 8) : Keeps 132352 s (State.trace s t part) := by
  unfold State.trace
  repeat' (first
    | with_reducible exact Keeps.refl _ _
    | with_reducible apply Keeps.ite
    | ((with_reducible apply Keeps.after (State.traceRaw_keeps _ _ _ _ _ _ _)); case hv => decide)
    | ((with_reducible apply Keeps.after (State.bump_keeps _ _)); case hv => decide))
theorem State.errNote_keeps (s : State) (r : ErrRec) : Keeps 256 s (State.errNote s r) := by
  unfold State.errNote
  repeat' (first
    | with_reducible exact Keeps.refl _ _
    | ((with_reducible apply Keeps.after (State.setLog_keeps _ _)); case hv => decide))
theorem State.setCc_keeps (s : State) (k : Nat) (x : CCore) : Keeps 32768 s (State.setCc s k x) := by
  unfold State.setCc
  repeat' (first
    | with_reducible exact Keeps.refl _ _
    | ((with_reducible apply Keeps.after (State.setCcores_keeps _ _)); case hv => decide)
    | ((with_reducible apply Keeps.after (State.reset_keeps )); case hv => decide))
theorem State.modCc_keeps (s : State) (k : Nat) (f : CCore → CCore) : Keeps 32768 s (State.modCc s k f) := by
  unfold State.modCc
  repeat' (first
    | with_reducible exact Keeps.refl _ _
    | ((with_reducible apply Keeps.after (State.setCc_keeps _ _ _)); case hv => decide))
theorem State.coreFault_keeps (s : State) (k : Nat) (status : BitVec 16) : Keeps 32768 s (State.coreFault s k status) := by
  unfold State.coreFault
  repeat' (first
    | with_reducible exact Keeps.refl _ _
    | ((with_reducible apply Keeps.after (State.modCc_keeps _ _ _)); case hv => decide))
theorem State.modTask_keeps (s : State) (t : TaskId) (f : Task → Task) : Keeps 65536 s (State.modTask s t f) := by
  unfold State.modTask
  repeat' (first
    | with_reducible exact Keeps.refl _ _
    | ((with_reducible apply Keeps.after (State.setTasks_keeps _ _)); case hv => decide))
theorem State.seqFault_keeps (s : State) (c : Nat) (status : BitVec 16) (pc : Nat) (w : Word) : Keeps 212992 s (State.seqFault s c status pc w) := by
  unfold State.seqFault
  repeat' (first
    | with_reducible exact Keeps.refl _ _
    | with_reducible apply Keeps.ite
    | ((with_reducible apply Keeps.after (State.modTask_keeps _ _ _)); case hv => decide)
    | ((with_reducible apply Keeps.after_modCl); (case hv => decide); (case h => (intro h; repeat' (first | with_reducible exact h | with_reducible rfl | with_reducible exact mwf_wrBytes _ _ _ h | with_reducible exact Cluster.spadWr_wf _ _ _ h | with_reducible exact Cluster.zeroSeg_wf _ _ h | with_reducible exact Cluster.zeroSegs_wf _ _ h | simp only [Cluster.setCore_spad, Cluster.setUnit_spad, Cluster.spadPoisonSet_spad, Cluster.taintHeads_spad] | split | dsimp only | exact h | exact Cluster.zeroSegs_wf _ _ h))))
    | ((with_reducible apply Keeps.after (State.bump_keeps _ _)); case hv => decide)
    | with_reducible refine Keeps.trans ?_ (Keeps.foldl (fun s x => ?_) _ _)
    | split)
theorem State.setPt_keeps (s : State) (p : Nat) (x : Part) : Keeps 8192 s (State.setPt s p x) := by
  unfold State.setPt
  repeat' (first
    | with_reducible exact Keeps.refl _ _
    | ((with_reducible apply Keeps.after (State.setParts_keeps _ _)); case hv => decide)
    | ((with_reducible apply Keeps.after (State.reset_keeps )); case hv => decide))
theorem State.modPt_keeps (s : State) (p : Nat) (f : Part → Part) : Keeps 8192 s (State.modPt s p f) := by
  unfold State.modPt
  repeat' (first
    | with_reducible exact Keeps.refl _ _
    | ((with_reducible apply Keeps.after (State.setPt_keeps _ _ _)); case hv => decide))
theorem State.hostAsk_keeps (s : State) (p : Nat) (write : Bool) (a n : Nat) : Keeps 1024 s (State.hostAsk s p write a n) := by
  unfold State.hostAsk
  repeat' (first
    | with_reducible exact Keeps.refl _ _
    | ((with_reducible apply Keeps.after_setMem); (case hv => decide); (case h => (intro h; obtain ⟨h1, h2, h3⟩ := h; unfold MemOk; dsimp only; refine ⟨?_, ?_, ?_⟩ <;> first | (with_reducible first | exact h1 | exact h2 | exact h3 | exact mwf_wrBytes _ _ _ h1 | exact mwf_wrBytes _ _ _ h2 | exact mwf_wrBytes _ _ _ h3 | exact mwf_filter _ _ h1 | exact mwf_foldl_mset _ _ h2 | exact mwf_nil 0 | exact mwf_mset 0 _ _ _ h2 | exact loadInto_wf _ _ h3 | exact loadInto_wf _ _ (mwf_nil 0)) | exact h1 | exact h2 | exact h3))))
theorem State.hostWr_keeps (s : State) (p : Nat) (a : Nat) (bs : List Byte) : Keeps 1024 s (State.hostWr s p a bs) := by
  unfold State.hostWr
  repeat' (first
    | with_reducible exact Keeps.refl _ _
    | with_reducible apply Keeps.ite
    | ((with_reducible apply Keeps.after (State.hostAsk_keeps _ _ _ _ _)); case hv => decide)
    | ((with_reducible apply Keeps.after_setMem); (case hv => decide); (case h => (intro h; obtain ⟨h1, h2, h3⟩ := h; unfold MemOk; dsimp only; refine ⟨?_, ?_, ?_⟩ <;> first | (with_reducible first | exact h1 | exact h2 | exact h3 | exact mwf_wrBytes _ _ _ h1 | exact mwf_wrBytes _ _ _ h2 | exact mwf_wrBytes _ _ _ h3 | exact mwf_filter _ _ h1 | exact mwf_foldl_mset _ _ h2 | exact mwf_nil 0 | exact mwf_mset 0 _ _ _ h2 | exact loadInto_wf _ _ h3 | exact loadInto_wf _ _ (mwf_nil 0)) | exact h1 | exact h2 | exact h3))))
theorem State.msix_keeps (s : State) (fn v : Nat) : Keeps 512 s (State.msix s fn v) := by
  unfold State.msix
  repeat' (first
    | with_reducible exact Keeps.refl _ _
    | with_reducible apply Keeps.ite
    | ((with_reducible apply Keeps.after (State.setHif_keeps _ _)); case hv => decide))
theorem State.putRecord_keeps (s : State) (p ring : Nat) (seq : BitVec 32) (irq : Bool) (bs : List Byte) : Keeps 141056 s (State.putRecord s p ring seq irq bs) := by
  unfold State.putRecord
  repeat' (first
    | with_reducible exact Keeps.refl _ _
    | with_reducible apply Keeps.ite
    | ((with_reducible apply Keeps.after (State.msix_keeps _ _ _)); case hv => decide)
    | ((with_reducible apply Keeps.after (State.hostWr_keeps _ _ _ _)); case hv => decide)
    | ((with_reducible apply Keeps.after (State.modPt_keeps _ _ _)); case hv => decide)
    | ((with_reducible apply Keeps.after (State.trace_keeps _ _ _)); case hv => decide))
theorem State.complete_keeps (s : State) (e : EntryId) (irq : Bool) (status esc : BitVec 16) (energy : Nat) (result : BitVec 32) : Keeps 141056 s (State.complete s e irq status esc energy result) := by
  unfold State.complete
  repeat' (first
    | with_reducible exact Keeps.refl _ _
    | with_reducible apply Keeps.ite
    | ((with_reducible apply Keeps.after (State.putRecord_keeps _ _ _ _ _ _)); case hv => decide)
    | ((with_reducible apply Keeps.after (State.modPt_keeps _ _ _)); case hv => decide))
theorem State.completeSt_keeps (s : State) (e : EntryId) (status : BitVec 16) : Keeps 141056 s (State.completeSt s e status) := by
  unfold State.completeSt
  repeat' (first
    | with_reducible exact Keeps.refl _ _
    | ((with_reducible apply Keeps.after (State.complete_keeps _ _ _ _ _ _ _)); case hv => decide))
theorem State.writeEvent_keeps (s : State) (p : Nat) (status : BitVec 16) (ring : BitVec 8) (sid : BitVec 32) (tick : Word) : Keeps 141056 s (State.writeEvent s p status ring sid tick) := by
  unfold State.writeEvent
  repeat' (first
    | with_reducible exact Keeps.refl _ _
    | with_reducible apply Keeps.ite
    | ((with_reducible apply Keeps.after (State.msix_keeps _ _ _)); case hv => decide)
    | ((with_reducible apply Keeps.after (State.hostWr_keeps _ _ _ _)); case hv => decide)
    | ((with_reducible apply Keeps.after (State.modPt_keeps _ _ _)); case hv => decide)
    | ((with_reducible apply Keeps.after (State.trace_keeps _ _ _)); case hv => decide))
theorem State.putEvent_keeps (s0 : State) (p : Nat) (status : BitVec 16) (ring : BitVec 8) (sid : BitVec 32) (tick : Word) : Keeps 141056 s0 (State.putEvent s0 p status ring sid tick) := by
  unfold State.putEvent
  repeat' (first
    | with_reducible exact Keeps.refl _ _
    | with_reducible apply Keeps.ite
    | ((with_reducible apply Keeps.after (State.writeEvent_keeps _ _ _ _ _ _)); case hv => decide)
    | ((with_reducible apply Keeps.after (State.hostAsk_keeps _ _ _ _ _)); case hv => decide)
    | ((with_reducible apply Keeps.after (State.modPt_keeps _ _ _)); case hv => decide))
theorem State.event_keeps (s : State) (p : Nat) (status : BitVec 16) (ring : BitVec 8) (sid : BitVec 32) : Keeps 141056 s (State.event s p status ring sid) := by
  unfold State.event
  repeat' (first
    | with_reducible exact Keeps.refl _ _
    | with_reducible apply Keeps.ite
    | ((with_reducible apply Keeps.after (State.putEvent_keeps _ _ _ _ _ _)); case hv => decide)
    | ((with_reducible apply Keeps.after (State.modPt_keeps _ _ _)); case hv => decide))
theorem State.taskStop_keeps (s : State) (t : TaskId) (status : BitVec 16) (who : Option Nat) : Keeps 212992 s (State.taskStop s t status who) := by
  unfold State.taskStop
  repeat' (first
    | with_reducible exact Keeps.refl _ _
    | ((with_reducible apply Keeps.after (State.modTask_keeps _ _ _)); case hv => decide)
    | ((with_reducible apply Keeps.after_modCl); (case hv => decide); (case h => (intro h; repeat' (first | with_reducible exact h | with_reducible rfl | with_reducible exact mwf_wrBytes _ _ _ h | with_reducible exact Cluster.spadWr_wf _ _ _ h | with_reducible exact Cluster.zeroSeg_wf _ _ h | with_reducible exact Cluster.zeroSegs_wf _ _ h | simp only [Cluster.setCore_spad, Cluster.setUnit_spad, Cluster.spadPoisonSet_spad, Cluster.taintHeads_spad] | split | dsimp only | exact h | exact Cluster.zeroSegs_wf _ _ h))))
    | ((with_reducible apply Keeps.after (State.bump_keeps _ _)); case hv => decide)
    | with_reducible refine Keeps.trans ?_ (Keeps.foldl (fun s x => ?_) _ _)
    | split)
theorem State.logPut_keeps (s : State) (e : LogEv) (heldFlag : Bool) : Keeps 1280 s (State.logPut s e heldFlag) := by
  unfold State.logPut
  repeat' (first
    | with_reducible exact Keeps.refl _ _
    | with_reducible apply Keeps.ite
    | ((with_reducible apply Keeps.after (State.narrowWr_keeps _ _ _)); case hv => decide)
    | ((with_reducible apply Keeps.after (State.setLog_keeps _ _)); case hv => decide))
theorem State.logEv_keeps (s : State) (e : LogEv) (held : Bool) : Keeps 1280 s (State.logEv s e held) := by
  unfold State.logEv
  repeat' (first
    | with_reducible exact Keeps.refl _ _
    | with_reducible apply Keeps.ite
    | ((with_reducible apply Keeps.after (State.logPut_keeps _ _ _)); case hv => decide)
    | ((with_reducible apply Keeps.after (State.setLog_keeps _ _)); case hv => decide))
theorem State.note_keeps (s : State) (t : Tp) (part : BitVec 8) (status : BitVec 16) (args : List Word) : Keeps 132352 s (State.note s t part status args) := by
  unfold State.note
  repeat' (first
    | with_reducible exact Keeps.refl _ _
    | ((with_reducible apply Keeps.after (State.logEv_keeps _ _ _)); case hv => decide)
    | ((with_reducible apply Keeps.after (State.trace_keeps _ _ _)); case hv => decide))
theorem State.noteAt_keeps (s : State) (t : Tp) (sev : Nat) (tick : Word) (part : BitVec 8) (status : BitVec 16) (args : List Word) (held : Bool) : Keeps 132352 s (State.noteAt s t sev tick part status args held) := by
  unfold State.noteAt
  repeat' (first
    | with_reducible exact Keeps.refl _ _
    | ((with_reducible apply Keeps.after (State.logEv_keeps _ _ _)); case hv => decide)
    | ((with_reducible apply Keeps.after (State.trace_keeps _ _ _)); case hv => decide))
theorem State.noteSev_keeps (s : State) (t : Tp) (sev : Nat) (part : BitVec 8) (status : BitVec 16) (args : List Word) : Keeps 132352 s (State.noteSev s t sev part status args) := by
  unfold State.noteSev
  repeat' (first
    | with_reducible exact Keeps.refl _ _
    | ((with_reducible apply Keeps.after (State.noteAt_keeps _ _ _ _ _ _ _ _)); case hv => decide))
theorem State.setPo_keeps (s : State) (n : Nat) (x : Port) : Keeps 2048 s (State.setPo s n x) := by
  unfold State.setPo
  repeat' (first
    | with_reducible exact Keeps.refl _ _
    | ((with_reducible apply Keeps.after (State.setLnk_keeps _ _)); case hv => decide)
    | ((with_reducible apply Keeps.after (State.reset_keeps )); case hv => decide))
theorem State.modPo_keeps (s : State) (n : Nat) (f : Port → Port) : Keeps 2048 s (State.modPo s n f) := by
  unfold State.modPo
  repeat' (first
    | with_reducible exact Keeps.refl _ _
    | ((with_reducible apply Keeps.after (State.setPo_keeps _ _ _)); case hv => decide))
theorem State.completeWork_keeps (s : State) (e : EntryId) (status : BitVec 16) (result : BitVec 32) : Keeps 141056 s (State.completeWork s e status result) := by
  unfold State.completeWork
  try dsimp only
  repeat' (first
    | with_reducible exact Keeps.refl _ _
    | assumption
    | with_reducible apply Keeps.ite
    | ((with_reducible apply Keeps.after (State.complete_keeps _ _ _ _ _ _ _)); case hv => decide)
    | ((with_reducible apply Keeps.after (State.bump_keeps _ _)); case hv => decide)
    | with_reducible apply Keeps.ite_fst
    | with_reducible apply Keeps.ite_snd
    | intro _
    | split
    | with_reducible apply Keeps.of_pair (by assumption)
    | with_reducible apply Keeps.of_pair2 (by assumption)
    | dsimp only)
theorem State.devPoisonSet_keeps (s : State) (ks : List Nat) : Keeps 1024 s (State.devPoisonSet s ks) := by
  unfold State.devPoisonSet
  repeat' (first
    | with_reducible exact Keeps.refl _ _
    | ((with_reducible apply Keeps.after_setMem); (case hv => decide); (case h => (intro h; obtain ⟨h1, h2, h3⟩ := h; unfold MemOk; dsimp only; refine ⟨?_, ?_, ?_⟩ <;> first | (with_reducible first | exact h1 | exact h2 | exact h3 | exact mwf_wrBytes _ _ _ h1 | exact mwf_wrBytes _ _ _ h2 | exact mwf_wrBytes _ _ _ h3 | exact mwf_filter _ _ h1 | exact mwf_foldl_mset _ _ h2 | exact mwf_nil 0 | exact mwf_mset 0 _ _ _ h2 | exact loadInto_wf _ _ h3 | exact loadInto_wf _ _ (mwf_nil 0)) | exact h1 | exact h2 | exact h3))))
theorem State.release_keeps (s : State) (p : Nat) (hs : List Held) : Keeps 141056 s (State.release s p hs) := by
  unfold State.release
  repeat' (first
    | with_reducible exact Keeps.refl _ _
    | ((with_reducible apply Keeps.after (State.putEvent_keeps _ _ _ _ _ _)); case hv => decide)
    | ((with_reducible apply Keeps.after (State.putRecord_keeps _ _ _ _ _ _)); case hv => decide)
    | with_reducible refine Keeps.trans ?_ (Keeps.foldl (fun s x => ?_) _ _)
    | split)
theorem State.traceEpoch_keeps (s : State) : Keeps 132352 s (State.traceEpoch s) := by
  unfold State.traceEpoch
  repeat' (first
    | with_reducible exact Keeps.refl _ _
    | with_reducible apply Keeps.ite
    | ((with_reducible apply Keeps.after (State.traceRaw_keeps _ _ _ _ _ _ _)); case hv => decide)
    | ((with_reducible apply Keeps.after (State.bump_keeps _ _)); case hv => decide))
theorem State.modGrp_keeps (s : State) (g : Nat) (f : VGroup → VGroup) : Keeps 1024 s (State.modGrp s g f) := by
  unfold State.modGrp
  repeat' (first
    | with_reducible exact Keeps.refl _ _
    | ((with_reducible apply Keeps.after (State.reset_keeps )); case hv => decide)
    | ((with_reducible apply Keeps.after_setMem); (case hv => decide); (case h => (intro h; obtain ⟨h1, h2, h3⟩ := h; unfold MemOk; dsimp only; refine ⟨?_, ?_, ?_⟩ <;> first | (with_reducible first | exact h1 | exact h2 | exact h3 | exact mwf_wrBytes _ _ _ h1 | exact mwf_wrBytes _ _ _ h2 | exact mwf_wrBytes _ _ _ h3 | exact mwf_filter _ _ h1 | exact mwf_foldl_mset _ _ h2 | exact mwf_nil 0 | exact mwf_mset 0 _ _ _ h2 | exact loadInto_wf _ _ h3 | exact loadInto_wf _ _ (mwf_nil 0)) | exact h1 | exact h2 | exact h3))))
theorem flushFuel_keeps (p : Nat) (fuel : Nat) (s : State) : Keeps 141056 s (flushFuel p fuel s) := by
  induction fuel generalizing s with
  | zero => exact Keeps.refl _ _
  | succ k ih =>
    unfold flushFuel
    try dsimp only
    repeat' (first
      | with_reducible exact Keeps.refl _ _
      | ((with_reducible apply Keeps.after (State.writeEvent_keeps _ _ _ _ _ _)); case hv => decide)
      | ((with_reducible apply Keeps.after (State.hostAsk_keeps _ _ _ _ _)); case hv => decide)
      | ((with_reducible apply Keeps.after (State.modPt_keeps _ _ _)); case hv => decide)
      | ((with_reducible apply Keeps.after (ih _)); (case hv => decide))
      | split)
theorem State.flushEvents_keeps (s : State) (p : Nat) : Keeps 141056 s (State.flushEvents s p) := by
  unfold State.flushEvents
  repeat' (first
    | with_reducible exact Keeps.refl _ _
    | ((with_reducible apply Keeps.after (flushFuel_keeps _ _ _)); case hv => decide))
theorem State.errWrite_keeps (s : State) (r : ErrRec) (more : Bool) : Keeps 132872 s (State.errWrite s r more) := by
  unfold State.errWrite
  repeat' (first
    | with_reducible exact Keeps.refl _ _
    | with_reducible apply Keeps.ite
    | ((with_reducible apply Keeps.after (State.noteAt_keeps _ _ _ _ _ _ _ _)); case hv => decide)
    | ((with_reducible apply Keeps.after (State.setGlb_keeps _ _)); case hv => decide)
    | ((with_reducible apply Keeps.after (State.msix_keeps _ _ _)); case hv => decide))
theorem State.errFlush_keeps (s : State) : Keeps 132872 s (State.errFlush s) := by
  unfold State.errFlush
  repeat' (first
    | with_reducible exact Keeps.refl _ _
    | ((with_reducible apply Keeps.after (State.errWrite_keeps _ _ _)); case hv => decide)
    | ((with_reducible apply Keeps.after (State.setLog_keeps _ _)); case hv => decide)
    | with_reducible refine Keeps.trans ?_ (Keeps.foldlPair (fun s x => ?_) _ _))
theorem State.setEntry_keeps (s : State) (e : EntryId) (st : EntrySt) : Keeps 8192 s (State.setEntry s e st) := by
  unfold State.setEntry
  repeat' (first
    | with_reducible exact Keeps.refl _ _
    | ((with_reducible apply Keeps.after (State.modPt_keeps _ _ _)); case hv => decide))

/-! ### Machine/Vault.lean -/

theorem State.deferred_keeps (s : State) (c : Nat) (ks : List Nat) : Keeps 256 s (State.deferred s c ks) := by
  unfold State.deferred
  repeat' (first
    | with_reducible exact Keeps.refl _ _
    | ((with_reducible apply Keeps.after (State.errNote_keeps _ _)); case hv => decide)
    | with_reducible refine Keeps.trans ?_ (Keeps.foldl (fun s x => ?_) _ _))
theorem State.spadTouch_keeps (s : State) (c a n : Nat) : Keeps 16640 s (State.spadTouch s c a n) := by
  unfold State.spadTouch
  repeat' (first
    | with_reducible exact Keeps.refl _ _
    | with_reducible apply Keeps.ite
    | ((with_reducible apply Keeps.after (State.deferred_keeps _ _ _)); case hv => decide)
    | ((with_reducible apply Keeps.after_setCl); (case hv => decide); (case h => (intro h; repeat' (first | with_reducible exact h | with_reducible rfl | with_reducible exact mwf_wrBytes _ _ _ h | with_reducible exact Cluster.spadWr_wf _ _ _ h | with_reducible exact Cluster.zeroSeg_wf _ _ h | with_reducible exact Cluster.zeroSegs_wf _ _ h | simp only [Cluster.setCore_spad, Cluster.setUnit_spad, Cluster.spadPoisonSet_spad, Cluster.taintHeads_spad] | split | dsimp only | exact h | exact Cluster.zeroSegs_wf _ _ h))))
    | ((with_reducible apply Keeps.after (State.fixNote_keeps _ _ _ _ _)); case hv => decide))
theorem State.spadWrite_keeps (s : State) (c u a : Nat) (bs : List Byte) : Keeps 16640 s (State.spadWrite s c u a bs) := by
  unfold State.spadWrite
  repeat' (first
    | with_reducible exact Keeps.refl _ _
    | with_reducible apply Keeps.ite
    | ((with_reducible apply Keeps.after (State.spadTouch_keeps _ _ _ _)); case hv => decide)
    | ((with_reducible apply Keeps.after_modCl); (case hv => decide); (case h => (intro h; repeat' (first | with_reducible exact h | with_reducible rfl | with_reducible exact mwf_wrBytes _ _ _ h | with_reducible exact Cluster.spadWr_wf _ _ _ h | with_reducible exact Cluster.zeroSeg_wf _ _ h | with_reducible exact Cluster.zeroSegs_wf _ _ h | simp only [Cluster.setCore_spad, Cluster.setUnit_spad, Cluster.spadPoisonSet_spad, Cluster.taintHeads_spad] | split | dsimp only | exact h | exact Cluster.zeroSegs_wf _ _ h)))))
theorem State.fieldTouch_keeps (s : State) : Keeps 1040 s (State.fieldTouch s) := by
  unfold State.fieldTouch
  repeat' (first
    | with_reducible exact Keeps.refl _ _
    | ((with_reducible apply Keeps.after (State.setCfg_keeps _ _)); case hv => decide)
    | ((with_reducible apply Keeps.after_setMem); (case hv => decide); (case h => (intro h; obtain ⟨h1, h2, h3⟩ := h; unfold MemOk; dsimp only; refine ⟨?_, ?_, ?_⟩ <;> first | (with_reducible first | exact h1 | exact h2 | exact h3 | exact mwf_wrBytes _ _ _ h1 | exact mwf_wrBytes _ _ _ h2 | exact mwf_wrBytes _ _ _ h3 | exact mwf_filter _ _ h1 | exact mwf_foldl_mset _ _ h2 | exact mwf_nil 0 | exact mwf_mset 0 _ _ _ h2 | exact loadInto_wf _ _ h3 | exact loadInto_wf _ _ (mwf_nil 0)) | exact h1 | exact h2 | exact h3))))
theorem State.sliceCheck_keeps (s : State) (v d : Nat) : Keeps 132368 s (State.sliceCheck s v d) := by
  unfold State.sliceCheck
  repeat' (first
    | with_reducible exact Keeps.refl _ _
    | with_reducible apply Keeps.ite
    | ((with_reducible apply Keeps.after (State.note_keeps _ _ _ _ _)); case hv => decide)
    | ((with_reducible apply Keeps.after (State.fieldTouch_keeps _)); case hv => decide)
    | ((with_reducible apply Keeps.after_setMem); (case hv => decide); (case h => (intro h; obtain ⟨h1, h2, h3⟩ := h; unfold MemOk; dsimp only; refine ⟨?_, ?_, ?_⟩ <;> first | (with_reducible first | exact h1 | exact h2 | exact h3 | exact mwf_wrBytes _ _ _ h1 | exact mwf_wrBytes _ _ _ h2 | exact mwf_wrBytes _ _ _ h3 | exact mwf_filter _ _ h1 | exact mwf_foldl_mset _ _ h2 | exact mwf_nil 0 | exact mwf_mset 0 _ _ _ h2 | exact loadInto_wf _ _ h3 | exact loadInto_wf _ _ (mwf_nil 0)) | exact h1 | exact h2 | exact h3))))
theorem State.decodeCheck_keeps (s : State) (b : Nat) (cov : Nat → Bool) : Keeps 132368 s (State.decodeCheck s b cov).1 := by
  unfold State.decodeCheck
  repeat' (first
    | with_reducible exact Keeps.refl _ _
    | with_reducible apply Keeps.ite
    | ((with_reducible apply Keeps.after (State.sliceCheck_keeps _ _ _)); case hv => decide)
    | ((with_reducible apply Keeps.after (State.decodeBurst_keeps _ _ _)); case hv => decide)
    | with_reducible refine Keeps.trans ?_ (Keeps.foldl (fun s x => ?_) _ _))
theorem State.setRemap_keeps (s : State) (x : Remap) : Keeps 1040 s (State.setRemap s x) := by
  unfold State.setRemap
  repeat' (first
    | with_reducible exact Keeps.refl _ _
    | ((with_reducible apply Keeps.after (State.fieldTouch_keeps _)); case hv => decide)
    | ((with_reducible apply Keeps.after_setMem); (case hv => decide); (case h => (intro h; obtain ⟨h1, h2, h3⟩ := h; unfold MemOk; dsimp only; refine ⟨?_, ?_, ?_⟩ <;> first | (with_reducible first | exact h1 | exact h2 | exact h3 | exact mwf_wrBytes _ _ _ h1 | exact mwf_wrBytes _ _ _ h2 | exact mwf_wrBytes _ _ _ h3 | exact mwf_filter _ _ h1 | exact mwf_foldl_mset _ _ h2 | exact mwf_nil 0 | exact mwf_mset 0 _ _ _ h2 | exact loadInto_wf _ _ h3 | exact loadInto_wf _ _ (mwf_nil 0)) | exact h1 | exact h2 | exact h3))))
theorem State.remapRow_keeps (s : State) (v d bank row spare fails : Nat) : Keeps 132368 s (State.remapRow s v d bank row spare fails).1 := by
  unfold State.remapRow
  repeat' (first
    | with_reducible exact Keeps.refl _ _
    | ((with_reducible apply Keeps.after (State.setRemap_keeps _ _)); case hv => decide)
    | ((with_reducible apply Keeps.after (State.decodeCheck_keeps _ _ _)); case hv => decide)
    | ((with_reducible apply Keeps.after_setMem); (case hv => decide); (case h => (intro h; obtain ⟨h1, h2, h3⟩ := h; unfold MemOk; dsimp only; refine ⟨?_, ?_, ?_⟩ <;> first | (with_reducible first | exact h1 | exact h2 | exact h3 | exact mwf_wrBytes _ _ _ h1 | exact mwf_wrBytes _ _ _ h2 | exact mwf_wrBytes _ _ _ h3 | exact mwf_filter _ _ h1 | exact mwf_foldl_mset _ _ h2 | exact mwf_nil 0 | exact mwf_mset 0 _ _ _ h2 | exact loadInto_wf _ _ h3 | exact loadInto_wf _ _ (mwf_nil 0)) | exact h1 | exact h2 | exact h3)))
    | with_reducible refine Keeps.trans ?_ (Keeps.foldlPair (fun s x => ?_) _ _))
theorem State.retire_keeps (s : State) (v bank row cause : Nat) : Keeps 140560 s (State.retire s v bank row cause) := by
  unfold State.retire
  repeat' (first
    | with_reducible exact Keeps.refl _ _
    | with_reducible apply Keeps.ite
    | ((with_reducible apply Keeps.after (State.note_keeps _ _ _ _ _)); case hv => decide)
    | ((with_reducible apply Keeps.after (State.fieldTouch_keeps _)); case hv => decide)
    | ((with_reducible apply Keeps.after (State.setParts_keeps _ _)); case hv => decide)
    | ((with_reducible apply Keeps.after_setMem); (case hv => decide); (case h => (intro h; obtain ⟨h1, h2, h3⟩ := h; unfold MemOk; dsimp only; refine ⟨?_, ?_, ?_⟩ <;> first | (with_reducible first | exact h1 | exact h2 | exact h3 | exact mwf_wrBytes _ _ _ h1 | exact mwf_wrBytes _ _ _ h2 | exact mwf_wrBytes _ _ _ h3 | exact mwf_filter _ _ h1 | exact mwf_foldl_mset _ _ h2 | exact mwf_nil 0 | exact mwf_mset 0 _ _ _ h2 | exact loadInto_wf _ _ h3 | exact loadInto_wf _ _ (mwf_nil 0)) | exact h1 | exact h2 | exact h3))))
theorem State.repairRow_keeps (s : State) (r : RowId) : Keeps 140560 s (State.repairRow s r).1 := by
  unfold State.repairRow
  repeat' (first
    | with_reducible exact Keeps.refl _ _
    | ((with_reducible apply Keeps.after (State.retire_keeps _ _ _ _ _)); case hv => decide)
    | ((with_reducible apply Keeps.after (State.remapRow_keeps _ _ _ _ _ _ _)); case hv => decide)
    | ((with_reducible apply Keeps.after (State.setRemap_keeps _ _)); case hv => decide)
    | ((with_reducible apply Keeps.after (State.note_keeps _ _ _ _ _)); case hv => decide)
    | ((with_reducible apply Keeps.after (State.fieldTouch_keeps _)); case hv => decide)
    | ((with_reducible apply Keeps.after_setMem); (case hv => decide); (case h => (intro h; obtain ⟨h1, h2, h3⟩ := h; unfold MemOk; dsimp only; refine ⟨?_, ?_, ?_⟩ <;> first | (with_reducible first | exact h1 | exact h2 | exact h3 | exact mwf_wrBytes _ _ _ h1 | exact mwf_wrBytes _ _ _ h2 | exact mwf_wrBytes _ _ _ h3 | exact mwf_filter _ _ h1 | exact mwf_foldl_mset _ _ h2 | exact mwf_nil 0 | exact mwf_mset 0 _ _ _ h2 | exact loadInto_wf _ _ h3 | exact loadInto_wf _ _ (mwf_nil 0)) | exact h1 | exact h2 | exact h3)))
    | split
    | dsimp only)
theorem repairFuel_keeps (n : Nat) (rs : List RowId) (s : State) : Keeps 140560 s (repairFuel n rs s) := by
  induction n generalizing rs s with
  | zero => unfold repairFuel; exact Keeps.refl _ _
  | succ n ih =>
    cases rs with
    | nil => unfold repairFuel; exact Keeps.refl _ _
    | cons r rs => unfold repairFuel; exact ((State.repairRow_keeps _ _).mono (by decide)).trans (ih _ _)
theorem State.readBurst_keeps (s : State) (b : Nat) (cov : Nat → Bool) : Keeps 140560 s (State.readBurst s b cov) := by
  unfold State.readBurst
  repeat' (first
    | with_reducible exact Keeps.refl _ _
    | ((with_reducible apply Keeps.after (repairFuel_keeps _ _ _)); case hv => decide)
    | ((with_reducible apply Keeps.after (State.decodeCheck_keeps _ _ _)); case hv => decide))
theorem State.vaultRead_keeps (s : State) (a n : Nat) : Keeps 140560 s (State.vaultRead s a n) := by
  unfold State.vaultRead
  repeat' (first
    | with_reducible exact Keeps.refl _ _
    | with_reducible apply Keeps.ite
    | ((with_reducible apply Keeps.after (State.readBurst_keeps _ _ _)); case hv => decide)
    | with_reducible refine Keeps.trans ?_ (Keeps.foldl (fun s x => ?_) _ _))
theorem State.partTouch_keeps (s : State) (p pa n : Nat) : Keeps 140560 s (State.partTouch s p pa n) := by
  unfold State.partTouch
  repeat' (first
    | with_reducible exact Keeps.refl _ _
    | ((with_reducible apply Keeps.after (State.vaultRead_keeps _ _ _)); case hv => decide)
    | with_reducible refine Keeps.trans ?_ (Keeps.foldl (fun s x => ?_) _ _))
theorem State.vaultWrite_keeps (s : State) (a : Nat) (bs : List Byte) : Keeps 140560 s (State.vaultWrite s a bs) := by
  unfold State.vaultWrite
  repeat' (first
    | with_reducible exact Keeps.refl _ _
    | with_reducible apply Keeps.ite
    | ((with_reducible apply Keeps.after (State.vaultRead_keeps _ _ _)); case hv => decide)
    | ((with_reducible apply Keeps.after (State.devWr_keeps _ _ _)); case hv => decide))
theorem State.partWr_keeps (s : State) (p pa : Nat) (bs : List Byte) : Keeps 140560 s (State.partWr s p pa bs) := by
  unfold State.partWr
  repeat' (first
    | with_reducible exact Keeps.refl _ _
    | ((with_reducible apply Keeps.after (State.vaultWrite_keeps _ _ _)); case hv => decide)
    | with_reducible refine Keeps.trans ?_ (Keeps.foldlPair (fun s x => ?_) _ _))
theorem State.partPoisonSet_keeps (s : State) (p : Nat) (pas : List Nat) : Keeps 1024 s (State.partPoisonSet s p pas) := by
  unfold State.partPoisonSet
  repeat' (first
    | with_reducible exact Keeps.refl _ _
    | ((with_reducible apply Keeps.after (State.devPoisonSet_keeps _ _)); case hv => decide))
theorem State.settle_keeps (s : State) : Keeps 140560 s (State.settle s) := by
  unfold State.settle
  repeat' (first
    | with_reducible exact Keeps.refl _ _
    | with_reducible apply Keeps.ite
    | ((with_reducible apply Keeps.after (repairFuel_keeps _ _ _)); case hv => decide)
    | ((with_reducible apply Keeps.after (State.sliceCheck_keeps _ _ _)); case hv => decide)
    | ((with_reducible apply Keeps.after_setMem); (case hv => decide); (case h => (intro h; obtain ⟨h1, h2, h3⟩ := h; unfold MemOk; dsimp only; refine ⟨?_, ?_, ?_⟩ <;> first | (with_reducible first | exact h1 | exact h2 | exact h3 | exact mwf_wrBytes _ _ _ h1 | exact mwf_wrBytes _ _ _ h2 | exact mwf_wrBytes _ _ _ h3 | exact mwf_filter _ _ h1 | exact mwf_foldl_mset _ _ h2 | exact mwf_nil 0 | exact mwf_mset 0 _ _ _ h2 | exact loadInto_wf _ _ h3 | exact loadInto_wf _ _ (mwf_nil 0)) | exact h1 | exact h2 | exact h3)))
    | with_reducible refine Keeps.trans ?_ (Keeps.foldl (fun s x => ?_) _ _))
theorem State.poisonRec_keeps (s : State) (part : BitVec 8) (unit index addr count : Nat) (akind : BitVec 8) : Keeps 256 s (State.poisonRec s part unit index addr count akind) := by
  unfold State.poisonRec
  repeat' (first
    | with_reducible exact Keeps.refl _ _
    | ((with_reducible apply Keeps.after (State.errNote_keeps _ _)); case hv => decide))

/-! ### Machine/Operands.lean -/

theorem State.faultAt_keeps (s : State) (a : Agent) (w : Word) (st : BitVec 16) : Keeps 245760 s (State.faultAt s a w st) := by
  unfold State.faultAt
  repeat' (first
    | with_reducible exact Keeps.refl _ _
    | ((with_reducible apply Keeps.after (State.seqFault_keeps _ _ _ _ _)); case hv => decide)
    | ((with_reducible apply Keeps.after (State.coreFault_keeps _ _ _)); case hv => decide)
    | split)
theorem State.setPc_keeps (s : State) (a : Agent) (pc : Nat) (ls : List LoopFrame) : Keeps 49152 s (State.setPc s a pc ls) := by
  unfold State.setPc
  repeat' (first
    | with_reducible exact Keeps.refl _ _
    | ((with_reducible apply Keeps.after (State.modCc_keeps _ _ _)); case hv => decide)
    | ((with_reducible apply Keeps.after_modCl); (case hv => decide); (case h => (intro h; repeat' (first | with_reducible exact h | with_reducible rfl | with_reducible exact mwf_wrBytes _ _ _ h | with_reducible exact Cluster.spadWr_wf _ _ _ h | with_reducible exact Cluster.zeroSeg_wf _ _ h | with_reducible exact Cluster.zeroSegs_wf _ _ h | simp only [Cluster.setCore_spad, Cluster.setUnit_spad, Cluster.spadPoisonSet_spad, Cluster.taintHeads_spad] | split | dsimp only | exact h | exact Cluster.zeroSegs_wf _ _ h))))
    | split)
theorem State.advance_keeps (s : State) (a : Agent) : Keeps 49152 s (State.advance s a) := by
  unfold State.advance
  repeat' (first
    | with_reducible exact Keeps.refl _ _
    | ((with_reducible apply Keeps.after (State.setPc_keeps _ _ _ _)); case hv => decide))
theorem State.stall_keeps (s : State) (a : Agent) (x : Stall) : Keeps 49152 s (State.stall s a x) := by
  unfold State.stall
  repeat' (first
    | with_reducible exact Keeps.refl _ _
    | ((with_reducible apply Keeps.after (State.modCc_keeps _ _ _)); case hv => decide)
    | ((with_reducible apply Keeps.after_modCl); (case hv => decide); (case h => (intro h; repeat' (first | with_reducible exact h | with_reducible rfl | with_reducible exact mwf_wrBytes _ _ _ h | with_reducible exact Cluster.spadWr_wf _ _ _ h | with_reducible exact Cluster.zeroSeg_wf _ _ h | with_reducible exact Cluster.zeroSegs_wf _ _ h | simp only [Cluster.setCore_spad, Cluster.setUnit_spad, Cluster.spadPoisonSet_spad, Cluster.taintHeads_spad] | split | dsimp only | exact h | exact Cluster.zeroSegs_wf _ _ h))))
    | split)
theorem State.unstall_keeps (s : State) (a : Agent) : Keeps 49152 s (State.unstall s a) := by
  unfold State.unstall
  repeat' (first
    | with_reducible exact Keeps.refl _ _
    | ((with_reducible apply Keeps.after (State.modCc_keeps _ _ _)); case hv => decide)
    | ((with_reducible apply Keeps.after_modCl); (case hv => decide); (case h => (intro h; repeat' (first | with_reducible exact h | with_reducible rfl | with_reducible exact mwf_wrBytes _ _ _ h | with_reducible exact Cluster.spadWr_wf _ _ _ h | with_reducible exact Cluster.zeroSeg_wf _ _ h | with_reducible exact Cluster.zeroSegs_wf _ _ h | simp only [Cluster.setCore_spad, Cluster.setUnit_spad, Cluster.spadPoisonSet_spad, Cluster.taintHeads_spad] | split | dsimp only | exact h | exact Cluster.zeroSegs_wf _ _ h))))
    | split)
theorem State.setE_keeps (s : State) (a : Agent) (i : Nat) (v : BitVec 16) : Keeps 49152 s (State.setE s a i v) := by
  unfold State.setE
  repeat' (first
    | with_reducible exact Keeps.refl _ _
    | ((with_reducible apply Keeps.after (State.modCc_keeps _ _ _)); case hv => decide)
    | ((with_reducible apply Keeps.after_modCl); (case hv => decide); (case h => (intro h; repeat' (first | with_reducible exact h | with_reducible rfl | with_reducible exact mwf_wrBytes _ _ _ h | with_reducible exact Cluster.spadWr_wf _ _ _ h | with_reducible exact Cluster.zeroSeg_wf _ _ h | with_reducible exact Cluster.zeroSegs_wf _ _ h | simp only [Cluster.setCore_spad, Cluster.setUnit_spad, Cluster.spadPoisonSet_spad, Cluster.taintHeads_spad] | split | dsimp only | exact h | exact Cluster.zeroSegs_wf _ _ h))))
    | split)
theorem State.setP_keeps (s : State) (a : Agent) (i : Nat) (v : Bool) : Keeps 49152 s (State.setP s a i v) := by
  unfold State.setP
  repeat' (first
    | with_reducible exact Keeps.refl _ _
    | ((with_reducible apply Keeps.after (State.modCc_keeps _ _ _)); case hv => decide)
    | ((with_reducible apply Keeps.after_modCl); (case hv => decide); (case h => (intro h; repeat' (first | with_reducible exact h | with_reducible rfl | with_reducible exact mwf_wrBytes _ _ _ h | with_reducible exact Cluster.spadWr_wf _ _ _ h | with_reducible exact Cluster.zeroSeg_wf _ _ h | with_reducible exact Cluster.zeroSegs_wf _ _ h | simp only [Cluster.setCore_spad, Cluster.setUnit_spad, Cluster.spadPoisonSet_spad, Cluster.taintHeads_spad] | split | dsimp only | exact h | exact Cluster.zeroSegs_wf _ _ h))))
    | split)
theorem State.setS_keeps (s : State) (a : Agent) (i : Nat) (v : Word) : Keeps 49152 s (State.setS s a i v) := by
  unfold State.setS
  repeat' (first
    | with_reducible exact Keeps.refl _ _
    | ((with_reducible apply Keeps.after (State.modCc_keeps _ _ _)); case hv => decide)
    | ((with_reducible apply Keeps.after_modCl); (case hv => decide); (case h => (intro h; repeat' (first | with_reducible exact h | with_reducible rfl | with_reducible exact mwf_wrBytes _ _ _ h | with_reducible exact Cluster.spadWr_wf _ _ _ h | with_reducible exact Cluster.zeroSeg_wf _ _ h | with_reducible exact Cluster.zeroSegs_wf _ _ h | simp only [Cluster.setCore_spad, Cluster.setUnit_spad, Cluster.spadPoisonSet_spad, Cluster.taintHeads_spad] | split | dsimp only | exact h | exact Cluster.zeroSegs_wf _ _ h))))
    | split)
theorem State.setD_keeps (s : State) (a : Agent) (i : Nat) (v : BitVec 256) : Keeps 16384 s (State.setD s a i v) := by
  unfold State.setD
  repeat' (first
    | with_reducible exact Keeps.refl _ _
    | ((with_reducible apply Keeps.after_modCl); (case hv => decide); (case h => (intro h; repeat' (first | with_reducible exact h | with_reducible rfl | with_reducible exact mwf_wrBytes _ _ _ h | with_reducible exact Cluster.spadWr_wf _ _ _ h | with_reducible exact Cluster.zeroSeg_wf _ _ h | with_reducible exact Cluster.zeroSegs_wf _ _ h | simp only [Cluster.setCore_spad, Cluster.setUnit_spad, Cluster.spadPoisonSet_spad, Cluster.taintHeads_spad] | split | dsimp only | exact h | exact Cluster.zeroSegs_wf _ _ h))))
    | split)
theorem State.setStatus_keeps (s : State) (a : Agent) (v : Word) : Keeps 49152 s (State.setStatus s a v) := by
  unfold State.setStatus
  repeat' (first
    | with_reducible exact Keeps.refl _ _
    | ((with_reducible apply Keeps.after (State.modCc_keeps _ _ _)); case hv => decide)
    | ((with_reducible apply Keeps.after_modCl); (case hv => decide); (case h => (intro h; repeat' (first | with_reducible exact h | with_reducible rfl | with_reducible exact mwf_wrBytes _ _ _ h | with_reducible exact Cluster.spadWr_wf _ _ _ h | with_reducible exact Cluster.zeroSeg_wf _ _ h | with_reducible exact Cluster.zeroSegs_wf _ _ h | simp only [Cluster.setCore_spad, Cluster.setUnit_spad, Cluster.spadPoisonSet_spad, Cluster.taintHeads_spad] | split | dsimp only | exact h | exact Cluster.zeroSegs_wf _ _ h))))
    | split)

/-! ### Machine/Flits.lean -/

theorem State.pumpPort_keeps (s : State) (n : Nat) (nak : Bool) (again : List (BitVec 12)) : Keeps 2048 s (State.pumpPort s n nak again) := by
  unfold State.pumpPort
  repeat' (first
    | with_reducible exact Keeps.refl _ _
    | ((with_reducible apply Keeps.after (State.modPo_keeps _ _ _)); case hv => decide))

/-! ### Machine/Contain.lean -/

theorem State.abandon_keeps (s : State) (c : Nat) : Keeps 16384 s (State.abandon s c) := by
  unfold State.abandon
  repeat' (first
    | with_reducible exact Keeps.refl _ _
    | ((with_reducible apply Keeps.after_modCl); (case hv => decide); (case h => (intro h; repeat' (first | with_reducible exact h | with_reducible rfl | with_reducible exact mwf_wrBytes _ _ _ h | with_reducible exact Cluster.spadWr_wf _ _ _ h | with_reducible exact Cluster.zeroSeg_wf _ _ h | with_reducible exact Cluster.zeroSegs_wf _ _ h | simp only [Cluster.setCore_spad, Cluster.setUnit_spad, Cluster.spadPoisonSet_spad, Cluster.taintHeads_spad] | split | dsimp only | exact h | exact Cluster.zeroSegs_wf _ _ h)))))
theorem State.containEntries_keeps (s : State) (p : Fin 64) : Keeps 206592 s (State.containEntries s p) := by
  unfold State.containEntries
  repeat' (first
    | with_reducible exact Keeps.refl _ _
    | ((with_reducible apply Keeps.after (State.completeSt_keeps _ _ _)); case hv => decide)
    | ((with_reducible apply Keeps.after (State.modPt_keeps _ _ _)); case hv => decide)
    | ((with_reducible apply Keeps.after (State.setTasks_keeps _ _)); case hv => decide)
    | with_reducible refine Keeps.trans ?_ (Keeps.foldl (fun s x => ?_) _ _))
theorem State.containPart_keeps (s : State) (p : Fin 64) (r : ErrRec) (owner : Option TaskId) (st : BitVec 16) : Keeps 222976 s (State.containPart s p r owner st) := by
  unfold State.containPart
  repeat' (first
    | with_reducible exact Keeps.refl _ _
    | with_reducible apply Keeps.ite
    | ((with_reducible apply Keeps.after (State.taskStop_keeps _ _ _ _)); case hv => decide)
    | ((with_reducible apply Keeps.after (State.event_keeps _ _ _ _ _)); case hv => decide)
    | ((with_reducible apply Keeps.after (State.containEntries_keeps _ _)); case hv => decide)
    | ((with_reducible apply Keeps.after (State.modPt_keeps _ _ _)); case hv => decide)
    | with_reducible refine Keeps.trans ?_ (Keeps.foldl (fun s x => ?_) _ _))
theorem State.dropCluster_keeps (s : State) (c : Nat) : Keeps 8 s (State.dropCluster s c) := by
  unfold State.dropCluster
  repeat' (first
    | with_reducible exact Keeps.refl _ _
    | ((with_reducible apply Keeps.after (State.setGlb_keeps _ _)); case hv => decide))
theorem State.class2_keeps (s : State) (r : ErrRec) (p : Option (Fin 64)) (c : Option Nat) (owner : Option TaskId) : Keeps 222984 s (State.class2 s r p c owner) := by
  unfold State.class2
  repeat' (first
    | with_reducible exact Keeps.refl _ _
    | with_reducible apply Keeps.ite
    | ((with_reducible apply Keeps.after (State.dropCluster_keeps _ _)); case hv => decide)
    | ((with_reducible apply Keeps.after (State.containPart_keeps _ _ _ _ _)); case hv => decide)
    | ((with_reducible apply Keeps.after (State.modPt_keeps _ _ _)); case hv => decide)
    | ((with_reducible apply Keeps.after (State.abandon_keeps _ _)); case hv => decide)
    | ((with_reducible apply Keeps.after (State.errNote_keeps _ _)); case hv => decide)
    | split)
theorem State.structRd_keeps (s : State) (p : Fin 64) (pa n : Nat) : Keeps 223000 s (State.structRd s p pa n).2 := by
  unfold State.structRd
  repeat' (first
    | with_reducible exact Keeps.refl _ _
    | ((with_reducible apply Keeps.after (State.partTouch_keeps _ _ _ _)); case hv => decide)
    | ((with_reducible apply Keeps.after (State.class2_keeps _ _ _ _ _)); case hv => decide)
    | split
    | dsimp only)
theorem State.groupOffLog_keeps (s : State) (dev : Nat) (part : BitVec 8) (src : BitVec 14) : Keeps 132352 s (State.groupOffLog s dev part src) := by
  unfold State.groupOffLog
  repeat' (first
    | with_reducible exact Keeps.refl _ _
    | ((with_reducible apply Keeps.after (State.noteSev_keeps _ _ _ _ _ _)); case hv => decide))
theorem State.structWr_keeps (s : State) (p : Fin 64) (pa : Nat) (bs : List Byte) : Keeps 140560 s (State.structWr s p pa bs) := by
  unfold State.structWr
  repeat' (first
    | with_reducible exact Keeps.refl _ _
    | with_reducible apply Keeps.ite
    | ((with_reducible apply Keeps.after (State.partWr_keeps _ _ _ _)); case hv => decide)
    | ((with_reducible apply Keeps.after (State.groupOffLog_keeps _ _ _ _)); case hv => decide))
theorem State.fatal_keeps (s : State) (r : ErrRec) : Keeps 151304 s (State.fatal s r) := by
  unfold State.fatal
  repeat' (first
    | with_reducible exact Keeps.refl _ _
    | with_reducible apply Keeps.ite
    | ((with_reducible apply Keeps.after (State.errWrite_keeps _ _ _)); case hv => decide)
    | ((with_reducible apply Keeps.after (State.setLnk_keeps _ _)); case hv => decide)
    | ((with_reducible apply Keeps.after (State.setGlb_keeps _ _)); case hv => decide)
    | ((with_reducible apply Keeps.after (State.setHif_keeps _ _)); case hv => decide)
    | ((with_reducible apply Keeps.after_setClusters); (case hv => decide); (case h => (intro h c; refine mget_map_wf _ ?_ _ c (h c); intro kv h; repeat' (first | with_reducible exact h | with_reducible rfl | with_reducible exact mwf_wrBytes _ _ _ h | with_reducible exact Cluster.spadWr_wf _ _ _ h | with_reducible exact Cluster.zeroSeg_wf _ _ h | with_reducible exact Cluster.zeroSegs_wf _ _ h | simp only [Cluster.setCore_spad, Cluster.setUnit_spad, Cluster.spadPoisonSet_spad, Cluster.taintHeads_spad] | split | dsimp only | exact h | exact Cluster.zeroSegs_wf _ _ h)))))

/-! ### Machine/Issue.lean -/

theorem Keeps.after_guarded {v : Nat} {s0 s : State} {a : Agent} {w : Word} {cs : List (Bool × BitVec 16)} {body : State → State}
    (hv : 245760 &&& v = 245760) (hb : ∀ t, Keeps v t (body t)) (hk : Keeps v s0 s) : Keeps v s0 (s.guarded a w cs body) := by
  unfold State.guarded
  split
  · exact (State.faultAt_keeps _ _ _ _).after hv hk
  · exact hk.trans (hb s)
theorem Keeps.after_issue {v : Nat} {s0 s : State} {a : Agent} {code : Nat} {w : Word} {body : State → State}
    (hv : 245760 &&& v = 245760) (hb : ∀ t, Keeps v t (body t)) (hk : Keeps v s0 s) : Keeps v s0 (s.issue a code w body) := by
  unfold State.issue
  split
  · split
    · exact hk.trans (hb s)
    · split
      · exact hk
      · exact (State.faultAt_keeps _ _ _ _).after hv hk
  · exact hk

/-! ### Machine/Tensor.lean -/

theorem State.spadPlan_keeps (s : State) (c u win : Nat) (pl : Plan) : Keeps 16640 s (State.spadPlan s c u win pl) := by
  unfold State.spadPlan
  repeat' (first
    | with_reducible exact Keeps.refl _ _
    | ((with_reducible apply Keeps.after (State.spadWrite_keeps _ _ _ _ _)); case hv => decide)
    | with_reducible refine Keeps.trans ?_ (Keeps.foldl (fun s x => ?_) _ _))
theorem State.storeOut_keeps (s : State) (c u : Nat) (t : Ten) (e : Bool) (o : Out) : Keeps 16640 s (State.storeOut s c u t e o) := by
  unfold State.storeOut
  try dsimp only
  repeat' (first
    | with_reducible exact Keeps.refl _ _
    | assumption
    | with_reducible apply Keeps.ite
    | ((with_reducible apply Keeps.after (State.spadPlan_keeps _ _ _ _ _)); case hv => decide)
    | ((with_reducible apply Keeps.after (State.spadTouch_keeps _ _ _ _)); case hv => decide)
    | ((with_reducible apply Keeps.after_modCl); (case hv => decide); (case h => (intro h; repeat' (first | with_reducible exact h | with_reducible rfl | with_reducible exact mwf_wrBytes _ _ _ h | with_reducible exact Cluster.spadWr_wf _ _ _ h | with_reducible exact Cluster.zeroSeg_wf _ _ h | with_reducible exact Cluster.zeroSegs_wf _ _ h | simp only [Cluster.setCore_spad, Cluster.setUnit_spad, Cluster.spadPoisonSet_spad, Cluster.taintHeads_spad] | split | dsimp only | exact h | exact Cluster.zeroSegs_wf _ _ h))))
    | with_reducible apply Keeps.ite_fst
    | with_reducible apply Keeps.ite_snd
    | intro _
    | split
    | with_reducible apply Keeps.of_pair (by assumption)
    | with_reducible apply Keeps.of_pair2 (by assumption)
    | dsimp only)
theorem State.touchTen_keeps (s : State) (c : Nat) (t : Ten) : Keeps 16640 s (State.touchTen s c t) := by
  unfold State.touchTen
  repeat' (first
    | with_reducible exact Keeps.refl _ _
    | ((with_reducible apply Keeps.after (State.spadTouch_keeps _ _ _ _)); case hv => decide)
    | with_reducible refine Keeps.trans ?_ (Keeps.foldl (fun s x => ?_) _ _))

/-! ### Machine/Check.lean -/

theorem State.modJob_keeps (s : State) (c u id : Nat) (g : Job → Job) : Keeps 16384 s (State.modJob s c u id g) := by
  unfold State.modJob
  repeat' (first
    | with_reducible exact Keeps.refl _ _
    | ((with_reducible apply Keeps.after_modCl); (case hv => decide); (case h => (intro h; repeat' (first | with_reducible exact h | with_reducible rfl | with_reducible exact mwf_wrBytes _ _ _ h | with_reducible exact Cluster.spadWr_wf _ _ _ h | with_reducible exact Cluster.zeroSeg_wf _ _ h | with_reducible exact Cluster.zeroSegs_wf _ _ h | simp only [Cluster.setCore_spad, Cluster.setUnit_spad, Cluster.spadPoisonSet_spad, Cluster.taintHeads_spad] | split | dsimp only | exact h | exact Cluster.zeroSegs_wf _ _ h)))))
theorem State.jobFault_keeps (s : State) (c u : Nat) (j : Job) (st : BitVec 16) : Keeps 212992 s (State.jobFault s c u j st) := by
  unfold State.jobFault
  repeat' (first
    | with_reducible exact Keeps.refl _ _
    | with_reducible apply Keeps.ite
    | ((with_reducible apply Keeps.after (State.modJob_keeps _ _ _ _ _)); case hv => decide)
    | ((with_reducible apply Keeps.after (State.seqFault_keeps _ _ _ _ _)); case hv => decide)
    | ((with_reducible apply Keeps.after_modCl); (case hv => decide); (case h => (intro h; repeat' (first | with_reducible exact h | with_reducible rfl | with_reducible exact mwf_wrBytes _ _ _ h | with_reducible exact Cluster.spadWr_wf _ _ _ h | with_reducible exact Cluster.zeroSeg_wf _ _ h | with_reducible exact Cluster.zeroSegs_wf _ _ h | simp only [Cluster.setCore_spad, Cluster.setUnit_spad, Cluster.spadPoisonSet_spad, Cluster.taintHeads_spad] | split | dsimp only | exact h | exact Cluster.zeroSegs_wf _ _ h)))))
theorem State.bumpEvent_keeps (s : State) (c : Nat) (w : Word) : Keeps 16384 s (State.bumpEvent s c w) := by
  unfold State.bumpEvent
  repeat' (first
    | with_reducible exact Keeps.refl _ _
    | ((with_reducible apply Keeps.after_modCl); (case hv => decide); (case h => (intro h; repeat' (first | with_reducible exact h | with_reducible rfl | with_reducible exact mwf_wrBytes _ _ _ h | with_reducible exact Cluster.spadWr_wf _ _ _ h | with_reducible exact Cluster.zeroSeg_wf _ _ h | with_reducible exact Cluster.zeroSegs_wf _ _ h | simp only [Cluster.setCore_spad, Cluster.setUnit_spad, Cluster.spadPoisonSet_spad, Cluster.taintHeads_spad] | split | dsimp only | exact h | exact Cluster.zeroSegs_wf _ _ h))))
    | split)
theorem State.finish_keeps (s : State) (c u : Nat) (j0 : Job) (st : Word) : Keeps 16384 s (State.finish s c u j0 st) := by
  unfold State.finish
  repeat' (first
    | with_reducible exact Keeps.refl _ _
    | with_reducible apply Keeps.ite
    | ((with_reducible apply Keeps.after (State.bumpEvent_keeps _ _ _)); case hv => decide)
    | ((with_reducible apply Keeps.after_modCl); (case hv => decide); (case h => (intro h; repeat' (first | with_reducible exact h | with_reducible rfl | with_reducible exact mwf_wrBytes _ _ _ h | with_reducible exact Cluster.spadWr_wf _ _ _ h | with_reducible exact Cluster.zeroSeg_wf _ _ h | with_reducible exact Cluster.zeroSegs_wf _ _ h | simp only [Cluster.setCore_spad, Cluster.setUnit_spad, Cluster.spadPoisonSet_spad, Cluster.taintHeads_spad] | split | dsimp only | exact h | exact Cluster.zeroSegs_wf _ _ h)))))
theorem State.jobPoison_keeps (s : State) (c u : Nat) (j : Job) (addrs : List Nat) : Keeps 213248 s (State.jobPoison s c u j addrs) := by
  unfold State.jobPoison
  repeat' (first
    | with_reducible exact Keeps.refl _ _
    | ((with_reducible apply Keeps.after (State.poisonRec_keeps _ _ _ _ _ _ _)); case hv => decide)
    | ((with_reducible apply Keeps.after (State.jobFault_keeps _ _ _ _ _)); case hv => decide)
    | split)
theorem State.readFault_keeps (s : State) (c u : Nat) (j : Job) (ts : List Ten) (rs : List Raw) : Keeps 213248 s (State.readFault s c u j ts rs) := by
  unfold State.readFault
  repeat' (first
    | with_reducible exact Keeps.refl _ _
    | ((with_reducible apply Keeps.after (State.jobPoison_keeps _ _ _ _ _)); case hv => decide)
    | ((with_reducible apply Keeps.after (State.jobFault_keeps _ _ _ _ _)); case hv => decide)
    | split)
theorem State.enqueue_keeps (s : State) (c : Nat) (j : Job) : Keeps 16384 s (State.enqueue s c j) := by
  unfold State.enqueue
  repeat' (first
    | with_reducible exact Keeps.refl _ _
    | ((with_reducible apply Keeps.after_modCl); (case hv => decide); (case h => (intro h; repeat' (first | with_reducible exact h | with_reducible rfl | with_reducible exact mwf_wrBytes _ _ _ h | with_reducible exact Cluster.spadWr_wf _ _ _ h | with_reducible exact Cluster.zeroSeg_wf _ _ h | with_reducible exact Cluster.zeroSegs_wf _ _ h | simp only [Cluster.setCore_spad, Cluster.setUnit_spad, Cluster.spadPoisonSet_spad, Cluster.taintHeads_spad] | split | dsimp only | exact h | exact Cluster.zeroSegs_wf _ _ h)))))
theorem Keeps.after_tensorIssue {v : Nat} {s0 s : State} {a : Agent} {code : Nat} {w : Word} {op : TOp} {os : List Opd} {sc : List Word}
    {k : TChk} {act : Nat → Job → State → State × Except (BitVec 16) Job} (hv : 245760 &&& v = 245760)
    (hb : ∀ c j t, Keeps v t (act c j t).1) (hk : Keeps v s0 s) : Keeps v s0 (s.tensorIssue a code w op os sc k act) := by
  have hc : 16384 &&& v = 16384 := Keeps.bits (by decide) hv
  have ha : 49152 &&& v = 49152 := Keeps.bits (by decide) hv
  unfold State.tensorIssue
  refine Keeps.after_issue hv (fun t => ?_) hk
  dsimp only
  split
  · exact (State.faultAt_keeps _ _ _ _).mono hv
  · split
    · refine (State.faultAt_keeps _ _ _ _).after hv (Keeps.ite ?_ (Keeps.refl _ _))
      exact Keeps.after_modCl hc (fun h => h) (Keeps.refl _ _)
    · refine Keeps.ite ((State.stall_keeps _ _ _).mono ha) (Keeps.ite ?_ (Keeps.ite ((State.stall_keeps _ _ _).mono ha) (Keeps.ite ?_ ?_)))
      · exact (State.advance_keeps _ _).after ha ((State.bumpEvent_keeps _ _ _).mono hc)
      · exact (State.advance_keeps _ _).after ha ((State.enqueue_keeps _ _ _).mono hc)
      · split
        · rename_i h
          exact (State.advance_keeps _ _).after ha ((State.enqueue_keeps _ _ _).after hc (Keeps.of_pair h (hb _ _ _)))
        · rename_i h
          exact (State.faultAt_keeps _ _ _ _).after hv (Keeps.of_pair h (hb _ _ _))
theorem Keeps.after_formIssue {v : Nat} {s0 s : State} {a : Agent} {w : Word} {f : TForm} (hv : 245760 &&& v = 245760)
    (hb : ∀ c j t, Keeps v t (f.act c j t).1) (hk : Keeps v s0 s) : Keeps v s0 (s.formIssue a w f) :=
  Keeps.after_tensorIssue hv hb hk

/-! ### Machine/Egress.lean -/

theorem State.push_keeps (s : State) (n : Nat) (k : Packet) : Keeps 2048 s (State.push s n k) := by
  unfold State.push
  repeat' (first
    | with_reducible exact Keeps.refl _ _
    | ((with_reducible apply Keeps.after (State.pumpPort_keeps _ _ _ _)); case hv => decide)
    | ((with_reducible apply Keeps.after (State.modPo_keeps _ _ _)); case hv => decide))
theorem State.send_keeps (s : State) (k : Packet) : Keeps 2048 s (State.send s k).1 := by
  unfold State.send
  repeat' (first
    | with_reducible exact Keeps.refl _ _
    | ((with_reducible apply Keeps.after (State.push_keeps _ _ _)); case hv => decide)
    | split)
theorem State.reqDone_keeps (s : State) (tag : BitVec 16) (st : BitVec 16) (data : List (BitVec 256)) (poison : BitVec 16) : Keeps 223232 s (State.reqDone s tag st data poison).1 := by
  unfold State.reqDone
  repeat' (first
    | with_reducible exact Keeps.refl _ _
    | ((with_reducible apply Keeps.after (State.jobFault_keeps _ _ _ _ _)); case hv => decide)
    | ((with_reducible apply Keeps.after (State.modJob_keeps _ _ _ _ _)); case hv => decide)
    | ((with_reducible apply Keeps.after (State.setLnk_keeps _ _)); case hv => decide)
    | ((with_reducible apply Keeps.after (State.modPt_keeps _ _ _)); case hv => decide)
    | split
    | dsimp only)
theorem State.requestAll_keeps (s : State) (c u id off more : Nat) (chip : BitVec 14) (ks : List Packet) : Keeps 223232 s (State.requestAll s c u id off more chip ks) := by
  unfold State.requestAll
  repeat' (first
    | with_reducible exact Keeps.refl _ _
    | with_reducible apply Keeps.ite
    | ((with_reducible apply Keeps.after (State.reqDone_keeps _ _ _ _ _)); case hv => decide)
    | ((with_reducible apply Keeps.after (State.modJob_keeps _ _ _ _ _)); case hv => decide)
    | ((with_reducible apply Keeps.after (State.send_keeps _ _)); case hv => decide)
    | ((with_reducible apply Keeps.after (State.setLnk_keeps _ _)); case hv => decide)
    | with_reducible refine Keeps.trans ?_ (Keeps.foldlPair (fun s x => ?_) _ _)
    | split)
theorem State.request_keeps (s : State) (c u id off : Nat) (k : Packet) : Keeps 223232 s (State.request s c u id off k) := by
  unfold State.request
  repeat' (first
    | with_reducible exact Keeps.refl _ _
    | ((with_reducible apply Keeps.after (State.requestAll_keeps _ _ _ _ _ _ _ _)); case hv => decide))
theorem State.sendSys_keeps (s : State) (dst : BitVec 14) (vc : BitVec 4) (ws : List Word) : Keeps 2048 s (State.sendSys s dst vc ws) := by
  unfold State.sendSys
  repeat' (first
    | with_reducible exact Keeps.refl _ _
    | ((with_reducible apply Keeps.after (State.send_keeps _ _)); case hv => decide)
    | split)
theorem State.tellPorts_keeps (s : State) (ns : List Nat) (vc : BitVec 4) (ws : List Word) : Keeps 2048 s (State.tellPorts s ns vc ws) := by
  unfold State.tellPorts
  try dsimp only
  repeat' (first
    | with_reducible exact Keeps.refl _ _
    | assumption
    | with_reducible apply Keeps.ite
    | ((with_reducible apply Keeps.after (State.push_keeps _ _ _)); case hv => decide)
    | with_reducible refine Keeps.trans ?_ (Keeps.foldl (fun s x => ?_) _ _)
    | with_reducible refine Keeps.trans ?_ (Keeps.foldlPair (fun s x => ?_) _ _)
    | with_reducible apply Keeps.ite_fst
    | with_reducible apply Keeps.ite_snd
    | intro _
    | split
    | with_reducible apply Keeps.of_pair (by assumption)
    | with_reducible apply Keeps.of_pair2 (by assumption)
    | dsimp only)

end Sys2Proof.Machine
end

