-- ==== Sys2Proof/Laws/KeepsCluster.lean ====
section
/-! SUPPORT. What may change, one lemma per operation (see `Keeps`): the work of a cluster: data movement, matrix, attention, key-value cache, scalar, vector, collectives. -/

namespace Sys2Proof.Machine

set_option linter.unusedSimpArgs false

/-! ### Machine/Range.lean -/

theorem State.rangePut_keeps (s : State) (T : Task) (layer : Nat) (done : Nat × Nat × Nat × Mon → Bool) : Keeps 140560 s (State.rangePut s T layer done) := by
  unfold State.rangePut
  try dsimp only
  repeat' (first
    | with_reducible exact Keeps.refl _ _
    | assumption
    | with_reducible apply Keeps.ite
    | ((with_reducible apply Keeps.after (State.structWr_keeps _ _ _ _)); case hv => decide)
    | ((with_reducible apply Keeps.after (State.modPt_keeps _ _ _)); case hv => decide)
    | with_reducible refine Keeps.trans ?_ (Keeps.foldl (fun s x => ?_) _ _)
    | with_reducible refine Keeps.trans ?_ (Keeps.foldlPair (fun s x => ?_) _ _)
    | with_reducible apply Keeps.ite_fst
    | with_reducible apply Keeps.ite_snd
    | intro _
    | split
    | with_reducible apply Keeps.of_pair (by assumption)
    | with_reducible apply Keeps.of_pair2 (by assumption)
    | dsimp only)
theorem State.rangeFlush_keeps (s : State) (T : Task) (layer : Nat) : Keeps 140560 s (State.rangeFlush s T layer) := by
  unfold State.rangeFlush
  repeat' (first
    | with_reducible exact Keeps.refl _ _
    | with_reducible apply Keeps.ite
    | ((with_reducible apply Keeps.after (State.rangePut_keeps _ _ _ _)); case hv => decide)
    | split)
theorem State.rangeFlushAll_keeps (s : State) (T : Task) : Keeps 140560 s (State.rangeFlushAll s T) := by
  unfold State.rangeFlushAll
  repeat' (first
    | with_reducible exact Keeps.refl _ _
    | with_reducible apply Keeps.ite
    | ((with_reducible apply Keeps.after (State.rangeFlush_keeps _ _ _)); case hv => decide)
    | with_reducible refine Keeps.trans ?_ (Keeps.foldl (fun s x => ?_) _ _))
theorem State.rangeClose_keeps (s : State) (T : Task) (layer : Nat) : Keeps 140560 s (State.rangeClose s T layer) := by
  unfold State.rangeClose
  try dsimp only
  repeat' (first
    | with_reducible exact Keeps.refl _ _
    | assumption
    | with_reducible apply Keeps.ite
    | ((with_reducible apply Keeps.after (State.rangePut_keeps _ _ _ _)); case hv => decide)
    | ((with_reducible apply Keeps.after (State.modPt_keeps _ _ _)); case hv => decide)
    | with_reducible refine Keeps.trans ?_ (Keeps.foldl (fun s x => ?_) _ _)
    | with_reducible refine Keeps.trans ?_ (Keeps.foldlPair (fun s x => ?_) _ _)
    | with_reducible apply Keeps.ite_fst
    | with_reducible apply Keeps.ite_snd
    | intro _
    | split
    | with_reducible apply Keeps.of_pair (by assumption)
    | with_reducible apply Keeps.of_pair2 (by assumption)
    | dsimp only)
theorem State.rangeCloseAll_keeps (s : State) (T : Task) : Keeps 140560 s (State.rangeCloseAll s T) := by
  unfold State.rangeCloseAll
  try dsimp only
  repeat' (first
    | with_reducible exact Keeps.refl _ _
    | assumption
    | with_reducible apply Keeps.ite
    | ((with_reducible apply Keeps.after (State.rangeClose_keeps _ _ _)); case hv => decide)
    | with_reducible refine Keeps.trans ?_ (Keeps.foldl (fun s x => ?_) _ _)
    | with_reducible refine Keeps.trans ?_ (Keeps.foldlPair (fun s x => ?_) _ _)
    | with_reducible apply Keeps.ite_fst
    | with_reducible apply Keeps.ite_snd
    | intro _
    | split
    | with_reducible apply Keeps.of_pair (by assumption)
    | with_reducible apply Keeps.of_pair2 (by assumption)
    | dsimp only)
theorem State.drawStream_keeps (s : State) (c : Nat) (field n : Nat) : Keeps 8192 s (State.drawStream s c field n).1 := by
  unfold State.drawStream
  repeat' (first
    | with_reducible exact Keeps.refl _ _
    | ((with_reducible apply Keeps.after (State.setPt_keeps _ _ _)); case hv => decide)
    | split
    | dsimp only)
theorem State.entryRd_keeps (s : State) (p : Fin 64) (a n : Nat) : Keeps 223000 s (State.entryRd s p a n).1 := by
  unfold State.entryRd
  try dsimp only
  repeat' (first
    | with_reducible exact Keeps.refl _ _
    | assumption
    | with_reducible apply Keeps.ite
    | ((with_reducible apply Keeps.after (State.structRd_keeps _ _ _ _)); case hv => decide)
    | with_reducible apply Keeps.ite_fst
    | with_reducible apply Keeps.ite_snd
    | intro _
    | split
    | with_reducible apply Keeps.of_pair (by assumption)
    | with_reducible apply Keeps.of_pair2 (by assumption)
    | dsimp only)
theorem State.rangeRecs_keeps (s : State) (p : Fin 64) (a : Nat) : Keeps 223000 s (State.rangeRecs s p a).1 := by
  unfold State.rangeRecs
  try dsimp only
  repeat' (first
    | with_reducible exact Keeps.refl _ _
    | assumption
    | with_reducible apply Keeps.ite
    | ((with_reducible apply Keeps.after (State.entryRd_keeps _ _ _ _)); case hv => decide)
    | with_reducible apply Keeps.ite_fst
    | with_reducible apply Keeps.ite_snd
    | intro _
    | split
    | with_reducible apply Keeps.of_pair (by assumption)
    | with_reducible apply Keeps.of_pair2 (by assumption)
    | dsimp only)
theorem State.invocFmt_keeps (s : State) (p : Fin 64) (layer : Nat) (k : BitVec 32) (ref : Bool) (pin thresh : Nat) : Keeps 223000 s (State.invocFmt s p layer k ref pin thresh).1 := by
  unfold State.invocFmt
  try dsimp only
  repeat' (first
    | with_reducible exact Keeps.refl _ _
    | assumption
    | with_reducible apply Keeps.ite
    | ((with_reducible apply Keeps.after (State.rangeRecs_keeps _ _ _)); case hv => decide)
    | with_reducible apply Keeps.ite_fst
    | with_reducible apply Keeps.ite_snd
    | intro _
    | split
    | with_reducible apply Keeps.of_pair (by assumption)
    | with_reducible apply Keeps.of_pair2 (by assumption)
    | dsimp only)
theorem State.takeInvoc_keeps (s : State) (T : Task) (c layer a : Nat) : Keeps 140560 s (State.takeInvoc s T c layer a).1 := by
  unfold State.takeInvoc
  repeat' (first
    | with_reducible exact Keeps.refl _ _
    | with_reducible apply Keeps.ite
    | ((with_reducible apply Keeps.after (State.structWr_keeps _ _ _ _)); case hv => decide)
    | ((with_reducible apply Keeps.after (State.modPt_keeps _ _ _)); case hv => decide))
theorem State.takeEntry_keeps (s : State) (T : Task) (layer a : Nat) : Keeps 223000 s (State.takeEntry s T layer a) := by
  unfold State.takeEntry
  repeat' (first
    | with_reducible exact Keeps.refl _ _
    | with_reducible apply Keeps.ite
    | ((with_reducible apply Keeps.after (State.entryRd_keeps _ _ _ _)); case hv => decide)
    | ((with_reducible apply Keeps.after (State.structWr_keeps _ _ _ _)); case hv => decide)
    | ((with_reducible apply Keeps.after (State.modPt_keeps _ _ _)); case hv => decide)
    | with_reducible refine Keeps.trans ?_ (Keeps.foldl (fun s x => ?_) _ _))
theorem State.rangeMerge_keeps (s : State) (T : Task) (layer : Nat) (k : BitVec 32) (fmt : Nat) (m : Mon) : Keeps 140560 s (State.rangeMerge s T layer k fmt m) := by
  unfold State.rangeMerge
  repeat' (first
    | with_reducible exact Keeps.refl _ _
    | with_reducible apply Keeps.ite
    | ((with_reducible apply Keeps.after (State.rangeFlush_keeps _ _ _)); case hv => decide)
    | ((with_reducible apply Keeps.after (State.modPt_keeps _ _ _)); case hv => decide)
    | split)

/-! ### Machine/Matrix.lean -/

theorem State.joinInvoc_keeps (s : State) (T : Task) (c layer a : Nat) : Keeps 140560 s (State.joinInvoc s T c layer a).1 := by
  unfold State.joinInvoc
  repeat' (first
    | with_reducible exact Keeps.refl _ _
    | ((with_reducible apply Keeps.after (State.takeInvoc_keeps _ _ _ _ _)); case hv => decide)
    | ((with_reducible apply Keeps.after (State.rangeFlush_keeps _ _ _)); case hv => decide))
theorem State.splitTouch_keeps (s : State) (c : Nat) (addr : Word) : Keeps 16640 s (State.splitTouch s c addr).1 := by
  unfold State.splitTouch
  try dsimp only
  repeat' (first
    | with_reducible exact Keeps.refl _ _
    | assumption
    | with_reducible apply Keeps.ite
    | ((with_reducible apply Keeps.after (State.spadTouch_keeps _ _ _ _)); case hv => decide)
    | with_reducible apply Keeps.ite_fst
    | with_reducible apply Keeps.ite_snd
    | intro _
    | split
    | with_reducible apply Keeps.of_pair (by assumption)
    | with_reducible apply Keeps.of_pair2 (by assumption)
    | dsimp only)
theorem mAct_keeps (c : Nat) (j : Job) (s0 : State) : Keeps 223000 s0 (mAct c j s0).1 := by
  unfold mAct
  try dsimp only
  repeat' (first
    | with_reducible exact Keeps.refl _ _
    | assumption
    | with_reducible apply Keeps.ite
    | ((with_reducible apply Keeps.after (State.takeEntry_keeps _ _ _ _)); case hv => decide)
    | ((with_reducible apply Keeps.after (State.splitTouch_keeps _ _ _)); case hv => decide)
    | ((with_reducible apply Keeps.after (State.joinInvoc_keeps _ _ _ _ _)); case hv => decide)
    | ((with_reducible apply Keeps.after (State.invocFmt_keeps _ _ _ _ _ _ _)); case hv => decide)
    | ((with_reducible apply Keeps.after (State.entryRd_keeps _ _ _ _)); case hv => decide)
    | ((with_reducible apply Keeps.after (State.drawStream_keeps _ _ _ _)); case hv => decide)
    | ((with_reducible apply Keeps.after (State.poisonRec_keeps _ _ _ _ _ _ _)); case hv => decide)
    | with_reducible apply Keeps.ite_fst
    | with_reducible apply Keeps.ite_snd
    | intro _
    | split
    | with_reducible apply Keeps.of_pair (by assumption)
    | with_reducible apply Keeps.of_pair2 (by assumption)
    | dsimp only)
theorem mIssue_keeps (tmmp : Bool) (code : Nat) (a : Agent) (w : Word) (s : State) : Keeps 255768 s (mIssue tmmp code a w s) := by
  unfold mIssue
  repeat' (first
    | with_reducible exact Keeps.refl _ _
    | exact Keeps.refl _ _
    | unfold mForm
    | ((with_reducible apply Keeps.after (mAct_keeps _ _ _)); case hv => decide)
    | ((with_reducible apply Keeps.after_formIssue); (case hv => decide))
    | with_reducible apply Keeps.ite_fst
    | intro _)
theorem emptyBuf_keeps (c k : Nat) (s : State) : Keeps 16384 s (emptyBuf c k s) := by
  unfold emptyBuf
  repeat' (first
    | with_reducible exact Keeps.refl _ _
    | ((with_reducible apply Keeps.after (State.modJob_keeps _ _ _ _ _)); case hv => decide)
    | ((with_reducible apply Keeps.after_modCl); (case hv => decide); (case h => (intro h; repeat' (first | with_reducible exact h | with_reducible rfl | with_reducible exact mwf_wrBytes _ _ _ h | with_reducible exact Cluster.spadWr_wf _ _ _ h | with_reducible exact Cluster.zeroSeg_wf _ _ h | with_reducible exact Cluster.zeroSegs_wf _ _ h | simp only [Cluster.setCore_spad, Cluster.setUnit_spad, Cluster.spadPoisonSet_spad, Cluster.taintHeads_spad] | split | dsimp only | exact h | exact Cluster.zeroSegs_wf _ _ h))))
    | split)
theorem emptyBufs_keeps (c : Nat) (s : State) : Keeps 16384 s (emptyBufs c s) := by
  unfold emptyBufs
  repeat' (first
    | with_reducible exact Keeps.refl _ _
    | ((with_reducible apply Keeps.after (emptyBuf_keeps _ _ _)); case hv => decide)
    | with_reducible refine Keeps.trans ?_ (Keeps.foldl (fun s x => ?_) _ _))
theorem mComplete_keeps (c : Nat) (j0 : Job) (s : State) : Keeps 156944 s (mComplete c j0 s) := by
  unfold mComplete
  dsimp only
  generalize convert _ _ _ = r
  generalize mMon _ _ = mon
  generalize (if j0.dead = true then [] else lateRuns (s.cl c) j0) = late
  refine (State.finish_keeps _ _ _ _ _).after (by decide) ?_
  have h1 : ∀ b : Bool, Keeps 156944 s (if b = true then (s.storeOut c 0 (j0.ten 0) (wE j0.word) r.1).bump (j0.ten 0).count else s) := fun b =>
    Keeps.ite ((State.bump_keeps _ _).after (by decide) ((State.storeOut_keeps _ _ _ _ _ _).mono (by decide))) (Keeps.refl _ _)
  refine Keeps.ite (Keeps.after_modCl (by decide) (fun h => by rw [keepBad_spad]; exact h) ?_) ?_
  all_goals
    split
    · exact Keeps.ite ((State.rangeMerge_keeps _ _ _ _ _ _).after (by decide) (h1 _)) (h1 _)
    · exact h1 _
theorem State.countRepeat_keeps (s : State) (c : Nat) : Keeps 73728 s (State.countRepeat s c) := by
  unfold State.countRepeat
  repeat' (first
    | with_reducible exact Keeps.refl _ _
    | ((with_reducible apply Keeps.after (State.modPt_keeps _ _ _)); case hv => decide)
    | ((with_reducible apply Keeps.after (State.modTask_keeps _ _ _)); case hv => decide)
    | split)
theorem State.killJob_keeps (s : State) (c : Nat) (j : Job) (st : BitVec 16) : Keeps 212992 s (State.killJob s c j st) := by
  unfold State.killJob
  repeat' (first
    | with_reducible exact Keeps.refl _ _
    | ((with_reducible apply Keeps.after (State.jobFault_keeps _ _ _ _ _)); case hv => decide)
    | ((with_reducible apply Keeps.after (State.modJob_keeps _ _ _ _ _)); case hv => decide)
    | ((with_reducible apply Keeps.after_modCl); (case hv => decide); (case h => (intro h; repeat' (first | with_reducible exact h | with_reducible rfl | with_reducible exact mwf_wrBytes _ _ _ h | with_reducible exact Cluster.spadWr_wf _ _ _ h | with_reducible exact Cluster.zeroSeg_wf _ _ h | with_reducible exact Cluster.zeroSegs_wf _ _ h | simp only [Cluster.setCore_spad, Cluster.setUnit_spad, Cluster.spadPoisonSet_spad, Cluster.taintHeads_spad] | split | dsimp only | exact h | exact Cluster.zeroSegs_wf _ _ h))))
    | ((with_reducible apply Keeps.after (State.reset_keeps )); case hv => decide))
theorem tileEnd_keeps (c k : Nat) (s : State) : Keeps 221440 s (tileEnd c k s) := by
  unfold tileEnd
  repeat' (first
    | with_reducible exact Keeps.refl _ _
    | ((with_reducible apply Keeps.after (State.killJob_keeps _ _ _ _)); case hv => decide)
    | ((with_reducible apply Keeps.after (State.countRepeat_keeps _ _)); case hv => decide)
    | ((with_reducible apply Keeps.after (State.readFault_keeps _ _ _ _ _ _)); case hv => decide)
    | ((with_reducible apply Keeps.after (State.modJob_keeps _ _ _ _ _)); case hv => decide)
    | ((with_reducible apply Keeps.after (State.touchTen_keeps _ _ _)); case hv => decide)
    | ((with_reducible apply Keeps.after_modCl); (case hv => decide); (case h => (intro h; repeat' (first | with_reducible exact h | with_reducible rfl | with_reducible exact mwf_wrBytes _ _ _ h | with_reducible exact Cluster.spadWr_wf _ _ _ h | with_reducible exact Cluster.zeroSeg_wf _ _ h | with_reducible exact Cluster.zeroSegs_wf _ _ h | simp only [Cluster.setCore_spad, Cluster.setUnit_spad, Cluster.spadPoisonSet_spad, Cluster.taintHeads_spad] | split | dsimp only | exact h | exact Cluster.zeroSegs_wf _ _ h))))
    | split
    | dsimp only)
theorem bankDrain_keeps (c k b : Nat) (s : State) : Keeps 16384 s (bankDrain c k b s) := by
  unfold bankDrain
  repeat' (first
    | with_reducible exact Keeps.refl _ _
    | with_reducible apply Keeps.ite
    | ((with_reducible apply Keeps.after (emptyBuf_keeps _ _ _)); case hv => decide)
    | ((with_reducible apply Keeps.after_modCl); (case hv => decide); (case h => (intro h; repeat' (first | with_reducible exact h | with_reducible rfl | with_reducible exact mwf_wrBytes _ _ _ h | with_reducible exact Cluster.spadWr_wf _ _ _ h | with_reducible exact Cluster.zeroSeg_wf _ _ h | with_reducible exact Cluster.zeroSegs_wf _ _ h | simp only [Cluster.setCore_spad, Cluster.setUnit_spad, Cluster.spadPoisonSet_spad, Cluster.taintHeads_spad] | split | dsimp only | exact h | exact Cluster.zeroSegs_wf _ _ h)))))
theorem bankDrainEnd_keeps (c k b : Nat) (s : State) : Keeps 16384 s (bankDrainEnd c k b s) := by
  unfold bankDrainEnd
  repeat' (first
    | with_reducible exact Keeps.refl _ _
    | with_reducible apply Keeps.ite
    | ((with_reducible apply Keeps.after_modCl); (case hv => decide); (case h => (intro h; repeat' (first | with_reducible exact h | with_reducible rfl | with_reducible exact mwf_wrBytes _ _ _ h | with_reducible exact Cluster.spadWr_wf _ _ _ h | with_reducible exact Cluster.zeroSeg_wf _ _ h | with_reducible exact Cluster.zeroSegs_wf _ _ h | simp only [Cluster.setCore_spad, Cluster.setUnit_spad, Cluster.spadPoisonSet_spad, Cluster.taintHeads_spad] | split | dsimp only | exact h | exact Cluster.zeroSegs_wf _ _ h))))
    | ((with_reducible apply Keeps.after (State.reset_keeps )); case hv => decide))

/-! ### Machine/DataMove.lean -/

theorem State.fetch_keeps (s : State) (c u : Nat) (j : Job) (vc : Nat) (t : Ten) (rs : List (Nat × Nat)) : Keeps 223232 s (State.fetch s c u j vc t rs) := by
  unfold State.fetch
  repeat' (first
    | with_reducible exact Keeps.refl _ _
    | ((with_reducible apply Keeps.after (State.request_keeps _ _ _ _ _ _)); case hv => decide)
    | with_reducible refine Keeps.trans ?_ (Keeps.foldl (fun s x => ?_) _ _))
theorem atomIssue_keeps (a : Agent) (w : Word) (s : State) : Keeps 245760 s (atomIssue a w s) := by
  unfold atomIssue
  repeat' (first
    | with_reducible exact Keeps.refl _ _
    | exact Keeps.refl _ _
    | unfold atomForm
    | ((with_reducible apply Keeps.after_formIssue); (case hv => decide))
    | intro _)
theorem dmovIssue_keeps (a : Agent) (w : Word) (s : State) : Keeps 245760 s (dmovIssue a w s) := by
  unfold dmovIssue
  repeat' (first
    | with_reducible exact Keeps.refl _ _
    | exact Keeps.refl _ _
    | unfold dmovForm
    | ((with_reducible apply Keeps.after_formIssue); (case hv => decide))
    | intro _)
theorem gathIssue_keeps (a : Agent) (w : Word) (s : State) : Keeps 245760 s (gathIssue a w s) := by
  unfold gathIssue
  repeat' (first
    | with_reducible exact Keeps.refl _ _
    | exact Keeps.refl _ _
    | unfold gathForm
    | ((with_reducible apply Keeps.after_formIssue); (case hv => decide))
    | intro _)
theorem State.atomElt_keeps (s : State) (p op ty : Nat) (at_ : List (Nat × Nat)) (v : Nat) (pois : Bool) : Keeps 140560 s (State.atomElt s p op ty at_ v pois) := by
  unfold State.atomElt
  repeat' (first
    | with_reducible exact Keeps.refl _ _
    | with_reducible apply Keeps.ite
    | ((with_reducible apply Keeps.after (State.partPoisonSet_keeps _ _ _)); case hv => decide)
    | ((with_reducible apply Keeps.after (State.partWr_keeps _ _ _ _)); case hv => decide)
    | ((with_reducible apply Keeps.after (State.partTouch_keeps _ _ _ _)); case hv => decide)
    | with_reducible refine Keeps.trans ?_ (Keeps.foldl (fun s x => ?_) _ _)
    | with_reducible refine Keeps.trans ?_ (Keeps.foldlPair (fun s x => ?_) _ _))
theorem atomStep_keeps (c : Nat) (j : Job) (s : State) : Keeps 224528 s (atomStep c j s) := by
  unfold atomStep
  repeat' (first
    | with_reducible exact Keeps.refl _ _
    | with_reducible apply Keeps.ite
    | ((with_reducible apply Keeps.after (State.atomElt_keeps _ _ _ _ _ _ _)); case hv => decide)
    | ((with_reducible apply Keeps.after (State.jobPoison_keeps _ _ _ _ _)); case hv => decide)
    | ((with_reducible apply Keeps.after (State.finish_keeps _ _ _ _ _)); case hv => decide)
    | ((with_reducible apply Keeps.after (State.request_keeps _ _ _ _ _ _)); case hv => decide)
    | ((with_reducible apply Keeps.after (State.jobFault_keeps _ _ _ _ _)); case hv => decide)
    | ((with_reducible apply Keeps.after (State.modJob_keeps _ _ _ _ _)); case hv => decide)
    | ((with_reducible apply Keeps.after (State.groupOffLog_keeps _ _ _ _)); case hv => decide)
    | ((with_reducible apply Keeps.after (State.touchTen_keeps _ _ _)); case hv => decide)
    | ((with_reducible apply Keeps.after (State.bump_keeps _ _)); case hv => decide)
    | with_reducible refine Keeps.trans ?_ (Keeps.foldl (fun s x => ?_) _ _)
    | with_reducible refine Keeps.trans ?_ (Keeps.foldlPair (fun s x => ?_) _ _)
    | split)
theorem State.dmovPoison_keeps (s : State) (c : Nat) (j : Job) (a : Ten) (units : Bool) : Keeps 213248 s (State.dmovPoison s c j a units) := by
  unfold State.dmovPoison
  repeat' (first
    | with_reducible exact Keeps.refl _ _
    | with_reducible apply Keeps.ite
    | ((with_reducible apply Keeps.after (State.jobPoison_keeps _ _ _ _ _)); case hv => decide)
    | ((with_reducible apply Keeps.after (State.poisonRec_keeps _ _ _ _ _ _ _)); case hv => decide)
    | ((with_reducible apply Keeps.after (State.jobFault_keeps _ _ _ _ _)); case hv => decide)
    | split)
theorem State.reachRead_keeps (s : State) (c : Nat) (t : Ten) (rs : List (Nat × Nat)) : Keeps 156944 s (State.reachRead s c t rs).1 := by
  unfold State.reachRead
  repeat' (first
    | with_reducible exact Keeps.refl _ _
    | ((with_reducible apply Keeps.after (State.partTouch_keeps _ _ _ _)); case hv => decide)
    | ((with_reducible apply Keeps.after (State.hostAsk_keeps _ _ _ _ _)); case hv => decide)
    | ((with_reducible apply Keeps.after (State.touchTen_keeps _ _ _)); case hv => decide)
    | ((with_reducible apply Keeps.after (State.spadTouch_keeps _ _ _ _)); case hv => decide)
    | with_reducible refine Keeps.trans ?_ (Keeps.foldl (fun s x => ?_) _ _)
    | split
    | dsimp only)
theorem State.sendWrites_keeps (s : State) (c u : Nat) (j : Job) (vc : Nat) (t : Ten) (pl0 : Plan) (ps : List Nat) : Keeps 223232 s (State.sendWrites s c u j vc t pl0 ps) := by
  unfold State.sendWrites
  repeat' (first
    | with_reducible exact Keeps.refl _ _
    | ((with_reducible apply Keeps.after (State.request_keeps _ _ _ _ _ _)); case hv => decide)
    | with_reducible refine Keeps.trans ?_ (Keeps.foldl (fun s x => ?_) _ _))
theorem State.tenWr_keeps (s : State) (c : Nat) (t : Ten) (pl0 : Plan) (ps : List Nat) : Keeps 156944 s (State.tenWr s c t pl0 ps).1 := by
  unfold State.tenWr
  repeat' (first
    | with_reducible exact Keeps.refl _ _
    | ((with_reducible apply Keeps.after (State.partPoisonSet_keeps _ _ _)); case hv => decide)
    | ((with_reducible apply Keeps.after (State.partWr_keeps _ _ _ _)); case hv => decide)
    | ((with_reducible apply Keeps.after (State.groupOffLog_keeps _ _ _ _)); case hv => decide)
    | ((with_reducible apply Keeps.after (State.hostWr_keeps _ _ _ _)); case hv => decide)
    | ((with_reducible apply Keeps.after (State.spadPlan_keeps _ _ _ _ _)); case hv => decide)
    | ((with_reducible apply Keeps.after_modCl); (case hv => decide); (case h => (intro h; repeat' (first | with_reducible exact h | with_reducible rfl | with_reducible exact mwf_wrBytes _ _ _ h | with_reducible exact Cluster.spadWr_wf _ _ _ h | with_reducible exact Cluster.zeroSeg_wf _ _ h | with_reducible exact Cluster.zeroSegs_wf _ _ h | simp only [Cluster.setCore_spad, Cluster.setUnit_spad, Cluster.spadPoisonSet_spad, Cluster.taintHeads_spad] | split | dsimp only | exact h | exact Cluster.zeroSegs_wf _ _ h))))
    | with_reducible refine Keeps.trans ?_ (Keeps.foldl (fun s x => ?_) _ _)
    | with_reducible refine Keeps.trans ?_ (Keeps.foldlPair (fun s x => ?_) _ _)
    | split)
theorem dmovStep_keeps (c : Nat) (j : Job) (s : State) : Keeps 224528 s (dmovStep c j s) := by
  unfold dmovStep
  repeat' (first
    | with_reducible exact Keeps.refl _ _
    | with_reducible apply Keeps.ite
    | ((with_reducible apply Keeps.after (State.tenWr_keeps _ _ _ _ _)); case hv => decide)
    | ((with_reducible apply Keeps.after (State.sendWrites_keeps _ _ _ _ _ _ _ _)); case hv => decide)
    | ((with_reducible apply Keeps.after (State.reachRead_keeps _ _ _ _)); case hv => decide)
    | ((with_reducible apply Keeps.after (State.dmovPoison_keeps _ _ _ _ _)); case hv => decide)
    | ((with_reducible apply Keeps.after (State.finish_keeps _ _ _ _ _)); case hv => decide)
    | ((with_reducible apply Keeps.after (State.fetch_keeps _ _ _ _ _ _ _)); case hv => decide)
    | ((with_reducible apply Keeps.after (State.jobFault_keeps _ _ _ _ _)); case hv => decide)
    | ((with_reducible apply Keeps.after (State.modJob_keeps _ _ _ _ _)); case hv => decide)
    | ((with_reducible apply Keeps.after (State.bump_keeps _ _)); case hv => decide)
    | split)
theorem State.gathSend_keeps (s : State) (c : Nat) (j : Job) (t d : Ten) (bags : List (List (Except (BitVec 16) Nat))) : Keeps 223232 s (State.gathSend s c j t d bags) := by
  unfold State.gathSend
  repeat' (first
    | with_reducible exact Keeps.refl _ _
    | with_reducible apply Keeps.ite
    | ((with_reducible apply Keeps.after (State.requestAll_keeps _ _ _ _ _ _ _ _)); case hv => decide)
    | with_reducible refine Keeps.trans ?_ (Keeps.foldl (fun s x => ?_) _ _))
theorem gathStep_keeps (c : Nat) (j : Job) (s : State) : Keeps 224528 s (gathStep c j s) := by
  unfold gathStep
  repeat' (first
    | with_reducible exact Keeps.refl _ _
    | with_reducible apply Keeps.ite
    | ((with_reducible apply Keeps.after (State.gathSend_keeps _ _ _ _ _ _)); case hv => decide)
    | ((with_reducible apply Keeps.after (State.tenWr_keeps _ _ _ _ _)); case hv => decide)
    | ((with_reducible apply Keeps.after (State.reachRead_keeps _ _ _ _)); case hv => decide)
    | ((with_reducible apply Keeps.after (State.jobPoison_keeps _ _ _ _ _)); case hv => decide)
    | ((with_reducible apply Keeps.after (State.finish_keeps _ _ _ _ _)); case hv => decide)
    | ((with_reducible apply Keeps.after (State.jobFault_keeps _ _ _ _ _)); case hv => decide)
    | ((with_reducible apply Keeps.after (State.modJob_keeps _ _ _ _ _)); case hv => decide)
    | ((with_reducible apply Keeps.after (State.touchTen_keeps _ _ _)); case hv => decide)
    | ((with_reducible apply Keeps.after (State.bump_keeps _ _)); case hv => decide)
    | split)
theorem dStep_keeps (c : Nat) (j : Job) (s : State) : Keeps 224528 s (dStep c j s) := by
  unfold dStep
  repeat' (first
    | with_reducible exact Keeps.refl _ _
    | ((with_reducible apply Keeps.after (gathStep_keeps _ _ _)); case hv => decide)
    | ((with_reducible apply Keeps.after (dmovStep_keeps _ _ _)); case hv => decide)
    | ((with_reducible apply Keeps.after (atomStep_keeps _ _ _)); case hv => decide)
    | split)

/-! ### Machine/Attention.lean -/

theorem State.kvLook_keeps (s : State) (p : Nat) (rs : List (Nat × Nat)) : Keeps 140560 s (State.kvLook s p rs).1 := by
  unfold State.kvLook
  try dsimp only
  repeat' (first
    | with_reducible exact Keeps.refl _ _
    | assumption
    | with_reducible apply Keeps.ite
    | ((with_reducible apply Keeps.after (State.poisonRec_keeps _ _ _ _ _ _ _)); case hv => decide)
    | ((with_reducible apply Keeps.after (State.partTouch_keeps _ _ _ _)); case hv => decide)
    | with_reducible refine Keeps.trans ?_ (Keeps.foldl (fun s x => ?_) _ _)
    | with_reducible refine Keeps.trans ?_ (Keeps.foldlPair (fun s x => ?_) _ _)
    | with_reducible apply Keeps.ite_fst
    | with_reducible apply Keeps.ite_snd
    | intro _
    | split
    | with_reducible apply Keeps.of_pair (by assumption)
    | with_reducible apply Keeps.of_pair2 (by assumption)
    | dsimp only)
theorem State.serveBatch_keeps (s : State) (c : Nat) (h : Word) : Keeps 65536 s (State.serveBatch s c h) := by
  unfold State.serveBatch
  repeat' (first
    | with_reducible exact Keeps.refl _ _
    | ((with_reducible apply Keeps.after (State.modTask_keeps _ _ _)); case hv => decide)
    | split)
theorem kvAct_keeps (c : Nat) (j : Job) (s : State) : Keeps 206096 s (kvAct c j s).1 := by
  unfold kvAct
  try dsimp only
  repeat' (first
    | with_reducible exact Keeps.refl _ _
    | assumption
    | with_reducible apply Keeps.ite
    | ((with_reducible apply Keeps.after (State.serveBatch_keeps _ _ _)); case hv => decide)
    | ((with_reducible apply Keeps.after (State.kvLook_keeps _ _ _)); case hv => decide)
    | with_reducible apply Keeps.ite_fst
    | with_reducible apply Keeps.ite_snd
    | intro _
    | split
    | with_reducible apply Keeps.of_pair (by assumption)
    | with_reducible apply Keeps.of_pair2 (by assumption)
    | dsimp only)
theorem attnIssue_keeps (a : Agent) (w : Word) (s : State) : Keeps 255248 s (attnIssue a w s) := by
  unfold attnIssue
  repeat' (first
    | with_reducible exact Keeps.refl _ _
    | exact Keeps.refl _ _
    | unfold attnForm
    | ((with_reducible apply Keeps.after (kvAct_keeps _ _ _)); case hv => decide)
    | ((with_reducible apply Keeps.after_formIssue); (case hv => decide))
    | intro _)
theorem kvappAct_keeps (c : Nat) (j : Job) (s : State) : Keeps 206096 s (kvappAct c j s).1 := by
  unfold kvappAct
  try dsimp only
  repeat' (first
    | with_reducible exact Keeps.refl _ _
    | assumption
    | with_reducible apply Keeps.ite
    | ((with_reducible apply Keeps.after (State.serveBatch_keeps _ _ _)); case hv => decide)
    | ((with_reducible apply Keeps.after (State.kvLook_keeps _ _ _)); case hv => decide)
    | ((with_reducible apply Keeps.after (State.modPt_keeps _ _ _)); case hv => decide)
    | with_reducible apply Keeps.ite_fst
    | with_reducible apply Keeps.ite_snd
    | intro _
    | split
    | with_reducible apply Keeps.of_pair (by assumption)
    | with_reducible apply Keeps.of_pair2 (by assumption)
    | dsimp only)
theorem kvappIssue_keeps (a : Agent) (w : Word) (s : State) : Keeps 255248 s (kvappIssue a w s) := by
  unfold kvappIssue
  repeat' (first
    | with_reducible exact Keeps.refl _ _
    | exact Keeps.refl _ _
    | unfold kvappForm
    | ((with_reducible apply Keeps.after (kvappAct_keeps _ _ _)); case hv => decide)
    | ((with_reducible apply Keeps.after_formIssue); (case hv => decide))
    | intro _)
theorem kvstgIssue_keeps (a : Agent) (w : Word) (s : State) : Keeps 255248 s (kvstgIssue a w s) := by
  unfold kvstgIssue
  repeat' (first
    | with_reducible exact Keeps.refl _ _
    | exact Keeps.refl _ _
    | unfold kvstgForm
    | ((with_reducible apply Keeps.after (kvAct_keeps _ _ _)); case hv => decide)
    | ((with_reducible apply Keeps.after_formIssue); (case hv => decide))
    | intro _)
theorem attnStep_keeps (c : Nat) (j : Job) (s : State) : Keeps 222480 s (attnStep c j s) := by
  unfold attnStep
  try dsimp only
  repeat' (first
    | with_reducible exact Keeps.refl _ _
    | assumption
    | with_reducible apply Keeps.ite
    | ((with_reducible apply Keeps.after (State.kvLook_keeps _ _ _)); case hv => decide)
    | ((with_reducible apply Keeps.after (State.jobPoison_keeps _ _ _ _ _)); case hv => decide)
    | ((with_reducible apply Keeps.after (State.poisonRec_keeps _ _ _ _ _ _ _)); case hv => decide)
    | ((with_reducible apply Keeps.after (State.finish_keeps _ _ _ _ _)); case hv => decide)
    | ((with_reducible apply Keeps.after (State.jobFault_keeps _ _ _ _ _)); case hv => decide)
    | ((with_reducible apply Keeps.after (State.partTouch_keeps _ _ _ _)); case hv => decide)
    | ((with_reducible apply Keeps.after (State.touchTen_keeps _ _ _)); case hv => decide)
    | ((with_reducible apply Keeps.after (State.storeOut_keeps _ _ _ _ _ _)); case hv => decide)
    | ((with_reducible apply Keeps.after (State.bump_keeps _ _)); case hv => decide)
    | with_reducible refine Keeps.trans ?_ (Keeps.foldl (fun s x => ?_) _ _)
    | with_reducible refine Keeps.trans ?_ (Keeps.foldlPair (fun s x => ?_) _ _)
    | with_reducible apply Keeps.ite_fst
    | with_reducible apply Keeps.ite_snd
    | intro _
    | split
    | with_reducible apply Keeps.of_pair (by assumption)
    | with_reducible apply Keeps.of_pair2 (by assumption)
    | dsimp only)
theorem kvappStep_keeps (c : Nat) (j : Job) (s : State) : Keeps 222480 s (kvappStep c j s) := by
  unfold kvappStep
  try dsimp only
  repeat' (first
    | with_reducible exact Keeps.refl _ _
    | assumption
    | with_reducible apply Keeps.ite
    | ((with_reducible apply Keeps.after (State.kvLook_keeps _ _ _)); case hv => decide)
    | ((with_reducible apply Keeps.after (State.finish_keeps _ _ _ _ _)); case hv => decide)
    | ((with_reducible apply Keeps.after (State.jobFault_keeps _ _ _ _ _)); case hv => decide)
    | ((with_reducible apply Keeps.after (State.partPoisonSet_keeps _ _ _)); case hv => decide)
    | ((with_reducible apply Keeps.after (State.partWr_keeps _ _ _ _)); case hv => decide)
    | ((with_reducible apply Keeps.after (State.groupOffLog_keeps _ _ _ _)); case hv => decide)
    | ((with_reducible apply Keeps.after (State.modPt_keeps _ _ _)); case hv => decide)
    | ((with_reducible apply Keeps.after (State.touchTen_keeps _ _ _)); case hv => decide)
    | ((with_reducible apply Keeps.after (State.bump_keeps _ _)); case hv => decide)
    | with_reducible refine Keeps.trans ?_ (Keeps.foldl (fun s x => ?_) _ _)
    | with_reducible refine Keeps.trans ?_ (Keeps.foldlPair (fun s x => ?_) _ _)
    | with_reducible apply Keeps.ite_fst
    | with_reducible apply Keeps.ite_snd
    | intro _
    | split
    | with_reducible apply Keeps.of_pair (by assumption)
    | with_reducible apply Keeps.of_pair2 (by assumption)
    | dsimp only)
theorem kvstgStep_keeps (c : Nat) (j : Job) (s : State) : Keeps 222480 s (kvstgStep c j s) := by
  unfold kvstgStep
  try dsimp only
  repeat' (first
    | with_reducible exact Keeps.refl _ _
    | assumption
    | with_reducible apply Keeps.ite
    | ((with_reducible apply Keeps.after (State.kvLook_keeps _ _ _)); case hv => decide)
    | ((with_reducible apply Keeps.after (State.finish_keeps _ _ _ _ _)); case hv => decide)
    | ((with_reducible apply Keeps.after (State.jobFault_keeps _ _ _ _ _)); case hv => decide)
    | ((with_reducible apply Keeps.after (State.partTouch_keeps _ _ _ _)); case hv => decide)
    | ((with_reducible apply Keeps.after (State.spadWrite_keeps _ _ _ _ _)); case hv => decide)
    | ((with_reducible apply Keeps.after_modCl); (case hv => decide); (case h => (intro h; repeat' (first | with_reducible exact h | with_reducible rfl | with_reducible exact mwf_wrBytes _ _ _ h | with_reducible exact Cluster.spadWr_wf _ _ _ h | with_reducible exact Cluster.zeroSeg_wf _ _ h | with_reducible exact Cluster.zeroSegs_wf _ _ h | simp only [Cluster.setCore_spad, Cluster.setUnit_spad, Cluster.spadPoisonSet_spad, Cluster.taintHeads_spad] | split | dsimp only | exact h | exact Cluster.zeroSegs_wf _ _ h))))
    | with_reducible refine Keeps.trans ?_ (Keeps.foldl (fun s x => ?_) _ _)
    | with_reducible refine Keeps.trans ?_ (Keeps.foldlPair (fun s x => ?_) _ _)
    | with_reducible apply Keeps.ite_fst
    | with_reducible apply Keeps.ite_snd
    | intro _
    | split
    | with_reducible apply Keeps.of_pair (by assumption)
    | with_reducible apply Keeps.of_pair2 (by assumption)
    | dsimp only)
theorem aStep_keeps (c : Nat) (j : Job) (s : State) : Keeps 222480 s (aStep c j s) := by
  unfold aStep
  repeat' (first
    | with_reducible exact Keeps.refl _ _
    | ((with_reducible apply Keeps.after (kvstgStep_keeps _ _ _)); case hv => decide)
    | ((with_reducible apply Keeps.after (kvappStep_keeps _ _ _)); case hv => decide)
    | ((with_reducible apply Keeps.after (attnStep_keeps _ _ _)); case hv => decide)
    | split)

/-! ### Machine/Kv.lean -/

theorem State.batchSee_keeps (s : State) (p : Nat) (h : Word) : Keeps 223000 s (State.batchSee s p h).1 := by
  unfold State.batchSee
  try dsimp only
  repeat' (first
    | with_reducible exact Keeps.refl _ _
    | assumption
    | with_reducible apply Keeps.ite
    | ((with_reducible apply Keeps.after (State.structRd_keeps _ _ _ _)); case hv => decide)
    | with_reducible apply Keeps.ite_fst
    | with_reducible apply Keeps.ite_snd
    | intro _
    | split
    | with_reducible apply Keeps.of_pair (by assumption)
    | with_reducible apply Keeps.of_pair2 (by assumption)
    | dsimp only)
theorem State.modSeq_keeps (s : State) (p : Nat) (sid : BitVec 32) (f : KvSeq → KvSeq) : Keeps 8192 s (State.modSeq s p sid f) := by
  unfold State.modSeq
  repeat' (first
    | with_reducible exact Keeps.refl _ _
    | ((with_reducible apply Keeps.after (State.modPt_keeps _ _ _)); case hv => decide))
theorem State.writeStream_keeps (s : State) (p : Nat) (q : KvSeq) (layers lo hi : Nat) : Keeps 140560 s (State.writeStream s p q layers lo hi) := by
  unfold State.writeStream
  repeat' (first
    | with_reducible exact Keeps.refl _ _
    | ((with_reducible apply Keeps.after (State.structWr_keeps _ _ _ _)); case hv => decide)
    | with_reducible refine Keeps.trans ?_ (Keeps.foldl (fun s x => ?_) _ _)
    | split)
theorem State.growStream_keeps (s : State) (p : Nat) (q : KvSeq) (layers was : Nat) : Keeps 140560 s (State.growStream s p q layers was) := by
  unfold State.growStream
  repeat' (first
    | with_reducible exact Keeps.refl _ _
    | with_reducible apply Keeps.ite
    | ((with_reducible apply Keeps.after (State.writeStream_keeps _ _ _ _ _ _)); case hv => decide)
    | ((with_reducible apply Keeps.after (State.modSeq_keeps _ _ _ _)); case hv => decide)
    | ((with_reducible apply Keeps.after (State.trace_keeps _ _ _)); case hv => decide))
theorem State.freePages_keeps (s : State) (p : Nat) (ps : List Nat) : Keeps 8192 s (State.freePages s p ps) := by
  unfold State.freePages
  repeat' (first
    | with_reducible exact Keeps.refl _ _
    | ((with_reducible apply Keeps.after (State.modPt_keeps _ _ _)); case hv => decide))
theorem State.freeGroup_keeps (s : State) (p g : Nat) : Keeps 8192 s (State.freeGroup s p g) := by
  unfold State.freeGroup
  repeat' (first
    | with_reducible exact Keeps.refl _ _
    | ((with_reducible apply Keeps.after (State.freePages_keeps _ _ _)); case hv => decide)
    | ((with_reducible apply Keeps.after (State.modPt_keeps _ _ _)); case hv => decide))
theorem State.putNode_keeps (s : State) (p : Nat) (n : KvNode) : Keeps 8192 s (State.putNode s p n) := by
  unfold State.putNode
  try dsimp only
  repeat' (first
    | with_reducible exact Keeps.refl _ _
    | assumption
    | with_reducible apply Keeps.ite
    | ((with_reducible apply Keeps.after (State.freeGroup_keeps _ _ _)); case hv => decide)
    | ((with_reducible apply Keeps.after (State.setPt_keeps _ _ _)); case hv => decide)
    | with_reducible apply Keeps.ite_fst
    | with_reducible apply Keeps.ite_snd
    | intro _
    | split
    | with_reducible apply Keeps.of_pair (by assumption)
    | with_reducible apply Keeps.of_pair2 (by assumption)
    | dsimp only)
theorem State.promptNodes_keeps (s : State) (p : Nat) (q : KvSeq) (pp was : Nat) : Keeps 8192 s (State.promptNodes s p q pp was) := by
  unfold State.promptNodes
  try dsimp only
  repeat' (first
    | with_reducible exact Keeps.refl _ _
    | assumption
    | with_reducible apply Keeps.ite
    | ((with_reducible apply Keeps.after (State.putNode_keeps _ _ _)); case hv => decide)
    | with_reducible refine Keeps.trans ?_ (Keeps.foldl (fun s x => ?_) _ _)
    | with_reducible refine Keeps.trans ?_ (Keeps.foldlPair (fun s x => ?_) _ _)
    | with_reducible apply Keeps.ite_fst
    | with_reducible apply Keeps.ite_snd
    | intro _
    | split
    | with_reducible apply Keeps.of_pair (by assumption)
    | with_reducible apply Keeps.of_pair2 (by assumption)
    | dsimp only)
theorem State.advanceSeq_keeps (s : State) (p : Nat) (h : Word) (sid : BitVec 32) : Keeps 223000 s (State.advanceSeq s p h sid) := by
  unfold State.advanceSeq
  repeat' (first
    | with_reducible exact Keeps.refl _ _
    | ((with_reducible apply Keeps.after (State.promptNodes_keeps _ _ _ _ _)); case hv => decide)
    | ((with_reducible apply Keeps.after (State.growStream_keeps _ _ _ _ _)); case hv => decide)
    | ((with_reducible apply Keeps.after (State.modSeq_keeps _ _ _ _)); case hv => decide)
    | ((with_reducible apply Keeps.after (State.batchSee_keeps _ _ _)); case hv => decide)
    | split)
theorem State.pageGet_keeps (s : State) (p pg : Nat) (l : KvLay) : Keeps 140560 s (State.pageGet s p pg l).1 := by
  unfold State.pageGet
  repeat' (first
    | with_reducible exact Keeps.refl _ _
    | ((with_reducible apply Keeps.after (State.partTouch_keeps _ _ _ _)); case hv => decide)
    | with_reducible refine Keeps.trans ?_ (Keeps.foldl (fun s x => ?_) _ _)
    | split
    | dsimp only)
theorem State.pagePut_keeps (s : State) (p pg : Nat) (parts : List (Nat × List Byte)) (ps : List Nat) : Keeps 140560 s (State.pagePut s p pg parts ps) := by
  unfold State.pagePut
  repeat' (first
    | with_reducible exact Keeps.refl _ _
    | with_reducible apply Keeps.ite
    | ((with_reducible apply Keeps.after (State.partPoisonSet_keeps _ _ _)); case hv => decide)
    | ((with_reducible apply Keeps.after (State.structWr_keeps _ _ _ _)); case hv => decide)
    | with_reducible refine Keeps.trans ?_ (Keeps.foldl (fun s x => ?_) _ _))
theorem State.copyPage_keeps (s : State) (p : Nat) (l : KvLay) (isSealed : Bool) (src dst : Nat) : Keeps 140560 s (State.copyPage s p l isSealed src dst) := by
  unfold State.copyPage
  repeat' (first
    | with_reducible exact Keeps.refl _ _
    | with_reducible apply Keeps.ite
    | ((with_reducible apply Keeps.after (State.pagePut_keeps _ _ _ _ _)); case hv => decide)
    | ((with_reducible apply Keeps.after (State.pageGet_keeps _ _ _ _)); case hv => decide))
theorem State.writeList_keeps (s : State) (p g : Nat) : Keeps 140560 s (State.writeList s p g) := by
  unfold State.writeList
  repeat' (first
    | with_reducible exact Keeps.refl _ _
    | ((with_reducible apply Keeps.after (State.structWr_keeps _ _ _ _)); case hv => decide))
theorem State.syncBatch_keeps (s : State) (p : Nat) (h : Word) : Keeps 140560 s (State.syncBatch s p h) := by
  unfold State.syncBatch
  repeat' (first
    | with_reducible exact Keeps.refl _ _
    | ((with_reducible apply Keeps.after (State.writeList_keeps _ _ _)); case hv => decide)
    | ((with_reducible apply Keeps.after (State.structWr_keeps _ _ _ _)); case hv => decide)
    | with_reducible refine Keeps.trans ?_ (Keeps.foldl (fun s x => ?_) _ _)
    | split
    | dsimp only)
theorem State.leaveBatch_keeps (s : State) (p : Nat) (sid : BitVec 32) : Keeps 140560 s (State.leaveBatch s p sid) := by
  unfold State.leaveBatch
  repeat' (first
    | with_reducible exact Keeps.refl _ _
    | ((with_reducible apply Keeps.after (State.syncBatch_keeps _ _ _)); case hv => decide)
    | ((with_reducible apply Keeps.after (State.modSeq_keeps _ _ _ _)); case hv => decide)
    | split)
theorem State.unref_keeps (s : State) (p g : Nat) : Keeps 8192 s (State.unref s p g) := by
  unfold State.unref
  repeat' (first
    | with_reducible exact Keeps.refl _ _
    | with_reducible apply Keeps.ite
    | ((with_reducible apply Keeps.after (State.freeGroup_keeps _ _ _)); case hv => decide)
    | ((with_reducible apply Keeps.after (State.modPt_keeps _ _ _)); case hv => decide))
theorem State.endSeq_keeps (s : State) (p : Nat) (sid : BitVec 32) : Keeps 140560 s (State.endSeq s p sid) := by
  unfold State.endSeq
  repeat' (first
    | with_reducible exact Keeps.refl _ _
    | ((with_reducible apply Keeps.after (State.unref_keeps _ _ _)); case hv => decide)
    | ((with_reducible apply Keeps.after (State.syncBatch_keeps _ _ _)); case hv => decide)
    | ((with_reducible apply Keeps.after (State.freePages_keeps _ _ _)); case hv => decide)
    | ((with_reducible apply Keeps.after (State.modPt_keeps _ _ _)); case hv => decide)
    | with_reducible refine Keeps.trans ?_ (Keeps.foldl (fun s x => ?_) _ _)
    | split)
theorem State.syncTree_keeps (s : State) (p : Nat) : Keeps 1280 s (State.syncTree s p) := by
  unfold State.syncTree
  repeat' (first
    | with_reducible exact Keeps.refl _ _
    | ((with_reducible apply Keeps.after (State.narrowWr_keeps _ _ _)); case hv => decide)
    | with_reducible refine Keeps.trans ?_ (Keeps.foldl (fun s x => ?_) _ _)
    | split)
theorem State.evictSeq_keeps (s : State) (p : Nat) (sid : BitVec 32) : Keeps 141072 s (State.evictSeq s p sid) := by
  unfold State.evictSeq
  repeat' (first
    | with_reducible exact Keeps.refl _ _
    | ((with_reducible apply Keeps.after (State.syncTree_keeps _ _)); case hv => decide)
    | ((with_reducible apply Keeps.after (State.endSeq_keeps _ _ _)); case hv => decide)
    | ((with_reducible apply Keeps.after (State.event_keeps _ _ _ _ _)); case hv => decide)
    | ((with_reducible apply Keeps.after (State.modPt_keeps _ _ _)); case hv => decide)
    | ((with_reducible apply Keeps.after (State.trace_keeps _ _ _)); case hv => decide))
theorem State.preempt_keeps (s : State) (p : Nat) (sid : BitVec 32) : Keeps 141072 s (State.preempt s p sid) := by
  unfold State.preempt
  repeat' (first
    | with_reducible exact Keeps.refl _ _
    | with_reducible apply Keeps.ite
    | ((with_reducible apply Keeps.after (State.evictSeq_keeps _ _ _)); case hv => decide)
    | ((with_reducible apply Keeps.after (State.syncTree_keeps _ _)); case hv => decide)
    | ((with_reducible apply Keeps.after (State.unref_keeps _ _ _)); case hv => decide)
    | ((with_reducible apply Keeps.after (State.syncBatch_keeps _ _ _)); case hv => decide)
    | ((with_reducible apply Keeps.after (State.pageGet_keeps _ _ _ _)); case hv => decide)
    | ((with_reducible apply Keeps.after (State.modSeq_keeps _ _ _ _)); case hv => decide)
    | ((with_reducible apply Keeps.after (State.hostWr_keeps _ _ _ _)); case hv => decide)
    | ((with_reducible apply Keeps.after (State.modPt_keeps _ _ _)); case hv => decide)
    | ((with_reducible apply Keeps.after (State.trace_keeps _ _ _)); case hv => decide)
    | with_reducible refine Keeps.trans ?_ (Keeps.foldl (fun s x => ?_) _ _)
    | with_reducible refine Keeps.trans ?_ (Keeps.foldlPair (fun s x => ?_) _ _)
    | split)
theorem reclaim_keeps (p goal : Nat) (fuel : Nat) (s : State) : Keeps 8192 s (reclaim p goal fuel s) := by
  induction fuel generalizing s with
  | zero => exact Keeps.refl _ _
  | succ k ih =>
    unfold reclaim
    try dsimp only
    repeat' (first
      | with_reducible exact Keeps.refl _ _
      | ((with_reducible apply Keeps.after (State.freeGroup_keeps _ _ _)); case hv => decide)
      | ((with_reducible apply Keeps.after (State.modPt_keeps _ _ _)); case hv => decide)
      | ((with_reducible apply Keeps.after (ih _)); (case hv => decide))
      | split)
theorem State.reclaimTo_keeps (s : State) (p goal : Nat) : Keeps 9472 s (State.reclaimTo s p goal) := by
  unfold State.reclaimTo
  repeat' (first
    | with_reducible exact Keeps.refl _ _
    | ((with_reducible apply Keeps.after (reclaim_keeps _ _ _ _)); case hv => decide)
    | ((with_reducible apply Keeps.after (State.syncTree_keeps _ _)); case hv => decide))
theorem State.setAlloc_keeps (s : State) (p : Nat) (Q : Part) : Keeps 9472 s (State.setAlloc s p Q) := by
  unfold State.setAlloc
  try dsimp only
  repeat' (first
    | with_reducible exact Keeps.refl _ _
    | assumption
    | with_reducible apply Keeps.ite
    | ((with_reducible apply Keeps.after (State.syncTree_keeps _ _)); case hv => decide)
    | ((with_reducible apply Keeps.after (State.setPt_keeps _ _ _)); case hv => decide)
    | with_reducible apply Keeps.ite_fst
    | with_reducible apply Keeps.ite_snd
    | intro _
    | split
    | with_reducible apply Keeps.of_pair (by assumption)
    | with_reducible apply Keeps.of_pair2 (by assumption)
    | dsimp only)
theorem State.copyShared_keeps (s : State) (p : Nat) (sid : BitVec 32) : Keeps 223000 s (State.copyShared s p sid) := by
  unfold State.copyShared
  repeat' (first
    | with_reducible exact Keeps.refl _ _
    | ((with_reducible apply Keeps.after (State.setAlloc_keeps _ _ _)); case hv => decide)
    | ((with_reducible apply Keeps.after (State.reclaimTo_keeps _ _ _)); case hv => decide)
    | ((with_reducible apply Keeps.after (State.preempt_keeps _ _ _)); case hv => decide)
    | ((with_reducible apply Keeps.after (State.unref_keeps _ _ _)); case hv => decide)
    | ((with_reducible apply Keeps.after (State.leaveBatch_keeps _ _ _)); case hv => decide)
    | ((with_reducible apply Keeps.after (State.copyPage_keeps _ _ _ _ _ _)); case hv => decide)
    | ((with_reducible apply Keeps.after (State.writeStream_keeps _ _ _ _ _ _)); case hv => decide)
    | ((with_reducible apply Keeps.after (State.modSeq_keeps _ _ _ _)); case hv => decide)
    | ((with_reducible apply Keeps.after (State.batchSee_keeps _ _ _)); case hv => decide)
    | ((with_reducible apply Keeps.after (State.modPt_keeps _ _ _)); case hv => decide)
    | ((with_reducible apply Keeps.after (State.trace_keeps _ _ _)); case hv => decide)
    | with_reducible refine Keeps.trans ?_ (Keeps.foldl (fun s x => ?_) _ _)
    | split
    | dsimp only)
theorem State.joinBatch_keeps (s : State) (p : Nat) (sid : BitVec 32) : Keeps 140560 s (State.joinBatch s p sid) := by
  unfold State.joinBatch
  repeat' (first
    | with_reducible exact Keeps.refl _ _
    | with_reducible apply Keeps.ite
    | ((with_reducible apply Keeps.after (State.syncBatch_keeps _ _ _)); case hv => decide)
    | ((with_reducible apply Keeps.after (State.modPt_keeps _ _ _)); case hv => decide)
    | split)
theorem State.refillSeq_keeps (s : State) (p : Nat) (sid : BitVec 32) : Keeps 223000 s (State.refillSeq s p sid) := by
  unfold State.refillSeq
  repeat' (first
    | with_reducible exact Keeps.refl _ _
    | with_reducible apply Keeps.ite
    | ((with_reducible apply Keeps.after (State.setAlloc_keeps _ _ _)); case hv => decide)
    | ((with_reducible apply Keeps.after (State.syncBatch_keeps _ _ _)); case hv => decide)
    | ((with_reducible apply Keeps.after (State.modSeq_keeps _ _ _ _)); case hv => decide)
    | ((with_reducible apply Keeps.after (State.batchSee_keeps _ _ _)); case hv => decide)
    | ((with_reducible apply Keeps.after (State.trace_keeps _ _ _)); case hv => decide)
    | split)
theorem State.sealRegion_keeps (s : State) (p : Nat) (l : KvLay) (enc : Option Nat) (base : Nat) : Keeps 156944 s (State.sealRegion s p l enc base) := by
  unfold State.sealRegion
  repeat' (first
    | with_reducible exact Keeps.refl _ _
    | with_reducible apply Keeps.ite
    | ((with_reducible apply Keeps.after (State.structWr_keeps _ _ _ _)); case hv => decide)
    | ((with_reducible apply Keeps.after (State.partTouch_keeps _ _ _ _)); case hv => decide)
    | ((with_reducible apply Keeps.after_modCl); (case hv => decide); (case h => (intro h; repeat' (first | with_reducible exact h | with_reducible rfl | with_reducible exact mwf_wrBytes _ _ _ h | with_reducible exact Cluster.spadWr_wf _ _ _ h | with_reducible exact Cluster.zeroSeg_wf _ _ h | with_reducible exact Cluster.zeroSegs_wf _ _ h | simp only [Cluster.setCore_spad, Cluster.setUnit_spad, Cluster.spadPoisonSet_spad, Cluster.taintHeads_spad] | split | dsimp only | exact h | exact Cluster.zeroSegs_wf _ _ h))))
    | with_reducible refine Keeps.trans ?_ (Keeps.foldl (fun s x => ?_) _ _)
    | split)
theorem State.sealPage_keeps (s : State) (p : Nat) (sid : BitVec 32) (layer gi : Nat) (enc : Option Nat) : Keeps 156944 s (State.sealPage s p sid layer gi enc) := by
  unfold State.sealPage
  repeat' (first
    | with_reducible exact Keeps.refl _ _
    | with_reducible apply Keeps.ite
    | ((with_reducible apply Keeps.after (State.sealRegion_keeps _ _ _ _ _)); case hv => decide)
    | ((with_reducible apply Keeps.after (State.structWr_keeps _ _ _ _)); case hv => decide)
    | ((with_reducible apply Keeps.after (State.modPt_keeps _ _ _)); case hv => decide)
    | split)
theorem State.kvBoundary_keeps (s : State) (p : Nat) (hs : List Word) : Keeps 223000 s (State.kvBoundary s p hs) := by
  unfold State.kvBoundary
  repeat' (first
    | with_reducible exact Keeps.refl _ _
    | ((with_reducible apply Keeps.after (State.sealPage_keeps _ _ _ _ _ _)); case hv => decide)
    | ((with_reducible apply Keeps.after (State.refillSeq_keeps _ _ _)); case hv => decide)
    | ((with_reducible apply Keeps.after (State.joinBatch_keeps _ _ _)); case hv => decide)
    | ((with_reducible apply Keeps.after (State.copyShared_keeps _ _ _)); case hv => decide)
    | ((with_reducible apply Keeps.after (State.preempt_keeps _ _ _)); case hv => decide)
    | ((with_reducible apply Keeps.after (State.syncTree_keeps _ _)); case hv => decide)
    | ((with_reducible apply Keeps.after (State.endSeq_keeps _ _ _)); case hv => decide)
    | ((with_reducible apply Keeps.after (State.syncBatch_keeps _ _ _)); case hv => decide)
    | ((with_reducible apply Keeps.after (State.completeWork_keeps _ _ _ _)); case hv => decide)
    | ((with_reducible apply Keeps.after (State.advanceSeq_keeps _ _ _ _)); case hv => decide)
    | ((with_reducible apply Keeps.after (State.modPt_keeps _ _ _)); case hv => decide)
    | with_reducible refine Keeps.trans ?_ (Keeps.foldl (fun s x => ?_) _ _)
    | split)
theorem State.kvUnserved_keeps (s : State) (p : Nat) : Keeps 223000 s (State.kvUnserved s p) := by
  unfold State.kvUnserved
  repeat' (first
    | with_reducible exact Keeps.refl _ _
    | with_reducible apply Keeps.ite
    | ((with_reducible apply Keeps.after (State.kvBoundary_keeps _ _ _)); case hv => decide))
theorem State.swapIn_keeps (s : State) (p : Nat) : Keeps 9472 s (State.swapIn s p) := by
  unfold State.swapIn
  repeat' (first
    | with_reducible exact Keeps.refl _ _
    | ((with_reducible apply Keeps.after (State.setAlloc_keeps _ _ _)); case hv => decide)
    | ((with_reducible apply Keeps.after (State.modSeq_keeps _ _ _ _)); case hv => decide)
    | split
    | dsimp only)
theorem State.pressure_keeps (s : State) (p : Nat) : Keeps 141072 s (State.pressure s p) := by
  unfold State.pressure
  repeat' (first
    | with_reducible exact Keeps.refl _ _
    | with_reducible apply Keeps.ite
    | ((with_reducible apply Keeps.after (State.swapIn_keeps _ _)); case hv => decide)
    | ((with_reducible apply Keeps.after (State.reclaimTo_keeps _ _ _)); case hv => decide)
    | ((with_reducible apply Keeps.after (State.preempt_keeps _ _ _)); case hv => decide)
    | ((with_reducible apply Keeps.after (State.modPt_keeps _ _ _)); case hv => decide)
    | with_reducible refine Keeps.trans ?_ (Keeps.foldl (fun s x => ?_) _ _)
    | split)
theorem State.refill_keeps (s : State) (p : Nat) : Keeps 223000 s (State.refill s p) := by
  unfold State.refill
  repeat' (first
    | with_reducible exact Keeps.refl _ _
    | ((with_reducible apply Keeps.after (State.refillSeq_keeps _ _ _)); case hv => decide)
    | with_reducible refine Keeps.trans ?_ (Keeps.foldl (fun s x => ?_) _ _))
theorem State.buildStream_keeps (s : State) (p : Nat) (q : KvSeq) (layers : Nat) : Keeps 140560 s (State.buildStream s p q layers) := by
  unfold State.buildStream
  repeat' (first
    | with_reducible exact Keeps.refl _ _
    | ((with_reducible apply Keeps.after (State.writeStream_keeps _ _ _ _ _ _)); case hv => decide)
    | ((with_reducible apply Keeps.after (State.trace_keeps _ _ _)); case hv => decide))
theorem swapWriteDone_keeps (p : Nat) (sid : BitVec 32) (s : State) : Keeps 8192 s (swapWriteDone p sid s) := by
  unfold swapWriteDone
  repeat' (first
    | with_reducible exact Keeps.refl _ _
    | ((with_reducible apply Keeps.after (State.freePages_keeps _ _ _)); case hv => decide)
    | ((with_reducible apply Keeps.after (State.modSeq_keeps _ _ _ _)); case hv => decide)
    | split)
theorem swapReadDone_keeps (p : Nat) (sid : BitVec 32) (tagOk : Bool) (s0 : State) : Keeps 223000 s0 (swapReadDone p sid tagOk s0) := by
  unfold swapReadDone
  repeat' (first
    | with_reducible exact Keeps.refl _ _
    | with_reducible apply Keeps.ite
    | ((with_reducible apply Keeps.after (State.buildStream_keeps _ _ _ _)); case hv => decide)
    | ((with_reducible apply Keeps.after (State.joinBatch_keeps _ _ _)); case hv => decide)
    | ((with_reducible apply Keeps.after (State.copyShared_keeps _ _ _)); case hv => decide)
    | ((with_reducible apply Keeps.after (State.endSeq_keeps _ _ _)); case hv => decide)
    | ((with_reducible apply Keeps.after (State.pagePut_keeps _ _ _ _ _)); case hv => decide)
    | ((with_reducible apply Keeps.after (State.modSeq_keeps _ _ _ _)); case hv => decide)
    | ((with_reducible apply Keeps.after (State.batchSee_keeps _ _ _)); case hv => decide)
    | ((with_reducible apply Keeps.after (State.event_keeps _ _ _ _ _)); case hv => decide)
    | ((with_reducible apply Keeps.after (State.hostAsk_keeps _ _ _ _ _)); case hv => decide)
    | ((with_reducible apply Keeps.after (State.modPt_keeps _ _ _)); case hv => decide)
    | ((with_reducible apply Keeps.after (State.trace_keeps _ _ _)); case hv => decide)
    | with_reducible refine Keeps.trans ?_ (Keeps.foldl (fun s x => ?_) _ _)
    | split)
theorem State.admitSeq_keeps (s : State) (p : Nat) (sid : BitVec 32) (prio : Nat) (lay : BitVec 32) (l : KvLay) (h : Word) (toks : List (BitVec 32)) : Keeps 223000 s (State.admitSeq s p sid prio lay l h toks).1 := by
  unfold State.admitSeq
  repeat' (first
    | with_reducible exact Keeps.refl _ _
    | with_reducible apply Keeps.ite
    | ((with_reducible apply Keeps.after (State.buildStream_keeps _ _ _ _)); case hv => decide)
    | ((with_reducible apply Keeps.after (State.joinBatch_keeps _ _ _)); case hv => decide)
    | ((with_reducible apply Keeps.after (State.copyShared_keeps _ _ _)); case hv => decide)
    | ((with_reducible apply Keeps.after (State.syncTree_keeps _ _)); case hv => decide)
    | ((with_reducible apply Keeps.after (State.batchSee_keeps _ _ _)); case hv => decide)
    | ((with_reducible apply Keeps.after (State.setPt_keeps _ _ _)); case hv => decide)
    | ((with_reducible apply Keeps.after (State.trace_keeps _ _ _)); case hv => decide))

/-! ### Machine/Scalar.lean -/

theorem aluOp_keeps (f : Word → Word → Word) (a : Agent) (w : Word) (s : State) : Keeps 245760 s (aluOp f a w s) := by
  unfold aluOp
  repeat' (first
    | with_reducible exact Keeps.refl _ _
    | ((with_reducible apply Keeps.after (State.setS_keeps _ _ _ _)); case hv => decide)
    | ((with_reducible apply Keeps.after (State.advance_keeps _ _)); case hv => decide)
    | ((with_reducible apply Keeps.after_guarded); (case hv => decide))
    | intro _)
theorem cmpOp_keeps (a : Agent) (w : Word) (s : State) : Keeps 245760 s (cmpOp a w s) := by
  unfold cmpOp
  repeat' (first
    | with_reducible exact Keeps.refl _ _
    | ((with_reducible apply Keeps.after (State.setP_keeps _ _ _ _)); case hv => decide)
    | ((with_reducible apply Keeps.after (State.advance_keeps _ _)); case hv => decide)
    | ((with_reducible apply Keeps.after_guarded); (case hv => decide))
    | ((with_reducible apply Keeps.after (State.faultAt_keeps _ _ _ _)); case hv => decide)
    | intro _
    | split)
theorem selOp_keeps (a : Agent) (w : Word) (s : State) : Keeps 245760 s (selOp a w s) := by
  unfold selOp
  repeat' (first
    | with_reducible exact Keeps.refl _ _
    | ((with_reducible apply Keeps.after (State.setS_keeps _ _ _ _)); case hv => decide)
    | ((with_reducible apply Keeps.after (State.advance_keeps _ _)); case hv => decide)
    | ((with_reducible apply Keeps.after_guarded); (case hv => decide))
    | intro _)
theorem moviOp_keeps (a : Agent) (w : Word) (s : State) : Keeps 245760 s (moviOp a w s) := by
  unfold moviOp
  repeat' (first
    | with_reducible exact Keeps.refl _ _
    | ((with_reducible apply Keeps.after (State.setS_keeps _ _ _ _)); case hv => decide)
    | ((with_reducible apply Keeps.after (State.advance_keeps _ _)); case hv => decide)
    | ((with_reducible apply Keeps.after_guarded); (case hv => decide))
    | intro _)
theorem movhiOp_keeps (a : Agent) (w : Word) (s : State) : Keeps 245760 s (movhiOp a w s) := by
  unfold movhiOp
  repeat' (first
    | with_reducible exact Keeps.refl _ _
    | ((with_reducible apply Keeps.after (State.setS_keeps _ _ _ _)); case hv => decide)
    | ((with_reducible apply Keeps.after (State.advance_keeps _ _)); case hv => decide)
    | ((with_reducible apply Keeps.after_guarded); (case hv => decide))
    | intro _)
theorem scalarTouch_keeps (s : State) (a : Agent) (n : Nat) (l : ScalarLoc) : Keeps 156944 s (scalarTouch s a n l) := by
  cases l with
  | spad x => exact (State.spadTouch_keeps _ _ _ _).mono (by decide)
  | dram p pa => exact (State.partTouch_keeps _ _ _ _).mono (by decide)
  | sram x => exact Keeps.refl _ _
theorem scalarPoison_keeps {s t : State} {a : Agent} {n : Nat} {l : ScalarLoc} (h : scalarPoison s a n l = some t) : Keeps 256 s t := by
  unfold scalarPoison at h
  split at h
  · split at h
    · exact absurd h (by simp)
    · injection h with h; subst h; exact State.poisonRec_keeps _ _ _ _ _ _ _
  · split at h
    · exact absurd h (by simp)
    · injection h with h; subst h; exact State.poisonRec_keeps _ _ _ _ _ _ _
  · exact absurd h (by simp)
theorem scalarStore_keeps (s : State) (a : Agent) (bs : List Byte) (l : ScalarLoc) : Keeps 156944 s (scalarStore s a bs l) := by
  cases l with
  | spad x => exact (State.spadWrite_keeps _ _ _ _ _).mono (by decide)
  | dram p pa => exact (State.partWr_keeps _ _ _ _).mono (by decide)
  | sram x => exact (State.setMem_keeps s { s.mem with ctrlSram := wrBytes s.mem.ctrlSram x bs } fun h => ⟨h.1, h.2.1, mwf_wrBytes _ _ _ h.2.2⟩).mono (by decide)
theorem Keeps.after_scalarLoad {v : Nat} {s0 s : State} {a : Agent} {w : Word} {ill : Bool} {base : Word} {align n : Nat}
    {k : List Byte → State → State} (hv : 255248 &&& v = 255248) (hb : ∀ bs t, Keeps v t (k bs t)) (hk : Keeps v s0 s) :
    Keeps v s0 (scalarLoad a w ill base align n k s) := by
  have hf : 245760 &&& v = 245760 := Keeps.bits (by decide) hv
  have ht : 156944 &&& v = 156944 := Keeps.bits (by decide) hv
  have hp : 256 &&& v = 256 := Keeps.bits (by decide) hv
  have ha : 49152 &&& v = 49152 := Keeps.bits (by decide) hv
  have hu : 131072 &&& v = 131072 := Keeps.bits (by decide) hv
  unfold scalarLoad
  dsimp only
  refine Keeps.ite ((State.faultAt_keeps _ _ _ _).after hf hk) ?_
  split
  · exact (State.faultAt_keeps _ _ _ _).after hf hk
  · have h1 := (scalarTouch_keeps s a n ‹_›).after ht hk
    split
    · rename_i h
      exact (State.faultAt_keeps _ _ _ _).after hf ((scalarPoison_keeps h).after hp h1)
    · exact (State.advance_keeps _ _).after ha (Keeps.trans (Keeps.ite h1 ((State.bump_keeps _ _).after hu h1)) (hb _ _))
theorem State.storeOffLog_keeps (s : State) (a : Agent) (pa n : Nat) : Keeps 132352 s (State.storeOffLog s a pa n) := by
  unfold State.storeOffLog
  try dsimp only
  repeat' (first
    | with_reducible exact Keeps.refl _ _
    | assumption
    | with_reducible apply Keeps.ite
    | ((with_reducible apply Keeps.after (State.groupOffLog_keeps _ _ _ _)); case hv => decide)
    | with_reducible apply Keeps.ite_fst
    | with_reducible apply Keeps.ite_snd
    | intro _
    | split
    | with_reducible apply Keeps.of_pair (by assumption)
    | with_reducible apply Keeps.of_pair2 (by assumption)
    | dsimp only)
theorem scalarSave_keeps (a : Agent) (w : Word) (ill : Bool) (base : Word) (align : Nat) (bs : List Byte) (s : State) : Keeps 255248 s (scalarSave a w ill base align bs s) := by
  unfold scalarSave
  repeat' (first
    | with_reducible exact Keeps.refl _ _
    | ((with_reducible apply Keeps.after (State.storeOffLog_keeps _ _ _ _)); case hv => decide)
    | ((with_reducible apply Keeps.after (scalarStore_keeps _ _ _ _)); case hv => decide)
    | ((with_reducible apply Keeps.after (State.advance_keeps _ _)); case hv => decide)
    | ((with_reducible apply Keeps.after (State.faultAt_keeps _ _ _ _)); case hv => decide)
    | split)
theorem ldOp_keeps (a : Agent) (w : Word) (s : State) : Keeps 255248 s (ldOp a w s) := by
  unfold ldOp
  repeat' (first
    | with_reducible exact Keeps.refl _ _
    | ((with_reducible apply Keeps.after_scalarLoad); (case hv => decide))
    | ((with_reducible apply Keeps.after (State.setS_keeps _ _ _ _)); case hv => decide)
    | intro _)
theorem stOp_keeps (a : Agent) (w : Word) (s : State) : Keeps 255248 s (stOp a w s) := by
  unfold stOp
  repeat' (first
    | with_reducible exact Keeps.refl _ _
    | ((with_reducible apply Keeps.after (scalarSave_keeps _ _ _ _ _ _ _)); case hv => decide))
theorem mveOp_keeps (a : Agent) (w : Word) (s : State) : Keeps 245760 s (mveOp a w s) := by
  unfold mveOp
  repeat' (first
    | with_reducible exact Keeps.refl _ _
    | ((with_reducible apply Keeps.after (State.setS_keeps _ _ _ _)); case hv => decide)
    | ((with_reducible apply Keeps.after (State.advance_keeps _ _)); case hv => decide)
    | ((with_reducible apply Keeps.after_guarded); (case hv => decide))
    | intro _)
theorem rdstOp_keeps (a : Agent) (w : Word) (s : State) : Keeps 245760 s (rdstOp a w s) := by
  unfold rdstOp
  repeat' (first
    | with_reducible exact Keeps.refl _ _
    | ((with_reducible apply Keeps.after (State.setStatus_keeps _ _ _)); case hv => decide)
    | ((with_reducible apply Keeps.after (State.setS_keeps _ _ _ _)); case hv => decide)
    | ((with_reducible apply Keeps.after (State.advance_keeps _ _)); case hv => decide)
    | ((with_reducible apply Keeps.after_guarded); (case hv => decide))
    | intro _)
theorem rdtickOp_keeps (a : Agent) (w : Word) (s : State) : Keeps 245760 s (rdtickOp a w s) := by
  unfold rdtickOp
  repeat' (first
    | with_reducible exact Keeps.refl _ _
    | ((with_reducible apply Keeps.after (State.setS_keeps _ _ _ _)); case hv => decide)
    | ((with_reducible apply Keeps.after (State.advance_keeps _ _)); case hv => decide)
    | ((with_reducible apply Keeps.after_guarded); (case hv => decide))
    | intro _)
theorem dldOp_keeps (a : Agent) (w : Word) (s : State) : Keeps 255248 s (dldOp a w s) := by
  unfold dldOp
  repeat' (first
    | with_reducible exact Keeps.refl _ _
    | ((with_reducible apply Keeps.after_scalarLoad); (case hv => decide))
    | ((with_reducible apply Keeps.after (State.setD_keeps _ _ _ _)); case hv => decide)
    | intro _)
theorem dldmOp_keeps (a : Agent) (w : Word) (s : State) : Keeps 255248 s (dldmOp a w s) := by
  unfold dldmOp
  repeat' (first
    | with_reducible exact Keeps.refl _ _
    | ((with_reducible apply Keeps.after_scalarLoad); (case hv => decide))
    | ((with_reducible apply Keeps.after (State.setD_keeps _ _ _ _)); case hv => decide)
    | with_reducible refine Keeps.trans ?_ (Keeps.foldl (fun s x => ?_) _ _)
    | intro _)
theorem dstrOp_keeps (a : Agent) (w : Word) (s : State) : Keeps 255248 s (dstrOp a w s) := by
  unfold dstrOp
  repeat' (first
    | with_reducible exact Keeps.refl _ _
    | ((with_reducible apply Keeps.after (scalarSave_keeps _ _ _ _ _ _ _)); case hv => decide))
theorem descUpdate_keeps (f : Nat → Nat → Nat) (a : Agent) (w : Word) (s : State) : Keeps 245760 s (descUpdate f a w s) := by
  unfold descUpdate
  repeat' (first
    | with_reducible exact Keeps.refl _ _
    | ((with_reducible apply Keeps.after (State.setD_keeps _ _ _ _)); case hv => decide)
    | ((with_reducible apply Keeps.after (State.advance_keeps _ _)); case hv => decide)
    | ((with_reducible apply Keeps.after_guarded); (case hv => decide))
    | ((with_reducible apply Keeps.after (State.faultAt_keeps _ _ _ _)); case hv => decide)
    | intro _
    | split
    | dsimp only)
theorem dgetOp_keeps (a : Agent) (w : Word) (s : State) : Keeps 245760 s (dgetOp a w s) := by
  unfold dgetOp
  repeat' (first
    | with_reducible exact Keeps.refl _ _
    | ((with_reducible apply Keeps.after (State.setS_keeps _ _ _ _)); case hv => decide)
    | ((with_reducible apply Keeps.after (State.advance_keeps _ _)); case hv => decide)
    | ((with_reducible apply Keeps.after_guarded); (case hv => decide))
    | ((with_reducible apply Keeps.after (State.faultAt_keeps _ _ _ _)); case hv => decide)
    | intro _
    | split
    | dsimp only)

/-! ### Machine/Control.lean -/

theorem branchTo_keeps (s : State) (a : Agent) (w : Word) : Keeps 245760 s (branchTo s a w) := by
  unfold branchTo
  repeat' (first
    | with_reducible exact Keeps.refl _ _
    | with_reducible apply Keeps.ite
    | ((with_reducible apply Keeps.after (State.setPc_keeps _ _ _ _)); case hv => decide)
    | ((with_reducible apply Keeps.after (State.faultAt_keeps _ _ _ _)); case hv => decide))
theorem brOp_keeps (a : Agent) (w : Word) (s : State) : Keeps 245760 s (brOp a w s) := by
  unfold brOp
  repeat' (first
    | with_reducible exact Keeps.refl _ _
    | ((with_reducible apply Keeps.after_guarded); (case hv => decide))
    | ((with_reducible apply Keeps.after (branchTo_keeps _ _ _)); case hv => decide)
    | intro _)
theorem brCond_keeps (want : Bool) (a : Agent) (w : Word) (s : State) : Keeps 245760 s (brCond want a w s) := by
  unfold brCond
  repeat' (first
    | with_reducible exact Keeps.refl _ _
    | with_reducible apply Keeps.ite
    | ((with_reducible apply Keeps.after (State.advance_keeps _ _)); case hv => decide)
    | ((with_reducible apply Keeps.after_guarded); (case hv => decide))
    | ((with_reducible apply Keeps.after (branchTo_keeps _ _ _)); case hv => decide)
    | intro _)
theorem enterLoop_keeps (a : Agent) (w : Word) (body count : Nat) (s : State) : Keeps 245760 s (enterLoop a w body count s) := by
  unfold enterLoop
  repeat' (first
    | with_reducible exact Keeps.refl _ _
    | with_reducible apply Keeps.ite
    | ((with_reducible apply Keeps.after (State.setPc_keeps _ _ _ _)); case hv => decide)
    | ((with_reducible apply Keeps.after (State.faultAt_keeps _ _ _ _)); case hv => decide))
theorem loopOp_keeps (a : Agent) (w : Word) (s : State) : Keeps 245760 s (loopOp a w s) := by
  unfold loopOp
  repeat' (first
    | with_reducible exact Keeps.refl _ _
    | ((with_reducible apply Keeps.after (enterLoop_keeps _ _ _ _ _)); case hv => decide)
    | ((with_reducible apply Keeps.after_guarded); (case hv => decide))
    | intro _)
theorem loopiOp_keeps (a : Agent) (w : Word) (s : State) : Keeps 245760 s (loopiOp a w s) := by
  unfold loopiOp
  repeat' (first
    | with_reducible exact Keeps.refl _ _
    | ((with_reducible apply Keeps.after (enterLoop_keeps _ _ _ _ _)); case hv => decide)
    | ((with_reducible apply Keeps.after_guarded); (case hv => decide))
    | intro _)
theorem waiteOp_keeps (a : Agent) (w : Word) (s : State) : Keeps 245760 s (waiteOp a w s) := by
  unfold waiteOp
  repeat' (first
    | with_reducible exact Keeps.refl _ _
    | with_reducible apply Keeps.ite
    | ((with_reducible apply Keeps.after (State.stall_keeps _ _ _)); case hv => decide)
    | ((with_reducible apply Keeps.after (State.advance_keeps _ _)); case hv => decide)
    | ((with_reducible apply Keeps.after_guarded); (case hv => decide))
    | intro _)
theorem State.resume_keeps (s : State) (a : Agent) : Keeps 49152 s (State.resume s a) := by
  unfold State.resume
  repeat' (first
    | with_reducible exact Keeps.refl _ _
    | ((with_reducible apply Keeps.after (State.unstall_keeps _ _)); case hv => decide)
    | ((with_reducible apply Keeps.after (State.advance_keeps _ _)); case hv => decide))
theorem evsetOp_keeps (a : Agent) (w : Word) (s : State) : Keeps 245760 s (evsetOp a w s) := by
  unfold evsetOp
  repeat' (first
    | with_reducible exact Keeps.refl _ _
    | ((with_reducible apply Keeps.after (State.setE_keeps _ _ _ _)); case hv => decide)
    | ((with_reducible apply Keeps.after (State.advance_keeps _ _)); case hv => decide)
    | ((with_reducible apply Keeps.after_guarded); (case hv => decide))
    | intro _)
theorem endOp_keeps (a : Agent) (w : Word) (s : State) : Keeps 245760 s (endOp a w s) := by
  unfold endOp
  repeat' (first
    | with_reducible exact Keeps.refl _ _
    | ((with_reducible apply Keeps.after_guarded); (case hv => decide))
    | ((with_reducible apply Keeps.after (State.modCc_keeps _ _ _)); case hv => decide)
    | ((with_reducible apply Keeps.after_modCl); (case hv => decide); (case h => (intro h; repeat' (first | with_reducible exact h | with_reducible rfl | with_reducible exact mwf_wrBytes _ _ _ h | with_reducible exact Cluster.spadWr_wf _ _ _ h | with_reducible exact Cluster.zeroSeg_wf _ _ h | with_reducible exact Cluster.zeroSegs_wf _ _ h | simp only [Cluster.setCore_spad, Cluster.setUnit_spad, Cluster.spadPoisonSet_spad, Cluster.taintHeads_spad] | split | dsimp only | exact h | exact Cluster.zeroSegs_wf _ _ h))))
    | intro _
    | split)
theorem nopOp_keeps (a : Agent) (w : Word) (s : State) : Keeps 245760 s (nopOp a w s) := by
  unfold nopOp
  repeat' (first
    | with_reducible exact Keeps.refl _ _
    | ((with_reducible apply Keeps.after (State.advance_keeps _ _)); case hv => decide)
    | ((with_reducible apply Keeps.after_guarded); (case hv => decide))
    | intro _)
theorem fenceOp_keeps (a : Agent) (w : Word) (s : State) : Keeps 245760 s (fenceOp a w s) := by
  unfold fenceOp
  repeat' (first
    | with_reducible exact Keeps.refl _ _
    | with_reducible apply Keeps.ite
    | ((with_reducible apply Keeps.after (State.stall_keeps _ _ _)); case hv => decide)
    | ((with_reducible apply Keeps.after (State.advance_keeps _ _)); case hv => decide)
    | ((with_reducible apply Keeps.after_guarded); (case hv => decide))
    | intro _
    | split)
theorem barOp_keeps (a : Agent) (w : Word) (s : State) : Keeps 245760 s (barOp a w s) := by
  unfold barOp
  repeat' (first
    | with_reducible exact Keeps.refl _ _
    | ((with_reducible apply Keeps.after (State.stall_keeps _ _ _)); case hv => decide)
    | ((with_reducible apply Keeps.after_guarded); (case hv => decide))
    | intro _)
theorem resumeAll_keeps (s : State) (cs : List Nat) : Keeps 49152 s (resumeAll s cs) := by
  unfold resumeAll
  repeat' (first
    | with_reducible exact Keeps.refl _ _
    | ((with_reducible apply Keeps.after (State.resume_keeps _ _)); case hv => decide)
    | with_reducible refine Keeps.trans ?_ (Keeps.foldl (fun s x => ?_) _ _)
    | split)
theorem phaseOp_keeps (a : Agent) (w : Word) (s : State) : Keeps 245760 s (phaseOp a w s) := by
  unfold phaseOp
  repeat' (first
    | with_reducible exact Keeps.refl _ _
    | ((with_reducible apply Keeps.after (State.stall_keeps _ _ _)); case hv => decide)
    | ((with_reducible apply Keeps.after_guarded); (case hv => decide))
    | ((with_reducible apply Keeps.after (State.faultAt_keeps _ _ _ _)); case hv => decide)
    | intro _
    | split)
theorem waittOp_keeps (a : Agent) (w : Word) (s : State) : Keeps 245760 s (waittOp a w s) := by
  unfold waittOp
  repeat' (first
    | with_reducible exact Keeps.refl _ _
    | with_reducible apply Keeps.ite
    | ((with_reducible apply Keeps.after (State.setP_keeps _ _ _ _)); case hv => decide)
    | ((with_reducible apply Keeps.after (State.stall_keeps _ _ _)); case hv => decide)
    | ((with_reducible apply Keeps.after (State.advance_keeps _ _)); case hv => decide)
    | ((with_reducible apply Keeps.after_guarded); (case hv => decide))
    | intro _)

/-! ### Machine/Vector.lean -/

theorem State.readSrcs_keeps (s : State) (c u : Nat) (j : Job) (ts : List Ten) : Keeps 213248 s (State.readSrcs s c u j ts).1 := by
  unfold State.readSrcs
  repeat' (first
    | with_reducible exact Keeps.refl _ _
    | ((with_reducible apply Keeps.after (State.readFault_keeps _ _ _ _ _ _)); case hv => decide)
    | ((with_reducible apply Keeps.after (State.touchTen_keeps _ _ _)); case hv => decide)
    | with_reducible refine Keeps.trans ?_ (Keeps.foldl (fun s x => ?_) _ _))
theorem drawAct_keeps (field n : Nat) (c : Nat) (j : Job) (s : State) : Keeps 8192 s (drawAct field n c j s).1 := by
  unfold drawAct
  repeat' (first
    | with_reducible exact Keeps.refl _ _
    | ((with_reducible apply Keeps.after (State.drawStream_keeps _ _ _ _)); case hv => decide))
theorem vAct_keeps (c : Nat) (j : Job) (s : State) : Keeps 8192 s (vAct c j s).1 := by
  unfold vAct
  repeat' (first
    | with_reducible exact Keeps.refl _ _
    | ((with_reducible apply Keeps.after (drawAct_keeps _ _ _ _ _)); case hv => decide)
    | split)
theorem vargIssue_keeps (o : RedOp) (code : Nat) (a : Agent) (w : Word) (s : State) : Keeps 253952 s (vargIssue o code a w s) := by
  unfold vargIssue
  repeat' (first
    | with_reducible exact Keeps.refl _ _
    | exact Keeps.refl _ _
    | unfold vForm
    | unfold vargForm
    | ((with_reducible apply Keeps.after (vAct_keeps _ _ _)); case hv => decide)
    | ((with_reducible apply Keeps.after_formIssue); (case hv => decide))
    | intro _)
theorem vcvtIssue_keeps (code : Nat) (a : Agent) (w : Word) (s : State) : Keeps 253952 s (vcvtIssue code a w s) := by
  unfold vcvtIssue
  repeat' (first
    | with_reducible exact Keeps.refl _ _
    | exact Keeps.refl _ _
    | unfold vForm
    | unfold vcvtForm
    | ((with_reducible apply Keeps.after (vAct_keeps _ _ _)); case hv => decide)
    | ((with_reducible apply Keeps.after_formIssue); (case hv => decide))
    | intro _)
theorem vewIssue_keeps (o : VewOp) (code : Nat) (a : Agent) (w : Word) (s : State) : Keeps 253952 s (vewIssue o code a w s) := by
  unfold vewIssue
  repeat' (first
    | with_reducible exact Keeps.refl _ _
    | exact Keeps.refl _ _
    | unfold vForm
    | unfold vewForm
    | ((with_reducible apply Keeps.after (vAct_keeps _ _ _)); case hv => decide)
    | ((with_reducible apply Keeps.after_formIssue); (case hv => decide))
    | intro _)
theorem vredIssue_keeps (o : RedOp) (code : Nat) (a : Agent) (w : Word) (s : State) : Keeps 253952 s (vredIssue o code a w s) := by
  unfold vredIssue
  repeat' (first
    | with_reducible exact Keeps.refl _ _
    | exact Keeps.refl _ _
    | unfold vForm
    | unfold vredForm
    | ((with_reducible apply Keeps.after (vAct_keeps _ _ _)); case hv => decide)
    | ((with_reducible apply Keeps.after_formIssue); (case hv => decide))
    | intro _)
theorem State.vecCount_keeps (s : State) (c : Nat) (sts : List Stat) (inv : Bool) : Keeps 16384 s (State.vecCount s c sts inv) := by
  unfold State.vecCount
  repeat' (first
    | with_reducible exact Keeps.refl _ _
    | ((with_reducible apply Keeps.after_modCl); (case hv => decide); (case h => (intro h; repeat' (first | with_reducible exact h | with_reducible rfl | with_reducible exact mwf_wrBytes _ _ _ h | with_reducible exact Cluster.spadWr_wf _ _ _ h | with_reducible exact Cluster.zeroSeg_wf _ _ h | with_reducible exact Cluster.zeroSegs_wf _ _ h | simp only [Cluster.setCore_spad, Cluster.setUnit_spad, Cluster.spadPoisonSet_spad, Cluster.taintHeads_spad] | split | dsimp only | exact h | exact Cluster.zeroSegs_wf _ _ h)))))
theorem runCvt_keeps (c : Nat) (j : Job) (s : State) : Keeps 213248 s (runCvt c j s).1 := by
  unfold runCvt
  repeat' (first
    | with_reducible exact Keeps.refl _ _
    | ((with_reducible apply Keeps.after (State.vecCount_keeps _ _ _ _)); case hv => decide)
    | ((with_reducible apply Keeps.after (State.readSrcs_keeps _ _ _ _ _)); case hv => decide)
    | ((with_reducible apply Keeps.after (State.storeOut_keeps _ _ _ _ _ _)); case hv => decide)
    | ((with_reducible apply Keeps.after (State.bump_keeps _ _)); case hv => decide)
    | split
    | dsimp only)
theorem runRed_keeps (o : RedOp) (arg : Bool) (c : Nat) (j : Job) (s : State) : Keeps 213248 s (runRed o arg c j s).1 := by
  unfold runRed
  repeat' (first
    | with_reducible exact Keeps.refl _ _
    | with_reducible apply Keeps.ite
    | ((with_reducible apply Keeps.after (State.vecCount_keeps _ _ _ _)); case hv => decide)
    | ((with_reducible apply Keeps.after (State.readSrcs_keeps _ _ _ _ _)); case hv => decide)
    | ((with_reducible apply Keeps.after (State.storeOut_keeps _ _ _ _ _ _)); case hv => decide)
    | ((with_reducible apply Keeps.after (State.bump_keeps _ _)); case hv => decide))
theorem runVew_keeps (o : VewOp) (c : Nat) (j : Job) (s : State) : Keeps 213248 s (runVew o c j s).1 := by
  unfold runVew
  repeat' (first
    | with_reducible exact Keeps.refl _ _
    | ((with_reducible apply Keeps.after (State.vecCount_keeps _ _ _ _)); case hv => decide)
    | ((with_reducible apply Keeps.after (State.readSrcs_keeps _ _ _ _ _)); case hv => decide)
    | ((with_reducible apply Keeps.after (State.storeOut_keeps _ _ _ _ _ _)); case hv => decide)
    | ((with_reducible apply Keeps.after (State.bump_keeps _ _)); case hv => decide)
    | split)
theorem vComplete_keeps (c : Nat) (j : Job) (s : State) : Keeps 213248 s (vComplete c j s) := by
  unfold vComplete
  repeat' (first
    | with_reducible exact Keeps.refl _ _
    | ((with_reducible apply Keeps.after (runVew_keeps _ _ _ _)); case hv => decide)
    | ((with_reducible apply Keeps.after (runRed_keeps _ _ _ _ _)); case hv => decide)
    | ((with_reducible apply Keeps.after (runCvt_keeps _ _ _)); case hv => decide)
    | ((with_reducible apply Keeps.after (State.finish_keeps _ _ _ _ _)); case hv => decide)
    | split)

/-! ### Machine/Collective.lean -/

theorem State.abortSend_keeps (s : State) (k : Coll) (st : BitVec 16) : Keeps 2048 s (State.abortSend s k st) := by
  unfold State.abortSend
  repeat' (first
    | with_reducible exact Keeps.refl _ _
    | ((with_reducible apply Keeps.after (State.send_keeps _ _)); case hv => decide)
    | with_reducible refine Keeps.trans ?_ (Keeps.foldl (fun s x => ?_) _ _))
theorem State.collDrop_keeps (s : State) (p : Nat) (f : CollMsg → Bool) : Keeps 8192 s (State.collDrop s p f) := by
  unfold State.collDrop
  repeat' (first
    | with_reducible exact Keeps.refl _ _
    | ((with_reducible apply Keeps.after (State.modPt_keeps _ _ _)); case hv => decide))
theorem State.freeStops_keeps (s : State) : Keeps 2048 s (State.freeStops s) := by
  unfold State.freeStops
  repeat' (first
    | with_reducible exact Keeps.refl _ _
    | with_reducible apply Keeps.ite
    | ((with_reducible apply Keeps.after (State.pumpPort_keeps _ _ _ _)); case hv => decide)
    | ((with_reducible apply Keeps.after (State.modPo_keeps _ _ _)); case hv => decide)
    | with_reducible refine Keeps.trans ?_ (Keeps.foldl (fun s x => ?_) _ _))
theorem State.collTaskEnd_keeps (s : State) (cs : List Nat) (st : BitVec 16) : Keeps 10240 s (State.collTaskEnd s cs st) := by
  unfold State.collTaskEnd
  repeat' (first
    | with_reducible exact Keeps.refl _ _
    | with_reducible apply Keeps.ite
    | ((with_reducible apply Keeps.after (State.freeStops_keeps _)); case hv => decide)
    | ((with_reducible apply Keeps.after (State.collDrop_keeps _ _ _)); case hv => decide)
    | ((with_reducible apply Keeps.after (State.abortSend_keeps _ _ _)); case hv => decide)
    | ((with_reducible apply Keeps.after (State.modPt_keeps _ _ _)); case hv => decide)
    | with_reducible refine Keeps.trans ?_ (Keeps.foldl (fun s x => ?_) _ _))
theorem State.collUndef_keeps (s : State) (c : Nat) (j : Job) : Keeps 147712 s (State.collUndef s c j) := by
  unfold State.collUndef
  repeat' (first
    | with_reducible exact Keeps.refl _ _
    | ((with_reducible apply Keeps.after (State.storeOut_keeps _ _ _ _ _ _)); case hv => decide)
    | ((with_reducible apply Keeps.after (State.bump_keeps _ _)); case hv => decide))
theorem State.collFail_keeps (s : State) (c : Nat) (j : Job) (told : Bool) (st : BitVec 16) : Keeps 223488 s (State.collFail s c j told st) := by
  unfold State.collFail
  repeat' (first
    | with_reducible exact Keeps.refl _ _
    | with_reducible apply Keeps.ite
    | ((with_reducible apply Keeps.after (State.finish_keeps _ _ _ _ _)); case hv => decide)
    | ((with_reducible apply Keeps.after (State.collUndef_keeps _ _ _)); case hv => decide)
    | ((with_reducible apply Keeps.after (State.jobFault_keeps _ _ _ _ _)); case hv => decide)
    | ((with_reducible apply Keeps.after (State.freeStops_keeps _)); case hv => decide)
    | ((with_reducible apply Keeps.after (State.collDrop_keeps _ _ _)); case hv => decide)
    | ((with_reducible apply Keeps.after (State.abortSend_keeps _ _ _)); case hv => decide)
    | ((with_reducible apply Keeps.after (State.modPt_keeps _ _ _)); case hv => decide))
theorem State.collChipLost_keeps (s : State) (chip : Nat) : Keeps 223488 s (State.collChipLost s chip) := by
  unfold State.collChipLost
  repeat' (first
    | with_reducible exact Keeps.refl _ _
    | with_reducible apply Keeps.ite
    | ((with_reducible apply Keeps.after (State.collFail_keeps _ _ _ _ _)); case hv => decide)
    | with_reducible refine Keeps.trans ?_ (Keeps.foldl (fun s x => ?_) _ _))
theorem State.collTouch_keeps (s : State) (p : Fin 64) (handle : Nat) : Keeps 223000 s (State.collTouch s p handle).1 := by
  unfold State.collTouch
  try dsimp only
  repeat' (first
    | with_reducible exact Keeps.refl _ _
    | assumption
    | with_reducible apply Keeps.ite
    | ((with_reducible apply Keeps.after (State.structRd_keeps _ _ _ _)); case hv => decide)
    | with_reducible apply Keeps.ite_fst
    | with_reducible apply Keeps.ite_snd
    | intro _
    | split
    | with_reducible apply Keeps.of_pair (by assumption)
    | with_reducible apply Keeps.of_pair2 (by assumption)
    | dsimp only)
theorem State.collSend_keeps (s : State) (k : Coll) (kind seg n index : Nat) (g : WSeg) (ix : List Nat) (dst : Nat) : Keeps 2048 s (State.collSend s k kind seg n index g ix dst).1 := by
  unfold State.collSend
  repeat' (first
    | with_reducible exact Keeps.refl _ _
    | ((with_reducible apply Keeps.after (State.send_keeps _ _)); case hv => decide))
theorem Keeps.after_sendAll {v : Nat} {s0 s : State} {f : State → Nat → State × BitVec 16} {ds : List Nat}
    (hb : ∀ t d, Keeps v t (f t d).1) (hk : Keeps v s0 s) : Keeps v s0 (sendAll f s ds).1 := by
  unfold sendAll
  exact hk.trans (Keeps.foldlPair (f := fun acc d => ((f acc.1 d).1, if acc.2 = 0 then (f acc.1 d).2 else acc.2)) (fun a x => hb a.1 x) ds (s, 0))
theorem State.setupSend_keeps (s : State) (k : Coll) (dst : Nat) : Keeps 133120 s (State.setupSend s k dst).1 := by
  unfold State.setupSend
  repeat' (first
    | with_reducible exact Keeps.refl _ _
    | ((with_reducible apply Keeps.after (State.send_keeps _ _)); case hv => decide)
    | ((with_reducible apply Keeps.after (State.bump_keeps _ _)); case hv => decide))
theorem State.collDone_keeps (s : State) (c : Nat) (j0 : Job) : Keeps 155904 s (State.collDone s c j0) := by
  unfold State.collDone
  repeat' (first
    | with_reducible exact Keeps.refl _ _
    | with_reducible apply Keeps.ite
    | ((with_reducible apply Keeps.after (State.finish_keeps _ _ _ _ _)); case hv => decide)
    | ((with_reducible apply Keeps.after (State.modPt_keeps _ _ _)); case hv => decide)
    | ((with_reducible apply Keeps.after (State.storeOut_keeps _ _ _ _ _ _)); case hv => decide)
    | ((with_reducible apply Keeps.after (State.bump_keeps _ _)); case hv => decide))
theorem State.segMark_keeps (s : State) (c : Nat) (j : Job) (key bits : Nat) : Keeps 16384 s (State.segMark s c j key bits) := by
  unfold State.segMark
  repeat' (first
    | with_reducible exact Keeps.refl _ _
    | ((with_reducible apply Keeps.after (State.modJob_keeps _ _ _ _ _)); case hv => decide))
theorem State.segKeep_keeps (s : State) (c : Nat) (j : Job) (base : Nat) (es : List CElt) : Keeps 16384 s (State.segKeep s c j base es) := by
  unfold State.segKeep
  repeat' (first
    | with_reducible exact Keeps.refl _ _
    | ((with_reducible apply Keeps.after (State.modJob_keeps _ _ _ _ _)); case hv => decide))
theorem State.segStat_keeps (s : State) (c : Nat) (j : Job) (st : Stat) : Keeps 16384 s (State.segStat s c j st) := by
  unfold State.segStat
  repeat' (first
    | with_reducible exact Keeps.refl _ _
    | ((with_reducible apply Keeps.after (State.modJob_keeps _ _ _ _ _)); case hv => decide))
theorem credSeg_keeps (k : Coll) (c : Nat) (j : Job) (src : List Raw) (s : State) (i : Nat) : Keeps 157696 s (credSeg k c j src s i).1 := by
  unfold credSeg
  repeat' (first
    | with_reducible exact Keeps.refl _ _
    | ((with_reducible apply Keeps.after (State.segStat_keeps _ _ _ _)); case hv => decide)
    | ((with_reducible apply Keeps.after (State.segKeep_keeps _ _ _ _ _)); case hv => decide)
    | ((with_reducible apply Keeps.after (State.segMark_keeps _ _ _ _ _)); case hv => decide)
    | with_reducible apply Keeps.after_sendAll
    | ((with_reducible apply Keeps.after (State.collSend_keeps _ _ _ _ _ _ _ _ _)); case hv => decide)
    | ((with_reducible apply Keeps.after (State.collDrop_keeps _ _ _)); case hv => decide)
    | ((with_reducible apply Keeps.after (State.bump_keeps _ _)); case hv => decide)
    | with_reducible apply Keeps.ite_fst
    | intro _
    | split)
theorem cbrdSeg_keeps (k : Coll) (c : Nat) (j : Job) (src : List Raw) (s : State) (i : Nat) : Keeps 157696 s (cbrdSeg k c j src s i).1 := by
  unfold cbrdSeg
  repeat' (first
    | with_reducible exact Keeps.refl _ _
    | ((with_reducible apply Keeps.after (State.segStat_keeps _ _ _ _)); case hv => decide)
    | ((with_reducible apply Keeps.after (State.segKeep_keeps _ _ _ _ _)); case hv => decide)
    | ((with_reducible apply Keeps.after (State.segMark_keeps _ _ _ _ _)); case hv => decide)
    | with_reducible apply Keeps.after_sendAll
    | ((with_reducible apply Keeps.after (State.collSend_keeps _ _ _ _ _ _ _ _ _)); case hv => decide)
    | ((with_reducible apply Keeps.after (State.collDrop_keeps _ _ _)); case hv => decide)
    | ((with_reducible apply Keeps.after (State.bump_keeps _ _)); case hv => decide)
    | intro _
    | split
    | dsimp only)
theorem cgatUp_keeps (k : Coll) (c : Nat) (j : Job) (s : State) (i x : Nat) (g : WSeg) (es : List CElt) : Keeps 18432 s (cgatUp k c j s i x g es).1 := by
  unfold cgatUp
  repeat' (first
    | with_reducible exact Keeps.refl _ _
    | ((with_reducible apply Keeps.after (State.segKeep_keeps _ _ _ _ _)); case hv => decide)
    | ((with_reducible apply Keeps.after (State.segMark_keeps _ _ _ _ _)); case hv => decide)
    | with_reducible apply Keeps.after_sendAll
    | ((with_reducible apply Keeps.after (State.collSend_keeps _ _ _ _ _ _ _ _ _)); case hv => decide)
    | intro _
    | split
    | dsimp only)
theorem cgatSeg_keeps (k : Coll) (c : Nat) (j : Job) (src : List Raw) (s : State) (key : Nat) : Keeps 157696 s (cgatSeg k c j src s key).1 := by
  unfold cgatSeg
  repeat' (first
    | with_reducible exact Keeps.refl _ _
    | ((with_reducible apply Keeps.after (cgatUp_keeps _ _ _ _ _ _ _ _)); case hv => decide)
    | ((with_reducible apply Keeps.after (State.segStat_keeps _ _ _ _)); case hv => decide)
    | ((with_reducible apply Keeps.after (State.segKeep_keeps _ _ _ _ _)); case hv => decide)
    | ((with_reducible apply Keeps.after (State.segMark_keeps _ _ _ _ _)); case hv => decide)
    | with_reducible apply Keeps.after_sendAll
    | ((with_reducible apply Keeps.after (State.collSend_keeps _ _ _ _ _ _ _ _ _)); case hv => decide)
    | ((with_reducible apply Keeps.after (State.collDrop_keeps _ _ _)); case hv => decide)
    | ((with_reducible apply Keeps.after (State.bump_keeps _ _)); case hv => decide)
    | intro _
    | split
    | dsimp only)
theorem State.setupPut_keeps (s : State) (k : Coll) (v : Nat) : Keeps 16384 s (State.setupPut s k v) := by
  unfold State.setupPut
  repeat' (first
    | with_reducible exact Keeps.refl _ _
    | ((with_reducible apply Keeps.after_modCl); (case hv => decide); (case h => (intro h; repeat' (first | with_reducible exact h | with_reducible rfl | with_reducible exact mwf_wrBytes _ _ _ h | with_reducible exact Cluster.spadWr_wf _ _ _ h | with_reducible exact Cluster.zeroSeg_wf _ _ h | with_reducible exact Cluster.zeroSegs_wf _ _ h | simp only [Cluster.setCore_spad, Cluster.setUnit_spad, Cluster.spadPoisonSet_spad, Cluster.taintHeads_spad] | split | dsimp only | exact h | exact Cluster.zeroSegs_wf _ _ h)))))
theorem State.setupClear_keeps (s : State) (k : Coll) : Keeps 8192 s (State.setupClear s k) := by
  unfold State.setupClear
  repeat' (first
    | with_reducible exact Keeps.refl _ _
    | ((with_reducible apply Keeps.after (State.collDrop_keeps _ _ _)); case hv => decide))
theorem State.setupStep_keeps (s : State) (k : Coll) : Keeps 225048 s (State.setupStep s k).1 := by
  unfold State.setupStep
  repeat' (first
    | with_reducible exact Keeps.refl _ _
    | ((with_reducible apply Keeps.after (State.setupClear_keeps _ _)); case hv => decide)
    | ((with_reducible apply Keeps.after (State.setupPut_keeps _ _ _)); case hv => decide)
    | ((with_reducible apply Keeps.after (State.setupSend_keeps _ _ _)); case hv => decide)
    | with_reducible apply Keeps.after_sendAll
    | ((with_reducible apply Keeps.after (State.collTouch_keeps _ _ _)); case hv => decide)
    | ((with_reducible apply Keeps.after (State.trace_keeps _ _ _)); case hv => decide)
    | intro _
    | split
    | dsimp only)
theorem collSeg_keeps (k : Coll) (c : Nat) (j : Job) (src : List Raw) (s : State) (i : Nat) : Keeps 157696 s (collSeg k c j src s i).1 := by
  unfold collSeg
  repeat' (first
    | with_reducible exact Keeps.refl _ _
    | ((with_reducible apply Keeps.after (cgatSeg_keeps _ _ _ _ _ _)); case hv => decide)
    | ((with_reducible apply Keeps.after (cbrdSeg_keeps _ _ _ _ _ _)); case hv => decide)
    | ((with_reducible apply Keeps.after (credSeg_keeps _ _ _ _ _ _)); case hv => decide)
    | split)
theorem cStep_keeps (c : Nat) (j0 : Job) (s : State) : Keeps 225048 s (cStep c j0 s) := by
  unfold cStep
  repeat' (first
    | with_reducible exact Keeps.refl _ _
    | with_reducible apply Keeps.ite
    | ((with_reducible apply Keeps.after (collSeg_keeps _ _ _ _ _ _)); case hv => decide)
    | ((with_reducible apply Keeps.after (State.setupStep_keeps _ _)); case hv => decide)
    | ((with_reducible apply Keeps.after (State.collDone_keeps _ _ _)); case hv => decide)
    | with_reducible apply Keeps.after_sendAll
    | ((with_reducible apply Keeps.after (State.readSrcs_keeps _ _ _ _ _)); case hv => decide)
    | ((with_reducible apply Keeps.after (State.collFail_keeps _ _ _ _ _)); case hv => decide)
    | ((with_reducible apply Keeps.after (State.finish_keeps _ _ _ _ _)); case hv => decide)
    | intro _
    | split)
theorem State.collArrive_keeps (s : State) (n : Nat) (m : CollMsg) (src : BitVec 14) : Keeps 225048 s (State.collArrive s n m src) := by
  unfold State.collArrive
  repeat' (first
    | with_reducible exact Keeps.refl _ _
    | with_reducible apply Keeps.ite
    | ((with_reducible apply Keeps.after (cStep_keeps _ _ _)); case hv => decide)
    | ((with_reducible apply Keeps.after (State.collTouch_keeps _ _ _)); case hv => decide)
    | ((with_reducible apply Keeps.after (State.freeStops_keeps _)); case hv => decide)
    | ((with_reducible apply Keeps.after (State.abortSend_keeps _ _ _)); case hv => decide)
    | ((with_reducible apply Keeps.after (State.modPo_keeps _ _ _)); case hv => decide)
    | ((with_reducible apply Keeps.after (State.noteSev_keeps _ _ _ _ _ _)); case hv => decide)
    | ((with_reducible apply Keeps.after (State.modPt_keeps _ _ _)); case hv => decide)
    | split)
theorem collAct_keeps (handle root : Word) (c : Nat) (j : Job) (s : State) : Keeps 223000 s (collAct handle root c j s).1 := by
  unfold collAct
  try dsimp only
  repeat' (first
    | with_reducible exact Keeps.refl _ _
    | assumption
    | with_reducible apply Keeps.ite
    | ((with_reducible apply Keeps.after (State.collTouch_keeps _ _ _)); case hv => decide)
    | ((with_reducible apply Keeps.after_modCl); (case hv => decide); (case h => (intro h; repeat' (first | with_reducible exact h | with_reducible rfl | with_reducible exact mwf_wrBytes _ _ _ h | with_reducible exact Cluster.spadWr_wf _ _ _ h | with_reducible exact Cluster.zeroSeg_wf _ _ h | with_reducible exact Cluster.zeroSegs_wf _ _ h | simp only [Cluster.setCore_spad, Cluster.setUnit_spad, Cluster.spadPoisonSet_spad, Cluster.taintHeads_spad] | split | dsimp only | exact h | exact Cluster.zeroSegs_wf _ _ h))))
    | with_reducible apply Keeps.ite_fst
    | with_reducible apply Keeps.ite_snd
    | intro _
    | split
    | with_reducible apply Keeps.of_pair (by assumption)
    | with_reducible apply Keeps.of_pair2 (by assumption)
    | dsimp only)
theorem collIssue_keeps (op : TOp) (code : Nat) (own : List (Nat × Nat)) (a : Agent) (w : Word) (s : State) : Keeps 255768 s (collIssue op code own a w s) := by
  unfold collIssue
  repeat' (first
    | with_reducible exact Keeps.refl _ _
    | exact Keeps.refl _ _
    | unfold collForm
    | ((with_reducible apply Keeps.after (collAct_keeps _ _ _ _ _)); case hv => decide)
    | ((with_reducible apply Keeps.after_formIssue); (case hv => decide))
    | intro _)

end Sys2Proof.Machine
end

