-- ==== Sys2Proof/Laws/KeepsTasks.lean ====
section
/-! SUPPORT. What may change, one lemma per operation (see `Keeps`): power budget, task ends, rings, re-sharding and host loss. -/

namespace Sys2Proof.Machine

set_option linter.unusedSimpArgs false

/-! ### Machine/Budget.lean -/

theorem State.almEnd_keeps (s : State) (x : Nat × BitVec 8 × Nat × Nat) : Keeps 131074 s (State.almEnd s x) := by
  unfold State.almEnd
  repeat' (first
    | with_reducible exact Keeps.refl _ _
    | with_reducible apply Keeps.ite
    | ((with_reducible apply Keeps.after_setPwr); (case hv => decide); (case h => (unfold PwrOk; dsimp only; first | with_reducible exact fun h => h | with_reducible exact fun _ => dev_ok _ | exact fun _ => by decide | exact fun h => h)))
    | ((with_reducible apply Keeps.after (State.setFreeTick_keeps _ _)); case hv => decide))
theorem State.almanacUpdate_keeps (s : State) : Keeps 132354 s (State.almanacUpdate s) := by
  unfold State.almanacUpdate
  repeat' (first
    | with_reducible exact Keeps.refl _ _
    | with_reducible apply Keeps.ite
    | ((with_reducible apply Keeps.after (State.trace_keeps _ _ _)); case hv => decide)
    | ((with_reducible apply Keeps.after (State.almEnd_keeps _ _)); case hv => decide)
    | ((with_reducible apply Keeps.after_setPwr); (case hv => decide); (case h => (unfold PwrOk; dsimp only; first | with_reducible exact fun h => h | with_reducible exact fun _ => dev_ok _ | exact fun _ => by decide | exact fun h => h)))
    | with_reducible refine Keeps.trans ?_ (Keeps.foldl (fun s x => ?_) _ _))
theorem State.setLimits_keeps (s : State) (cs : List Nat) (l : Nat) : Keeps 16384 s (State.setLimits s cs l) := by
  unfold State.setLimits
  repeat' (first
    | with_reducible exact Keeps.refl _ _
    | with_reducible apply Keeps.ite
    | ((with_reducible apply Keeps.after_modCl); (case hv => decide); (case h => (intro h; repeat' (first | with_reducible exact h | with_reducible rfl | with_reducible exact mwf_wrBytes _ _ _ h | with_reducible exact Cluster.spadWr_wf _ _ _ h | with_reducible exact Cluster.zeroSeg_wf _ _ h | with_reducible exact Cluster.zeroSegs_wf _ _ h | simp only [Cluster.setCore_spad, Cluster.setUnit_spad, Cluster.spadPoisonSet_spad, Cluster.taintHeads_spad] | split | dsimp only | exact h | exact Cluster.zeroSegs_wf _ _ h))))
    | with_reducible refine Keeps.trans ?_ (Keeps.foldl (fun s x => ?_) _ _))
theorem State.almUse_keeps (s : State) : Keeps 2 s (State.almUse s) := by
  unfold State.almUse
  try dsimp only
  repeat' (first
    | with_reducible exact Keeps.refl _ _
    | assumption
    | with_reducible apply Keeps.ite
    | ((with_reducible apply Keeps.after_setPwr); (case hv => decide); (case h => (unfold PwrOk; dsimp only; first | with_reducible exact fun h => h | with_reducible exact fun _ => dev_ok _ | exact fun _ => by decide | exact fun h => h)))
    | with_reducible refine Keeps.trans ?_ (Keeps.foldl (fun s x => ?_) _ _)
    | with_reducible refine Keeps.trans ?_ (Keeps.foldlPair (fun s x => ?_) _ _)
    | with_reducible apply Keeps.ite_fst
    | with_reducible apply Keeps.ite_snd
    | intro _
    | split
    | with_reducible apply Keeps.of_pair (by assumption)
    | with_reducible apply Keeps.of_pair2 (by assumption)
    | dsimp only)
theorem State.applyLimits_keeps (s : State) (mine : Task → Bool) : Keeps 147458 s (State.applyLimits s mine) := by
  unfold State.applyLimits
  repeat' (first
    | with_reducible exact Keeps.refl _ _
    | with_reducible apply Keeps.ite
    | ((with_reducible apply Keeps.after (State.almUse_keeps _)); case hv => decide)
    | ((with_reducible apply Keeps.after (State.setLimits_keeps _ _ _)); case hv => decide)
    | ((with_reducible apply Keeps.after (State.bump_keeps _ _)); case hv => decide)
    | with_reducible refine Keeps.trans ?_ (Keeps.foldl (fun s x => ?_) _ _))

/-! ### Machine/Lifecycle.lean -/

theorem State.startCluster_keeps (s : State) (T : Task) (prog : List Word) (rank c : Nat) : Keeps 147456 s (State.startCluster s T prog rank c) := by
  unfold State.startCluster
  repeat' (first
    | with_reducible exact Keeps.refl _ _
    | ((with_reducible apply Keeps.after_modCl); (case hv => decide); (case h => (intro h; repeat' (first | with_reducible exact h | with_reducible rfl | with_reducible exact mwf_wrBytes _ _ _ h | with_reducible exact Cluster.spadWr_wf _ _ _ h | with_reducible exact Cluster.zeroSeg_wf _ _ h | with_reducible exact Cluster.zeroSegs_wf _ _ h | simp only [Cluster.setCore_spad, Cluster.setUnit_spad, Cluster.spadPoisonSet_spad, Cluster.taintHeads_spad] | split | dsimp only | exact h | exact Cluster.zeroSegs_wf _ _ h))))
    | ((with_reducible apply Keeps.after (State.reset_keeps )); case hv => decide)
    | ((with_reducible apply Keeps.after (State.bump_keeps _ _)); case hv => decide))
theorem State.startAll_keeps (s : State) (T : Task) (prog : List Word) : Keeps 212992 s (State.startAll s T prog) := by
  unfold State.startAll
  repeat' (first
    | with_reducible exact Keeps.refl _ _
    | ((with_reducible apply Keeps.after (State.startCluster_keeps _ _ _ _ _)); case hv => decide)
    | ((with_reducible apply Keeps.after (State.modTask_keeps _ _ _)); case hv => decide)
    | with_reducible refine Keeps.trans ?_ (Keeps.foldl (fun s x => ?_) _ _))
theorem State.loadProg_keeps (s : State) (p : Fin 64) (prog len phases : Nat) : Keeps 223000 s (State.loadProg s p prog len phases).2 := by
  unfold State.loadProg
  repeat' (first
    | with_reducible exact Keeps.refl _ _
    | ((with_reducible apply Keeps.after (State.structRd_keeps _ _ _ _)); case hv => decide)
    | split
    | with_reducible apply Keeps.of_pair2 (by assumption))
theorem Keeps.after_orWait {v : Nat} {s0 s : State} {c : NwCmd} {f : State → State}
    (hv : 128 &&& v = 128) (hb : ∀ t, Keeps v t (f t)) (hk : Keeps v s0 s) : Keeps v s0 (s.orWait c f) := by
  unfold State.orWait
  exact Keeps.ite ((State.setFw_keeps _ _).after hv hk) (hk.trans (hb s))
theorem State.takeStep_keeps (s : State) (T : Task) : Keeps 206608 s (State.takeStep s T) := by
  unfold State.takeStep
  repeat' (first
    | with_reducible exact Keeps.refl _ _
    | ((with_reducible apply Keeps.after (State.structWr_keeps _ _ _ _)); case hv => decide)
    | ((with_reducible apply Keeps.after (State.complete_keeps _ _ _ _ _ _ _)); case hv => decide)
    | ((with_reducible apply Keeps.after (State.modTask_keeps _ _ _)); case hv => decide)
    | ((with_reducible apply Keeps.after (State.trace_keeps _ _ _)); case hv => decide)
    | split)
theorem State.releaseTask_keeps (s : State) (T : Task) : Keeps 255762 s (State.releaseTask s T) := by
  unfold State.releaseTask
  repeat' (first
    | with_reducible exact Keeps.refl _ _
    | with_reducible apply Keeps.ite
    | ((with_reducible apply Keeps.after (State.takeStep_keeps _ _)); case hv => decide)
    | ((with_reducible apply Keeps.after (resumeAll_keeps _ _)); case hv => decide)
    | ((with_reducible apply Keeps.after (State.modTask_keeps _ _ _)); case hv => decide)
    | ((with_reducible apply Keeps.after (State.applyLimits_keeps _ _)); case hv => decide)
    | ((with_reducible apply Keeps.after (State.trace_keeps _ _ _)); case hv => decide))
theorem State.unpark_keeps (s : State) : Keeps 255762 s (State.unpark s) := by
  unfold State.unpark
  repeat' (first
    | with_reducible exact Keeps.refl _ _
    | ((with_reducible apply Keeps.after (State.releaseTask_keeps _ _)); case hv => decide)
    | with_reducible refine Keeps.trans ?_ (Keeps.foldl (fun s x => ?_) _ _)
    | split)
theorem State.freeOwners_keeps (s : State) (t : TaskId) : Keeps 140560 s (State.freeOwners s t) := by
  unfold State.freeOwners
  repeat' (first
    | with_reducible exact Keeps.refl _ _
    | ((with_reducible apply Keeps.after (State.structWr_keeps _ _ _ _)); case hv => decide)
    | with_reducible refine Keeps.trans ?_ (Keeps.foldl (fun s x => ?_) _ _)
    | split)
theorem State.dropHolds_keeps (s : State) (t : TaskId) (cs : List Nat) : Keeps 156944 s (State.dropHolds s t cs) := by
  unfold State.dropHolds
  repeat' (first
    | with_reducible exact Keeps.refl _ _
    | ((with_reducible apply Keeps.after (State.freeOwners_keeps _ _)); case hv => decide)
    | ((with_reducible apply Keeps.after (State.modPt_keeps _ _ _)); case hv => decide)
    | ((with_reducible apply Keeps.after_modCl); (case hv => decide); (case h => (intro h; repeat' (first | with_reducible exact h | with_reducible rfl | with_reducible exact mwf_wrBytes _ _ _ h | with_reducible exact Cluster.spadWr_wf _ _ _ h | with_reducible exact Cluster.zeroSeg_wf _ _ h | with_reducible exact Cluster.zeroSegs_wf _ _ h | simp only [Cluster.setCore_spad, Cluster.setUnit_spad, Cluster.spadPoisonSet_spad, Cluster.taintHeads_spad] | split | dsimp only | exact h | exact Cluster.zeroSegs_wf _ _ h))))
    | with_reducible refine Keeps.trans ?_ (Keeps.foldl (fun s x => ?_) _ _))
theorem State.clearCluster_keeps (s : State) (c : Nat) : Keeps 16384 s (State.clearCluster s c) := by
  unfold State.clearCluster
  repeat' (first
    | with_reducible exact Keeps.refl _ _
    | ((with_reducible apply Keeps.after_modCl); (case hv => decide); (case h => (intro h; repeat' (first | with_reducible exact h | with_reducible rfl | with_reducible exact mwf_wrBytes _ _ _ h | with_reducible exact Cluster.spadWr_wf _ _ _ h | with_reducible exact Cluster.zeroSeg_wf _ _ h | with_reducible exact Cluster.zeroSegs_wf _ _ h | simp only [Cluster.setCore_spad, Cluster.setUnit_spad, Cluster.spadPoisonSet_spad, Cluster.taintHeads_spad] | split | dsimp only | exact h | exact Cluster.zeroSegs_wf _ _ h))))
    | ((with_reducible apply Keeps.after (State.reset_keeps )); case hv => decide))
theorem State.endRecords_keeps (s : State) (T : Task) (st : BitVec 16) : Keeps 141056 s (State.endRecords s T st) := by
  unfold State.endRecords
  repeat' (first
    | with_reducible exact Keeps.refl _ _
    | ((with_reducible apply Keeps.after (State.complete_keeps _ _ _ _ _ _ _)); case hv => decide)
    | with_reducible refine Keeps.trans ?_ (Keeps.foldl (fun s x => ?_) _ _)
    | split)
theorem State.dropAppends_keeps (s : State) (T : Task) : Keeps 8192 s (State.dropAppends s T) := by
  unfold State.dropAppends
  try dsimp only
  repeat' (first
    | with_reducible exact Keeps.refl _ _
    | assumption
    | with_reducible apply Keeps.ite
    | ((with_reducible apply Keeps.after (State.modPt_keeps _ _ _)); case hv => decide)
    | with_reducible apply Keeps.ite_fst
    | with_reducible apply Keeps.ite_snd
    | intro _
    | split
    | with_reducible apply Keeps.of_pair (by assumption)
    | with_reducible apply Keeps.of_pair2 (by assumption)
    | dsimp only)
theorem State.phaseEnd_keeps (s : State) (T : Task) : Keeps 131074 s (State.phaseEnd s T) := by
  unfold State.phaseEnd
  repeat' (first
    | with_reducible exact Keeps.refl _ _
    | ((with_reducible apply Keeps.after (State.bump_keeps _ _)); case hv => decide)
    | ((with_reducible apply Keeps.after_setPwr); (case hv => decide); (case h => (unfold PwrOk; dsimp only; first | with_reducible exact fun h => h | with_reducible exact fun _ => dev_ok _ | exact fun _ => by decide | exact fun h => h)))
    | split)
theorem State.endTask_keeps (s : State) (t : TaskId) (st : BitVec 16) (rec : Bool) : Keeps 225050 s (State.endTask s t st rec) := by
  unfold State.endTask
  repeat' (first
    | with_reducible exact Keeps.refl _ _
    | ((with_reducible apply Keeps.after (State.rangeFlushAll_keeps _ _)); case hv => decide)
    | ((with_reducible apply Keeps.after (State.kvUnserved_keeps _ _)); case hv => decide)
    | ((with_reducible apply Keeps.after (State.collTaskEnd_keeps _ _ _)); case hv => decide)
    | ((with_reducible apply Keeps.after (State.phaseEnd_keeps _ _)); case hv => decide)
    | ((with_reducible apply Keeps.after (State.dropAppends_keeps _ _)); case hv => decide)
    | ((with_reducible apply Keeps.after (State.endRecords_keeps _ _ _)); case hv => decide)
    | ((with_reducible apply Keeps.after (State.clearCluster_keeps _ _)); case hv => decide)
    | ((with_reducible apply Keeps.after (State.dropHolds_keeps _ _ _)); case hv => decide)
    | ((with_reducible apply Keeps.after (State.modPt_keeps _ _ _)); case hv => decide)
    | ((with_reducible apply Keeps.after (State.setTasks_keeps _ _)); case hv => decide)
    | ((with_reducible apply Keeps.after (State.trace_keeps _ _ _)); case hv => decide)
    | with_reducible refine Keeps.trans ?_ (Keeps.foldl (fun s x => ?_) _ _)
    | split)
theorem State.endTasks_keeps (s : State) (f : Task → Bool) (st : BitVec 16) (rec : Bool) : Keeps 225050 s (State.endTasks s f st rec) := by
  unfold State.endTasks
  repeat' (first
    | with_reducible exact Keeps.refl _ _
    | ((with_reducible apply Keeps.after (State.endTask_keeps _ _ _ _)); case hv => decide)
    | with_reducible refine Keeps.trans ?_ (Keeps.foldl (fun s x => ?_) _ _))

/-! ### Machine/Rings.lean -/

theorem ringDisableNow_keeps (p : Fin 64) (n : Fin 4) (s : State) : Keeps 8192 s (ringDisableNow p n s) := by
  unfold ringDisableNow
  repeat' (first
    | with_reducible exact Keeps.refl _ _
    | with_reducible apply Keeps.ite
    | ((with_reducible apply Keeps.after (State.modPt_keeps _ _ _)); case hv => decide))
theorem ringDisable_keeps (p : Fin 64) (n : Fin 4) (s : State) : Keeps 8320 s (ringDisable p n s) := by
  unfold ringDisable
  repeat' (first
    | with_reducible exact Keeps.refl _ _
    | ((with_reducible apply Keeps.after (ringDisableNow_keeps _ _ _)); case hv => decide)
    | (with_reducible apply Keeps.after_orWait (by decide))
    | intro _)
theorem State.ringRd_keeps (s : State) (p : Fin 64) (r : Ring) (off n : Nat) : Keeps 223000 s (State.ringRd s p r off n).2 := by
  unfold State.ringRd
  repeat' (first
    | with_reducible exact Keeps.refl _ _
    | ((with_reducible apply Keeps.after (State.structRd_keeps _ _ _ _)); case hv => decide)
    | ((with_reducible apply Keeps.after (State.hostAsk_keeps _ _ _ _ _)); case hv => decide)
    | split
    | with_reducible apply Keeps.of_pair2 (by assumption))
theorem ringEnableNow_keeps (p : Fin 64) (n : Fin 4) (s : State) : Keeps 225048 s (ringEnableNow p n s) := by
  unfold ringEnableNow
  repeat' (first
    | with_reducible exact Keeps.refl _ _
    | with_reducible apply Keeps.ite
    | ((with_reducible apply Keeps.after (State.ringRd_keeps _ _ _ _ _)); case hv => decide)
    | ((with_reducible apply Keeps.after (State.fetch_keeps _ _ _ _ _ _ _)); case hv => decide)
    | ((with_reducible apply Keeps.after (State.modPt_keeps _ _ _)); case hv => decide))
theorem ringEnable_keeps (p : Fin 64) (n : Fin 4) (s : State) : Keeps 225176 s (ringEnable p n s) := by
  unfold ringEnable
  repeat' (first
    | with_reducible exact Keeps.refl _ _
    | ((with_reducible apply Keeps.after (ringEnableNow_keeps _ _ _)); case hv => decide)
    | (with_reducible apply Keeps.after_orWait (by decide))
    | intro _)
theorem State.takeRingEntry_keeps (s : State) (e : EntryId) (bs : List Byte) : Keeps 141056 s (State.takeRingEntry s e bs) := by
  unfold State.takeRingEntry
  repeat' (first
    | with_reducible exact Keeps.refl _ _
    | with_reducible apply Keeps.ite
    | ((with_reducible apply Keeps.after (State.completeSt_keeps _ _ _)); case hv => decide)
    | ((with_reducible apply Keeps.after (State.modPt_keeps _ _ _)); case hv => decide)
    | ((with_reducible apply Keeps.after (State.trace_keeps _ _ _)); case hv => decide))
theorem fetchFuel_keeps (p : Fin 64) (n : Fin 4) (tail : BitVec 32) (fuel : Nat) (s : State) : Keeps 225048 s (fetchFuel p n tail fuel s) := by
  induction fuel generalizing s with
  | zero => exact Keeps.refl _ _
  | succ k ih =>
    unfold fetchFuel
    try dsimp only
    repeat' (first
      | with_reducible exact Keeps.refl _ _
      | ((with_reducible apply Keeps.after (State.takeRingEntry_keeps _ _ _)); case hv => decide)
      | ((with_reducible apply Keeps.after (State.ringRd_keeps _ _ _ _ _)); case hv => decide)
      | ((with_reducible apply Keeps.after (State.fetch_keeps _ _ _ _ _ _ _)); case hv => decide)
      | ((with_reducible apply Keeps.after (State.modPt_keeps _ _ _)); case hv => decide)
      | ((with_reducible apply Keeps.after (ih _)); (case hv => decide))
      | split
      | with_reducible apply Keeps.of_pair2 (by assumption))
theorem State.fetchRing_keeps (s : State) (p : Fin 64) (n : Fin 4) : Keeps 225048 s (State.fetchRing s p n) := by
  unfold State.fetchRing
  repeat' (first
    | with_reducible exact Keeps.refl _ _
    | with_reducible apply Keeps.ite
    | ((with_reducible apply Keeps.after (fetchFuel_keeps _ _ _ _ _)); case hv => decide)
    | ((with_reducible apply Keeps.after (State.ringRd_keeps _ _ _ _ _)); case hv => decide)
    | ((with_reducible apply Keeps.after (State.event_keeps _ _ _ _ _)); case hv => decide)
    | ((with_reducible apply Keeps.after (State.modPt_keeps _ _ _)); case hv => decide)
    | split
    | with_reducible apply Keeps.of_pair2 (by assumption))
theorem State.completeOnce_keeps (s : State) (e : EntryId) (st : BitVec 16) : Keeps 141056 s (State.completeOnce s e st) := by
  unfold State.completeOnce
  repeat' (first
    | with_reducible exact Keeps.refl _ _
    | ((with_reducible apply Keeps.after (State.completeSt_keeps _ _ _)); case hv => decide)
    | split)
theorem entrySeq_keeps (p : Fin 64) (n : Fin 4) (s : State) : Keeps 223000 s (entrySeq p n s) := by
  unfold entrySeq
  repeat' (first
    | with_reducible exact Keeps.refl _ _
    | ((with_reducible apply Keeps.after (State.ringRd_keeps _ _ _ _ _)); case hv => decide)
    | ((with_reducible apply Keeps.after (State.complete_keeps _ _ _ _ _ _ _)); case hv => decide)
    | ((with_reducible apply Keeps.after (State.modPt_keeps _ _ _)); case hv => decide)
    | split
    | with_reducible apply Keeps.of_pair2 (by assumption)
    | dsimp only)
theorem nopEntry_keeps (e : EntryId) (s : State) : Keeps 141056 s (nopEntry e s) := by
  unfold nopEntry
  repeat' (first
    | with_reducible exact Keeps.refl _ _
    | ((with_reducible apply Keeps.after (State.completeSt_keeps _ _ _)); case hv => decide)
    | split)
theorem State.startTask_keeps (s : State) (e : EntryId) (bs : List Byte) : Keeps 223000 s (State.startTask s e bs) := by
  unfold State.startTask
  repeat' (first
    | with_reducible exact Keeps.refl _ _
    | ((with_reducible apply Keeps.after (State.completeOnce_keeps _ _ _)); case hv => decide)
    | ((with_reducible apply Keeps.after (State.setEntry_keeps _ _ _)); case hv => decide)
    | ((with_reducible apply Keeps.after (State.loadProg_keeps _ _ _ _ _)); case hv => decide)
    | ((with_reducible apply Keeps.after (State.startAll_keeps _ _ _)); case hv => decide)
    | ((with_reducible apply Keeps.after (State.setTasks_keeps _ _)); case hv => decide)
    | ((with_reducible apply Keeps.after (State.trace_keeps _ _ _)); case hv => decide)
    | split
    | with_reducible apply Keeps.of_pair2 (by assumption)
    | dsimp only)
theorem State.tryTask_keeps (s : State) (e : EntryId) (bs : List Byte) : Keeps 223000 s (State.tryTask s e bs) := by
  unfold State.tryTask
  repeat' (first
    | with_reducible exact Keeps.refl _ _
    | with_reducible apply Keeps.ite
    | ((with_reducible apply Keeps.after (State.startTask_keeps _ _ _)); case hv => decide)
    | ((with_reducible apply Keeps.after (State.setEntry_keeps _ _ _)); case hv => decide)
    | ((with_reducible apply Keeps.after (State.completeSt_keeps _ _ _)); case hv => decide))
theorem stepEntry_keeps (e : EntryId) (s : State) : Keeps 255762 s (stepEntry e s) := by
  unfold stepEntry
  repeat' (first
    | with_reducible exact Keeps.refl _ _
    | ((with_reducible apply Keeps.after (State.setEntry_keeps _ _ _)); case hv => decide)
    | ((with_reducible apply Keeps.after (State.unpark_keeps _)); case hv => decide)
    | ((with_reducible apply Keeps.after (State.completeSt_keeps _ _ _)); case hv => decide)
    | ((with_reducible apply Keeps.after (State.modTask_keeps _ _ _)); case hv => decide)
    | split
    | dsimp only)
theorem seqAdmit_keeps (e : EntryId) (s : State) : Keeps 223000 s (seqAdmit e s) := by
  unfold seqAdmit
  repeat' (first
    | with_reducible exact Keeps.refl _ _
    | with_reducible apply Keeps.ite
    | ((with_reducible apply Keeps.after (State.completeOnce_keeps _ _ _)); case hv => decide)
    | ((with_reducible apply Keeps.after (State.admitSeq_keeps _ _ _ _ _ _ _ _)); case hv => decide)
    | ((with_reducible apply Keeps.after (State.completeWork_keeps _ _ _ _)); case hv => decide)
    | ((with_reducible apply Keeps.after (State.structRd_keeps _ _ _ _)); case hv => decide)
    | ((with_reducible apply Keeps.after (State.completeSt_keeps _ _ _)); case hv => decide)
    | ((with_reducible apply Keeps.after (State.bump_keeps _ _)); case hv => decide)
    | split
    | with_reducible apply Keeps.of_pair2 (by assumption))
theorem seqEnd_keeps (e : EntryId) (s : State) : Keeps 141072 s (seqEnd e s) := by
  unfold seqEnd
  repeat' (first
    | with_reducible exact Keeps.refl _ _
    | ((with_reducible apply Keeps.after (State.setEntry_keeps _ _ _)); case hv => decide)
    | ((with_reducible apply Keeps.after (State.syncTree_keeps _ _)); case hv => decide)
    | ((with_reducible apply Keeps.after (State.endSeq_keeps _ _ _)); case hv => decide)
    | ((with_reducible apply Keeps.after (State.completeWork_keeps _ _ _ _)); case hv => decide)
    | ((with_reducible apply Keeps.after (State.modSeq_keeps _ _ _ _)); case hv => decide)
    | ((with_reducible apply Keeps.after (State.completeSt_keeps _ _ _)); case hv => decide)
    | ((with_reducible apply Keeps.after (State.bump_keeps _ _)); case hv => decide)
    | split
    | dsimp only)

/-! ### Machine/Reshard.lean -/

theorem State.modPlan_keeps (s : State) (p : Nat) (f : ReshPlan → ReshPlan) : Keeps 8192 s (State.modPlan s p f) := by
  unfold State.modPlan
  repeat' (first
    | with_reducible exact Keeps.refl _ _
    | ((with_reducible apply Keeps.after (State.modPt_keeps _ _ _)); case hv => decide))
theorem State.lendPages_keeps (s : State) (p : Nat) (sid : BitVec 32) (n : Nat) : Keeps 8192 s (State.lendPages s p sid n).2 := by
  unfold State.lendPages
  repeat' (first
    | with_reducible exact Keeps.refl _ _
    | ((with_reducible apply Keeps.after (State.modSeq_keeps _ _ _ _)); case hv => decide)
    | split
    | dsimp only)
theorem State.reshGot_keeps (s : State) (p : Nat) (i : Nat) (lay : BitVec 32) (pages : List Nat) (prot : Bool) : Keeps 8192 s (State.reshGot s p i lay pages prot) := by
  unfold State.reshGot
  repeat' (first
    | with_reducible exact Keeps.refl _ _
    | ((with_reducible apply Keeps.after (State.modPlan_keeps _ _ _)); case hv => decide)
    | split)
theorem State.reshAsk_keeps (s : State) (p : Nat) (q : ReshPlan) : Keeps 10240 s (State.reshAsk s p q) := by
  unfold State.reshAsk
  repeat' (first
    | with_reducible exact Keeps.refl _ _
    | ((with_reducible apply Keeps.after (State.sendSys_keeps _ _ _ _)); case hv => decide)
    | ((with_reducible apply Keeps.after (State.reshGot_keeps _ _ _ _ _ _)); case hv => decide)
    | ((with_reducible apply Keeps.after (State.lendPages_keeps _ _ _ _)); case hv => decide)
    | ((with_reducible apply Keeps.after (State.modPlan_keeps _ _ _)); case hv => decide)
    | with_reducible refine Keeps.trans ?_ (Keeps.foldl (fun s x => ?_) _ _)
    | split
    | with_reducible apply Keeps.of_pair2 (by assumption))
theorem State.reshRec_keeps (s : State) (p : Fin 64) (a : Nat) : Keeps 223000 s (State.reshRec s p a).2 := by
  unfold State.reshRec
  repeat' (first
    | with_reducible exact Keeps.refl _ _
    | ((with_reducible apply Keeps.after (State.structRd_keeps _ _ _ _)); case hv => decide)
    | split
    | with_reducible apply Keeps.of_pair2 (by assumption)
    | dsimp only)
theorem State.reshBegin_keeps (s0 : State) (p : Nat) (q : ReshPlan) (l : KvLay) : Keeps 225048 s0 (State.reshBegin s0 p q l) := by
  unfold State.reshBegin
  repeat' (first
    | with_reducible exact Keeps.refl _ _
    | ((with_reducible apply Keeps.after (State.reshRec_keeps _ _ _)); case hv => decide)
    | ((with_reducible apply Keeps.after (State.reshAsk_keeps _ _ _)); case hv => decide)
    | ((with_reducible apply Keeps.after (State.modPlan_keeps _ _ _)); case hv => decide)
    | ((with_reducible apply Keeps.after (State.setAlloc_keeps _ _ _)); case hv => decide)
    | ((with_reducible apply Keeps.after (State.batchSee_keeps _ _ _)); case hv => decide)
    | ((with_reducible apply Keeps.after (State.modPt_keeps _ _ _)); case hv => decide)
    | ((with_reducible apply Keeps.after (State.bump_keeps _ _)); case hv => decide)
    | split
    | with_reducible apply Keeps.of_pair2 (by assumption)
    | dsimp only)
theorem State.lendBack_keeps (s : State) (p : Nat) (sid : BitVec 32) : Keeps 223000 s (State.lendBack s p sid) := by
  unfold State.lendBack
  repeat' (first
    | with_reducible exact Keeps.refl _ _
    | ((with_reducible apply Keeps.after (State.joinBatch_keeps _ _ _)); case hv => decide)
    | ((with_reducible apply Keeps.after (State.copyShared_keeps _ _ _)); case hv => decide)
    | ((with_reducible apply Keeps.after (State.modSeq_keeps _ _ _ _)); case hv => decide)
    | split
    | dsimp only)
theorem State.reshReturn_keeps (s : State) (p : Nat) (q : ReshPlan) : Keeps 225048 s (State.reshReturn s p q) := by
  unfold State.reshReturn
  repeat' (first
    | with_reducible exact Keeps.refl _ _
    | ((with_reducible apply Keeps.after (State.lendBack_keeps _ _ _)); case hv => decide)
    | ((with_reducible apply Keeps.after (State.sendSys_keeps _ _ _ _)); case hv => decide)
    | with_reducible refine Keeps.trans ?_ (Keeps.foldl (fun s x => ?_) _ _)
    | split)
theorem State.reshEnd_keeps (s : State) (p : Nat) (q : ReshPlan) (st : BitVec 16) : Keeps 225048 s (State.reshEnd s p q st) := by
  unfold State.reshEnd
  repeat' (first
    | with_reducible exact Keeps.refl _ _
    | with_reducible apply Keeps.ite
    | ((with_reducible apply Keeps.after (State.reshReturn_keeps _ _ _)); case hv => decide)
    | ((with_reducible apply Keeps.after (State.freeGroup_keeps _ _ _)); case hv => decide)
    | ((with_reducible apply Keeps.after (State.setLnk_keeps _ _)); case hv => decide)
    | ((with_reducible apply Keeps.after (State.structWr_keeps _ _ _ _)); case hv => decide)
    | ((with_reducible apply Keeps.after (State.modPt_keeps _ _ _)); case hv => decide)
    | ((with_reducible apply Keeps.after (State.trace_keeps _ _ _)); case hv => decide)
    | with_reducible refine Keeps.trans ?_ (Keeps.foldl (fun s x => ?_) _ _))
theorem State.reshLocal_keeps (s : State) (p pa : Nat) (gr : List Nat) (q : ReshPlan) : Keeps 140560 s (State.reshLocal s p pa gr q).1 := by
  unfold State.reshLocal
  repeat' (first
    | with_reducible exact Keeps.refl _ _
    | ((with_reducible apply Keeps.after (State.partTouch_keeps _ _ _ _)); case hv => decide)
    | with_reducible refine Keeps.trans ?_ (Keeps.foldl (fun s x => ?_) _ _))
theorem State.reshRead_keeps (s : State) (p : Nat) (chip : BitVec 14) (pa g n : Nat) : Keeps 223232 s (State.reshRead s p chip pa g n) := by
  unfold State.reshRead
  repeat' (first
    | with_reducible exact Keeps.refl _ _
    | with_reducible apply Keeps.ite
    | ((with_reducible apply Keeps.after (State.reqDone_keeps _ _ _ _ _)); case hv => decide)
    | ((with_reducible apply Keeps.after (State.send_keeps _ _)); case hv => decide)
    | ((with_reducible apply Keeps.after (State.setLnk_keeps _ _)); case hv => decide))
theorem State.reshRow_keeps (s : State) (p : Nat) (q : ReshPlan) (l ls : KvLay) (layer pos r : Nat) : Keeps 140560 s (State.reshRow s p q l ls layer pos r) := by
  unfold State.reshRow
  repeat' (first
    | with_reducible exact Keeps.refl _ _
    | ((with_reducible apply Keeps.after (State.partPoisonSet_keeps _ _ _)); case hv => decide)
    | ((with_reducible apply Keeps.after (State.structWr_keeps _ _ _ _)); case hv => decide)
    | with_reducible refine Keeps.trans ?_ (Keeps.foldl (fun s x => ?_) _ _))
theorem State.reshStore_keeps (s : State) (p : Nat) (q : ReshPlan) (l : KvLay) : Keeps 140560 s (State.reshStore s p q l) := by
  unfold State.reshStore
  repeat' (first
    | with_reducible exact Keeps.refl _ _
    | ((with_reducible apply Keeps.after (State.reshRow_keeps _ _ _ _ _ _ _ _)); case hv => decide)
    | ((with_reducible apply Keeps.after (State.modPlan_keeps _ _ _)); case hv => decide)
    | with_reducible refine Keeps.trans ?_ (Keeps.foldl (fun s x => ?_) _ _)
    | split)
theorem reshPump_keeps (p : Nat) (fuel : Nat) (s : State) : Keeps 224528 s (reshPump p fuel s) := by
  induction fuel generalizing s with
  | zero => exact Keeps.refl _ _
  | succ k ih =>
    unfold reshPump
    try dsimp only
    repeat' (first
      | with_reducible exact Keeps.refl _ _
      | ((with_reducible apply Keeps.after (State.reshStore_keeps _ _ _ _)); case hv => decide)
      | ((with_reducible apply Keeps.after (State.reshRead_keeps _ _ _ _ _ _)); case hv => decide)
      | ((with_reducible apply Keeps.after (State.reshLocal_keeps _ _ _ _ _)); case hv => decide)
      | ((with_reducible apply Keeps.after (State.modPlan_keeps _ _ _)); case hv => decide)
      | ((with_reducible apply Keeps.after (ih _)); (case hv => decide))
      | split)
theorem reshRun_keeps (p : Nat) (fuel : Nat) (s : State) : Keeps 225048 s (reshRun p fuel s) := by
  induction fuel generalizing s with
  | zero => exact Keeps.refl _ _
  | succ k ih =>
    unfold reshRun
    try dsimp only
    repeat' (first
      | with_reducible exact Keeps.refl _ _
      | ((with_reducible apply Keeps.after (reshPump_keeps _ _ _)); case hv => decide)
      | ((with_reducible apply Keeps.after (State.reshEnd_keeps _ _ _ _)); case hv => decide)
      | ((with_reducible apply Keeps.after (State.reshBegin_keeps _ _ _ _)); case hv => decide)
      | ((with_reducible apply Keeps.after (State.completeWork_keeps _ _ _ _)); case hv => decide)
      | ((with_reducible apply Keeps.after (State.modPt_keeps _ _ _)); case hv => decide)
      | ((with_reducible apply Keeps.after (ih _)); (case hv => decide))
      | split)
theorem State.reshStep_keeps (s : State) (p : Nat) : Keeps 225048 s (State.reshStep s p) := by
  unfold State.reshStep
  repeat' (first
    | with_reducible exact Keeps.refl _ _
    | ((with_reducible apply Keeps.after (reshRun_keeps _ _ _)); case hv => decide)
    | split
    | dsimp only)
theorem State.reshAll_keeps (s : State) : Keeps 225048 s (State.reshAll s) := by
  unfold State.reshAll
  repeat' (first
    | with_reducible exact Keeps.refl _ _
    | with_reducible apply Keeps.ite
    | ((with_reducible apply Keeps.after (State.reshStep_keeps _ _)); case hv => decide)
    | with_reducible refine Keeps.trans ?_ (Keeps.foldl (fun s x => ?_) _ _))
theorem State.reshStop_keeps (s : State) (p : Nat) : Keeps 225048 s (State.reshStop s p) := by
  unfold State.reshStop
  try dsimp only
  repeat' (first
    | with_reducible exact Keeps.refl _ _
    | assumption
    | with_reducible apply Keeps.ite
    | ((with_reducible apply Keeps.after (State.reshStep_keeps _ _)); case hv => decide)
    | with_reducible apply Keeps.ite_fst
    | with_reducible apply Keeps.ite_snd
    | intro _
    | split
    | with_reducible apply Keeps.of_pair (by assumption)
    | with_reducible apply Keeps.of_pair2 (by assumption)
    | dsimp only)
theorem reshard_keeps (e : EntryId) (s : State) : Keeps 225048 s (reshard e s) := by
  unfold reshard
  repeat' (first
    | with_reducible exact Keeps.refl _ _
    | ((with_reducible apply Keeps.after (State.completeOnce_keeps _ _ _)); case hv => decide)
    | ((with_reducible apply Keeps.after (State.setEntry_keeps _ _ _)); case hv => decide)
    | ((with_reducible apply Keeps.after (State.reshStep_keeps _ _)); case hv => decide)
    | ((with_reducible apply Keeps.after (State.structRd_keeps _ _ _ _)); case hv => decide)
    | ((with_reducible apply Keeps.after (State.modPt_keeps _ _ _)); case hv => decide)
    | split
    | with_reducible apply Keeps.of_pair2 (by assumption)
    | dsimp only)
theorem reshardRecordDone_keeps (p : Nat) (s : State) : Keeps 225048 s (reshardRecordDone p s) := by
  unfold reshardRecordDone
  repeat' (first
    | with_reducible exact Keeps.refl _ _
    | ((with_reducible apply Keeps.after (State.buildStream_keeps _ _ _ _)); case hv => decide)
    | ((with_reducible apply Keeps.after (State.reshStep_keeps _ _)); case hv => decide)
    | ((with_reducible apply Keeps.after (State.reshEnd_keeps _ _ _ _)); case hv => decide)
    | ((with_reducible apply Keeps.after (State.sealPage_keeps _ _ _ _ _ _)); case hv => decide)
    | ((with_reducible apply Keeps.after (State.joinBatch_keeps _ _ _)); case hv => decide)
    | ((with_reducible apply Keeps.after (State.modPt_keeps _ _ _)); case hv => decide)
    | with_reducible refine Keeps.trans ?_ (Keeps.foldl (fun s x => ?_) _ _)
    | split)
theorem sysMessage_keeps (src : BitVec 14) (m : SysMsg) (s : State) : Keeps 225048 s (sysMessage src m s) := by
  unfold sysMessage
  repeat' (first
    | with_reducible exact Keeps.refl _ _
    | ((with_reducible apply Keeps.after (State.reshStep_keeps _ _)); case hv => decide)
    | ((with_reducible apply Keeps.after (State.lendBack_keeps _ _ _)); case hv => decide)
    | ((with_reducible apply Keeps.after (State.sendSys_keeps _ _ _ _)); case hv => decide)
    | ((with_reducible apply Keeps.after (State.reshGot_keeps _ _ _ _ _ _)); case hv => decide)
    | ((with_reducible apply Keeps.after (State.lendPages_keeps _ _ _ _)); case hv => decide)
    | ((with_reducible apply Keeps.after (State.modPlan_keeps _ _ _)); case hv => decide)
    | split
    | with_reducible apply Keeps.of_pair2 (by assumption))

/-! ### Machine/HostLoss.lean -/

theorem State.hostBack_keeps (s : State) : Keeps 16384 s (State.hostBack s) := by
  unfold State.hostBack
  repeat' (first
    | with_reducible exact Keeps.refl _ _
    | ((with_reducible apply Keeps.after_setClusters); (case hv => decide); (case h => (intro h c; refine mget_map_wf _ ?_ _ c (h c); intro kv h; repeat' (first | with_reducible exact h | with_reducible rfl | with_reducible exact mwf_wrBytes _ _ _ h | with_reducible exact Cluster.spadWr_wf _ _ _ h | with_reducible exact Cluster.zeroSeg_wf _ _ h | with_reducible exact Cluster.zeroSegs_wf _ _ h | simp only [Cluster.setCore_spad, Cluster.setUnit_spad, Cluster.spadPoisonSet_spad, Cluster.taintHeads_spad] | split | dsimp only | exact h | exact Cluster.zeroSegs_wf _ _ h)))))
theorem attachNow_keeps (x : Option (Fin 64)) (s : State) : Keeps 255762 s (attachNow x s) := by
  unfold attachNow
  repeat' (first
    | with_reducible exact Keeps.refl _ _
    | ((with_reducible apply Keeps.after (State.release_keeps _ _ _)); case hv => decide)
    | ((with_reducible apply Keeps.after (State.hostBack_keeps _)); case hv => decide)
    | ((with_reducible apply Keeps.after (State.unpark_keeps _)); case hv => decide)
    | ((with_reducible apply Keeps.after (State.msix_keeps _ _ _)); case hv => decide)
    | ((with_reducible apply Keeps.after (State.setHif_keeps _ _)); case hv => decide)
    | ((with_reducible apply Keeps.after (State.modPt_keeps _ _ _)); case hv => decide)
    | ((with_reducible apply Keeps.after (State.trace_keeps _ _ _)); case hv => decide)
    | with_reducible refine Keeps.trans ?_ (Keeps.foldl (fun s x => ?_) _ _)
    | split)
theorem attach_keeps (x : Option (Fin 64)) (s : State) : Keeps 255890 s (attach x s) := by
  unfold attach
  repeat' (first
    | with_reducible exact Keeps.refl _ _
    | ((with_reducible apply Keeps.after (attachNow_keeps _ _)); case hv => decide)
    | (with_reducible apply Keeps.after_orWait (by decide))
    | intro _)
theorem State.dropPlan_keeps (s : State) (p : Nat) : Keeps 225048 s (State.dropPlan s p) := by
  unfold State.dropPlan
  repeat' (first
    | with_reducible exact Keeps.refl _ _
    | ((with_reducible apply Keeps.after (State.reshReturn_keeps _ _ _)); case hv => decide)
    | ((with_reducible apply Keeps.after (State.freeGroup_keeps _ _ _)); case hv => decide)
    | ((with_reducible apply Keeps.after (State.setLnk_keeps _ _)); case hv => decide)
    | ((with_reducible apply Keeps.after (State.modPt_keeps _ _ _)); case hv => decide)
    | with_reducible refine Keeps.trans ?_ (Keeps.foldl (fun s x => ?_) _ _)
    | split)
theorem State.endSeqs_keeps (s : State) (p : Nat) : Keeps 140560 s (State.endSeqs s p) := by
  unfold State.endSeqs
  repeat' (first
    | with_reducible exact Keeps.refl _ _
    | ((with_reducible apply Keeps.after (State.syncTree_keeps _ _)); case hv => decide)
    | ((with_reducible apply Keeps.after (State.endSeq_keeps _ _ _)); case hv => decide)
    | ((with_reducible apply Keeps.after (State.modPt_keeps _ _ _)); case hv => decide)
    | with_reducible refine Keeps.trans ?_ (Keeps.foldl (fun s x => ?_) _ _))
theorem State.releaseWork_keeps (s : State) (p : Nat) (st : BitVec 16) : Keeps 225050 s (State.releaseWork s p st) := by
  unfold State.releaseWork
  repeat' (first
    | with_reducible exact Keeps.refl _ _
    | ((with_reducible apply Keeps.after (State.endSeqs_keeps _ _)); case hv => decide)
    | ((with_reducible apply Keeps.after (State.dropPlan_keeps _ _)); case hv => decide)
    | ((with_reducible apply Keeps.after (State.endTasks_keeps _ _ _ _)); case hv => decide)
    | ((with_reducible apply Keeps.after (State.modPt_keeps _ _ _)); case hv => decide))
theorem State.retainOut_keeps (s : State) (p : Nat) : Keeps 225050 s (State.retainOut s p) := by
  unfold State.retainOut
  repeat' (first
    | with_reducible exact Keeps.refl _ _
    | ((with_reducible apply Keeps.after (State.releaseWork_keeps _ _ _)); case hv => decide)
    | ((with_reducible apply Keeps.after (State.modPt_keeps _ _ _)); case hv => decide))
theorem State.retainScope_keeps (s : State) (x : Option (Fin 64)) : Keeps 225050 s (State.retainScope s x) := by
  unfold State.retainScope
  repeat' (first
    | with_reducible exact Keeps.refl _ _
    | with_reducible apply Keeps.ite
    | ((with_reducible apply Keeps.after (State.retainOut_keeps _ _)); case hv => decide)
    | ((with_reducible apply Keeps.after (State.setHif_keeps _ _)); case hv => decide)
    | with_reducible refine Keeps.trans ?_ (Keeps.foldl (fun s x => ?_) _ _))
theorem State.retainNow_keeps (s : State) (x : Option (Fin 64)) : Keeps 225050 s (State.retainNow s x) := by
  unfold State.retainNow
  repeat' (first
    | with_reducible exact Keeps.refl _ _
    | with_reducible apply Keeps.ite
    | ((with_reducible apply Keeps.after (State.retainScope_keeps _ _)); case hv => decide))
theorem State.detachDone_keeps (s : State) (x : Option (Fin 64)) : Keeps 225050 s (State.detachDone s x) := by
  unfold State.detachDone
  repeat' (first
    | with_reducible exact Keeps.refl _ _
    | ((with_reducible apply Keeps.after (State.retainNow_keeps _ _)); case hv => decide)
    | ((with_reducible apply Keeps.after (State.setHif_keeps _ _)); case hv => decide)
    | ((with_reducible apply Keeps.after (State.modPt_keeps _ _ _)); case hv => decide)
    | split)
theorem State.detachCheck_keeps (s : State) : Keeps 225050 s (State.detachCheck s) := by
  unfold State.detachCheck
  repeat' (first
    | with_reducible exact Keeps.refl _ _
    | with_reducible apply Keeps.ite
    | ((with_reducible apply Keeps.after (State.detachDone_keeps _ _)); case hv => decide)
    | with_reducible refine Keeps.trans ?_ (Keeps.foldl (fun s x => ?_) _ _))
theorem detachNow_keeps (x : Option (Fin 64)) (s : State) : Keeps 225050 s (detachNow x s) := by
  unfold detachNow
  repeat' (first
    | with_reducible exact Keeps.refl _ _
    | ((with_reducible apply Keeps.after (State.detachCheck_keeps _)); case hv => decide)
    | ((with_reducible apply Keeps.after (State.setHif_keeps _ _)); case hv => decide)
    | ((with_reducible apply Keeps.after (State.modPt_keeps _ _ _)); case hv => decide)
    | ((with_reducible apply Keeps.after (State.trace_keeps _ _ _)); case hv => decide)
    | split)
theorem detach_keeps (x : Option (Fin 64)) (s : State) : Keeps 225178 s (detach x s) := by
  unfold detach
  repeat' (first
    | with_reducible exact Keeps.refl _ _
    | ((with_reducible apply Keeps.after (detachNow_keeps _ _)); case hv => decide)
    | (with_reducible apply Keeps.after_orWait (by decide))
    | intro _)
theorem heartbeat_keeps (s : State) : Keeps 512 s (heartbeat s) := by
  unfold heartbeat
  repeat' (first
    | with_reducible exact Keeps.refl _ _
    | with_reducible apply Keeps.ite
    | ((with_reducible apply Keeps.after (State.setHif_keeps _ _)); case hv => decide))
theorem partitionHeartbeat_keeps (p : Nat) (s : State) : Keeps 8192 s (partitionHeartbeat p s) := by
  unfold partitionHeartbeat
  repeat' (first
    | with_reducible exact Keeps.refl _ _
    | with_reducible apply Keeps.ite
    | ((with_reducible apply Keeps.after (State.modPt_keeps _ _ _)); case hv => decide))
theorem State.releaseContained_keeps (s : State) (p : Nat) : Keeps 156944 s (State.releaseContained s p) := by
  unfold State.releaseContained
  repeat' (first
    | with_reducible exact Keeps.refl _ _
    | with_reducible apply Keeps.ite
    | ((with_reducible apply Keeps.after (State.dropHolds_keeps _ _ _)); case hv => decide)
    | ((with_reducible apply Keeps.after (State.modPt_keeps _ _ _)); case hv => decide)
    | with_reducible refine Keeps.trans ?_ (Keeps.foldl (fun s x => ?_) _ _))
theorem releaseNow_keeps (p : Nat) (s : State) : Keeps 156944 s (releaseNow p s) := by
  unfold releaseNow
  repeat' (first
    | with_reducible exact Keeps.refl _ _
    | with_reducible apply Keeps.ite
    | ((with_reducible apply Keeps.after (State.releaseContained_keeps _ _)); case hv => decide))
theorem releasePart_keeps (p : Nat) (s : State) : Keeps 157072 s (releasePart p s) := by
  unfold releasePart
  repeat' (first
    | with_reducible exact Keeps.refl _ _
    | ((with_reducible apply Keeps.after (releaseNow_keeps _ _)); case hv => decide)
    | (with_reducible apply Keeps.after_orWait (by decide))
    | intro _)
theorem State.enterLost_keeps (s : State) (x : Option (Fin 64)) : Keeps 257946 s (State.enterLost s x) := by
  unfold State.enterLost
  repeat' (first
    | with_reducible exact Keeps.refl _ _
    | ((with_reducible apply Keeps.after (State.retainNow_keeps _ _)); case hv => decide)
    | ((with_reducible apply Keeps.after (State.unpark_keeps _)); case hv => decide)
    | ((with_reducible apply Keeps.after (State.setFw_keeps _ _)); case hv => decide)
    | ((with_reducible apply Keeps.after (State.note_keeps _ _ _ _ _)); case hv => decide)
    | ((with_reducible apply Keeps.after (State.setHif_keeps _ _)); case hv => decide)
    | ((with_reducible apply Keeps.after (State.modPt_keeps _ _ _)); case hv => decide)
    | ((with_reducible apply Keeps.after (State.trace_keeps _ _ _)); case hv => decide)
    | split)
theorem State.flrPart_keeps (s : State) (p : Nat) : Keeps 225050 s (State.flrPart s p) := by
  unfold State.flrPart
  repeat' (first
    | with_reducible exact Keeps.refl _ _
    | ((with_reducible apply Keeps.after (State.releaseContained_keeps _ _)); case hv => decide)
    | ((with_reducible apply Keeps.after (State.releaseWork_keeps _ _ _)); case hv => decide)
    | ((with_reducible apply Keeps.after (State.modPt_keeps _ _ _)); case hv => decide))
theorem State.dropLatch_keeps (s : State) (fn : Nat) : Keeps 512 s (State.dropLatch s fn) := by
  unfold State.dropLatch
  repeat' (first
    | with_reducible exact Keeps.refl _ _
    | ((with_reducible apply Keeps.after (State.setHif_keeps _ _)); case hv => decide))
theorem State.vfReset_keeps (s : State) (fn : Nat) : Keeps 225050 s (State.vfReset s fn) := by
  unfold State.vfReset
  repeat' (first
    | with_reducible exact Keeps.refl _ _
    | ((with_reducible apply Keeps.after (State.dropLatch_keeps _ _)); case hv => decide)
    | ((with_reducible apply Keeps.after (State.flrPart_keeps _ _)); case hv => decide)
    | split
    | dsimp only)
theorem vfFlrNow_keeps (k : Nat) (s : State) : Keeps 225050 s (vfFlrNow k s) := by
  unfold vfFlrNow
  repeat' (first
    | with_reducible exact Keeps.refl _ _
    | with_reducible apply Keeps.ite
    | ((with_reducible apply Keeps.after (State.vfReset_keeps _ _)); case hv => decide))
theorem pfFlrNow_keeps (s : State) : Keeps 225050 s (pfFlrNow s) := by
  unfold pfFlrNow
  repeat' (first
    | with_reducible exact Keeps.refl _ _
    | with_reducible apply Keeps.ite
    | ((with_reducible apply Keeps.after (State.flrPart_keeps _ _)); case hv => decide)
    | ((with_reducible apply Keeps.after (State.setHif_keeps _ _)); case hv => decide)
    | with_reducible refine Keeps.trans ?_ (Keeps.foldl (fun s x => ?_) _ _))

end Sys2Proof.Machine
end

