-- ==== Sys2Proof/Laws/KeepsDevice.lean ====
section
/-! SUPPORT. What may change, one lemma per operation (see `Keeps`): links, flash, power, the guard and activation. -/

namespace Sys2Proof.Machine

set_option linter.unusedSimpArgs false

/-! ### Machine/Meridian.lean -/

theorem State.chooseParent_keeps (s : State) : Keeps 136448 s (State.chooseParent s) := by
  unfold State.chooseParent
  repeat' (first
    | with_reducible exact Keeps.refl _ _
    | with_reducible apply Keeps.ite
    | ((with_reducible apply Keeps.after_setMer); (case hv => decide); (case h => (unfold MerOk; dsimp only; first | with_reducible exact fun h => h | exact fun h => h | exact fun _ => ⟨fun _ => ⟨rfl, rfl⟩, by decide⟩ | exact fun _ => ⟨fun h => absurd h (by decide), decide_eq_true_iff⟩)))
    | ((with_reducible apply Keeps.after (State.trace_keeps _ _ _)); case hv => decide)
    | split)
theorem State.follow_keeps (s : State) (b : BeaconMsg) : Keeps 136452 s (State.follow s b) := by
  unfold State.follow
  repeat' (first
    | with_reducible exact Keeps.refl _ _
    | with_reducible apply Keeps.ite
    | ((with_reducible apply Keeps.after_setClk); (case hv => decide); (case h => (first | exact clkOk_done _ rfl rfl rfl | exact clkOk_start _ rfl rfl rfl | (unfold ClkOk; dsimp only; exact fun h => h) | skip; unfold ClkOk; dsimp only; first | with_reducible exact fun h => h | with_reducible exact clkOk_done _ rfl rfl rfl | exact clkOk_start _ rfl rfl rfl | exact fun h => h)))
    | ((with_reducible apply Keeps.after_setMer); (case hv => decide); (case h => (unfold MerOk; dsimp only; first | with_reducible exact fun h => h | exact fun h => h | exact fun _ => ⟨fun _ => ⟨rfl, rfl⟩, by decide⟩ | exact fun _ => ⟨fun h => absurd h (by decide), decide_eq_true_iff⟩)))
    | ((with_reducible apply Keeps.after (State.trace_keeps _ _ _)); case hv => decide)
    | ((with_reducible apply Keeps.after (State.bump_keeps _ _)); case hv => decide))
theorem beacon_keeps (n : Nat) (b : BeaconMsg) (s : State) : Keeps 138500 s (beacon n b s) := by
  unfold beacon
  repeat' (first
    | with_reducible exact Keeps.refl _ _
    | with_reducible apply Keeps.ite
    | ((with_reducible apply Keeps.after (State.follow_keeps _ _)); case hv => decide)
    | ((with_reducible apply Keeps.after (State.chooseParent_keeps _)); case hv => decide)
    | ((with_reducible apply Keeps.after (State.modPo_keeps _ _ _)); case hv => decide))
theorem beaconSend_keeps (n : Nat) (s : State) : Keeps 133120 s (beaconSend n s) := by
  unfold beaconSend
  repeat' (first
    | with_reducible exact Keeps.refl _ _
    | with_reducible apply Keeps.ite
    | ((with_reducible apply Keeps.after (State.modPo_keeps _ _ _)); case hv => decide)
    | ((with_reducible apply Keeps.after (State.bump_keeps _ _)); case hv => decide))

/-! ### Machine/Links.lean -/

theorem State.reIdentify_keeps (s : State) (n : Nat) : Keeps 138496 s (State.reIdentify s n) := by
  unfold State.reIdentify
  repeat' (first
    | with_reducible exact Keeps.refl _ _
    | ((with_reducible apply Keeps.after (State.chooseParent_keeps _)); case hv => decide)
    | ((with_reducible apply Keeps.after (State.modPo_keeps _ _ _)); case hv => decide))
theorem adoptNow_keeps (mask : BitVec 39) (s : State) : Keeps 138496 s (adoptNow mask s) := by
  unfold adoptNow
  repeat' (first
    | with_reducible exact Keeps.refl _ _
    | with_reducible apply Keeps.ite
    | ((with_reducible apply Keeps.after (State.reIdentify_keeps _ _)); case hv => decide)
    | ((with_reducible apply Keeps.after (State.modPo_keeps _ _ _)); case hv => decide)
    | ((with_reducible apply Keeps.after (State.setLnk_keeps _ _)); case hv => decide)
    | ((with_reducible apply Keeps.after (State.trace_keeps _ _ _)); case hv => decide)
    | with_reducible refine Keeps.trans ?_ (Keeps.foldl (fun s x => ?_) _ _))
theorem adopt_keeps (mask : BitVec 39) (s : State) : Keeps 138624 s (adopt mask s) := by
  unfold adopt
  repeat' (first
    | with_reducible exact Keeps.refl _ _
    | ((with_reducible apply Keeps.after (adoptNow_keeps _ _)); case hv => decide)
    | (with_reducible apply Keeps.after_orWait (by decide))
    | intro _)
theorem State.reIdentifyAll_keeps (s : State) : Keeps 138496 s (State.reIdentifyAll s) := by
  unfold State.reIdentifyAll
  repeat' (first
    | with_reducible exact Keeps.refl _ _
    | with_reducible apply Keeps.ite
    | ((with_reducible apply Keeps.after (State.reIdentify_keeps _ _)); case hv => decide)
    | with_reducible refine Keeps.trans ?_ (Keeps.foldl (fun s x => ?_) _ _))
theorem chipAssignNow_keeps (chip : BitVec 14) (s : State) : Keeps 138496 s (chipAssignNow chip s) := by
  unfold chipAssignNow
  repeat' (first
    | with_reducible exact Keeps.refl _ _
    | with_reducible apply Keeps.ite
    | ((with_reducible apply Keeps.after (State.reIdentifyAll_keeps _)); case hv => decide)
    | ((with_reducible apply Keeps.after (State.chooseParent_keeps _)); case hv => decide)
    | ((with_reducible apply Keeps.after (State.setLnk_keeps _ _)); case hv => decide))
theorem chipAssign_keeps (chip : BitVec 14) (s : State) : Keeps 138624 s (chipAssign chip s) := by
  unfold chipAssign
  repeat' (first
    | with_reducible exact Keeps.refl _ _
    | ((with_reducible apply Keeps.after (chipAssignNow_keeps _ _)); case hv => decide)
    | (with_reducible apply Keeps.after_orWait (by decide))
    | intro _)
theorem State.beginTraining_keeps (s : State) (n : Nat) : Keeps 138496 s (State.beginTraining s n) := by
  unfold State.beginTraining
  repeat' (first
    | with_reducible exact Keeps.refl _ _
    | ((with_reducible apply Keeps.after (State.chooseParent_keeps _)); case hv => decide)
    | ((with_reducible apply Keeps.after (State.modPo_keeps _ _ _)); case hv => decide))
theorem State.respond_keeps (s : State) (k : Packet) (st : BitVec 16) (data : List (BitVec 256)) (poison : BitVec 16) : Keeps 2048 s (State.respond s k st data poison) := by
  unfold State.respond
  repeat' (first
    | with_reducible exact Keeps.refl _ _
    | ((with_reducible apply Keeps.after (State.send_keeps _ _)); case hv => decide)
    | split)
theorem State.bounce_keeps (s : State) (k : Packet) (st : BitVec 16) : Keeps 223488 s (State.bounce s k st) := by
  unfold State.bounce
  repeat' (first
    | with_reducible exact Keeps.refl _ _
    | with_reducible apply Keeps.ite
    | ((with_reducible apply Keeps.after (State.respond_keeps _ _ _ _ _)); case hv => decide)
    | ((with_reducible apply Keeps.after (State.collChipLost_keeps _ _)); case hv => decide)
    | ((with_reducible apply Keeps.after (State.reqDone_keeps _ _ _ _ _)); case hv => decide))
theorem State.portNote_keeps (s : State) (n : Nat) (st : BitVec 16) : Keeps 132352 s (State.portNote s n st) := by
  unfold State.portNote
  repeat' (first
    | with_reducible exact Keeps.refl _ _
    | ((with_reducible apply Keeps.after (State.note_keeps _ _ _ _ _)); case hv => decide))
theorem State.portEnd_keeps (s : State) (n : Nat) (dark : Bool) (ev : Option (BitVec 16)) : Keeps 228608 s (State.portEnd s n dark ev) := by
  unfold State.portEnd
  try dsimp only
  repeat' (first
    | with_reducible exact Keeps.refl _ _
    | assumption
    | with_reducible apply Keeps.ite
    | ((with_reducible apply Keeps.after (State.portNote_keeps _ _ _)); case hv => decide)
    | ((with_reducible apply Keeps.after (State.bounce_keeps _ _ _)); case hv => decide)
    | ((with_reducible apply Keeps.after (State.chooseParent_keeps _)); case hv => decide)
    | ((with_reducible apply Keeps.after (State.modPo_keeps _ _ _)); case hv => decide)
    | ((with_reducible apply Keeps.after (State.trace_keeps _ _ _)); case hv => decide)
    | with_reducible refine Keeps.trans ?_ (Keeps.foldl (fun s x => ?_) _ _)
    | with_reducible refine Keeps.trans ?_ (Keeps.foldlPair (fun s x => ?_) _ _)
    | with_reducible apply Keeps.ite_fst
    | with_reducible apply Keeps.ite_snd
    | intro _
    | split
    | with_reducible apply Keeps.of_pair (by assumption)
    | with_reducible apply Keeps.of_pair2 (by assumption)
    | dsimp only)
theorem State.drainCheck_keeps (s : State) (n : Nat) : Keeps 228608 s (State.drainCheck s n) := by
  unfold State.drainCheck
  repeat' (first
    | with_reducible exact Keeps.refl _ _
    | with_reducible apply Keeps.ite
    | ((with_reducible apply Keeps.after (State.portEnd_keeps _ _ _ _)); case hv => decide))
theorem State.setLit_keeps (s : State) (n : Nat) : Keeps 228608 s (State.setLit s n) := by
  unfold State.setLit
  repeat' (first
    | with_reducible exact Keeps.refl _ _
    | with_reducible apply Keeps.ite
    | ((with_reducible apply Keeps.after (State.drainCheck_keeps _ _)); case hv => decide)
    | ((with_reducible apply Keeps.after (State.portEnd_keeps _ _ _ _)); case hv => decide)
    | ((with_reducible apply Keeps.after (State.beginTraining_keeps _ _)); case hv => decide)
    | ((with_reducible apply Keeps.after (State.modPo_keeps _ _ _)); case hv => decide)
    | split)
theorem State.setAllLit_keeps (s : State) : Keeps 228608 s (State.setAllLit s) := by
  unfold State.setAllLit
  repeat' (first
    | with_reducible exact Keeps.refl _ _
    | ((with_reducible apply Keeps.after (State.setLit_keeps _ _)); case hv => decide)
    | with_reducible refine Keeps.trans ?_ (Keeps.foldl (fun s x => ?_) _ _))
theorem State.applyMode_keeps (s : State) (v : BitVec 32) : Keeps 228608 s (State.applyMode s v) := by
  unfold State.applyMode
  repeat' (first
    | with_reducible exact Keeps.refl _ _
    | ((with_reducible apply Keeps.after (State.setAllLit_keeps _)); case hv => decide)
    | ((with_reducible apply Keeps.after (State.setLnk_keeps _ _)); case hv => decide))
theorem litLanesNow_keeps (v : BitVec 32) (s : State) : Keeps 228608 s (litLanesNow v s) := by
  unfold litLanesNow
  repeat' (first
    | with_reducible exact Keeps.refl _ _
    | with_reducible apply Keeps.ite
    | ((with_reducible apply Keeps.after (State.applyMode_keeps _ _)); case hv => decide)
    | ((with_reducible apply Keeps.after (State.setLnk_keeps _ _)); case hv => decide))
theorem litLanesChange_keeps (v : BitVec 32) (s : State) : Keeps 228736 s (litLanesChange v s) := by
  unfold litLanesChange
  repeat' (first
    | with_reducible exact Keeps.refl _ _
    | ((with_reducible apply Keeps.after (litLanesNow_keeps _ _)); case hv => decide)
    | (with_reducible apply Keeps.after_orWait (by decide))
    | intro _)
theorem retrainNow_keeps (n : Nat) (s : State) : Keeps 138496 s (retrainNow n s) := by
  unfold retrainNow
  repeat' (first
    | with_reducible exact Keeps.refl _ _
    | with_reducible apply Keeps.ite
    | ((with_reducible apply Keeps.after (State.beginTraining_keeps _ _)); case hv => decide)
    | ((with_reducible apply Keeps.after (State.modPo_keeps _ _ _)); case hv => decide)
    | ((with_reducible apply Keeps.after (State.trace_keeps _ _ _)); case hv => decide))
theorem retrain_keeps (n : Nat) (s : State) : Keeps 138624 s (retrain n s) := by
  unfold retrain
  repeat' (first
    | with_reducible exact Keeps.refl _ _
    | ((with_reducible apply Keeps.after (retrainNow_keeps _ _)); case hv => decide)
    | (with_reducible apply Keeps.after_orWait (by decide))
    | intro _)
theorem State.chipLost_keeps (s : State) (chip : BitVec 14) : Keeps 223488 s (State.chipLost s chip) := by
  unfold State.chipLost
  repeat' (first
    | with_reducible exact Keeps.refl _ _
    | ((with_reducible apply Keeps.after (State.collChipLost_keeps _ _)); case hv => decide)
    | ((with_reducible apply Keeps.after (State.modPt_keeps _ _ _)); case hv => decide)
    | with_reducible refine Keeps.trans ?_ (Keeps.foldl (fun s x => ?_) _ _))
theorem failureNotice_keeps (chip : BitVec 14) (s : State) : Keeps 223488 s (failureNotice chip s) := by
  unfold failureNotice
  repeat' (first
    | with_reducible exact Keeps.refl _ _
    | with_reducible apply Keeps.ite
    | ((with_reducible apply Keeps.after (State.chipLost_keeps _ _)); case hv => decide)
    | ((with_reducible apply Keeps.after (State.reqDone_keeps _ _ _ _ _)); case hv => decide)
    | with_reducible refine Keeps.trans ?_ (Keeps.foldl (fun s x => ?_) _ _))
theorem State.retrainLanes_keeps (s : State) (n : Nat) : Keeps 138496 s (State.retrainLanes s n) := by
  unfold State.retrainLanes
  repeat' (first
    | with_reducible exact Keeps.refl _ _
    | ((with_reducible apply Keeps.after (State.chooseParent_keeps _)); case hv => decide)
    | ((with_reducible apply Keeps.after (State.modPo_keeps _ _ _)); case hv => decide)
    | ((with_reducible apply Keeps.after (State.trace_keeps _ _ _)); case hv => decide))
theorem State.failNotice_keeps (s : State) (chip : BitVec 14) : Keeps 2048 s (State.failNotice s chip) := by
  unfold State.failNotice
  repeat' (first
    | with_reducible exact Keeps.refl _ _
    | ((with_reducible apply Keeps.after (State.tellPorts_keeps _ _ _ _)); case hv => decide))
theorem State.portLost_keeps (s : State) (n : Nat) : Keeps 228608 s (State.portLost s n) := by
  unfold State.portLost
  repeat' (first
    | with_reducible exact Keeps.refl _ _
    | with_reducible apply Keeps.ite
    | ((with_reducible apply Keeps.after (State.failNotice_keeps _ _)); case hv => decide)
    | ((with_reducible apply Keeps.after (failureNotice_keeps _ _)); case hv => decide)
    | ((with_reducible apply Keeps.after (State.portEnd_keeps _ _ _ _)); case hv => decide))
theorem State.startPorts_keeps (s : State) : Keeps 138496 s (State.startPorts s) := by
  unfold State.startPorts
  repeat' (first
    | with_reducible exact Keeps.refl _ _
    | with_reducible apply Keeps.ite
    | ((with_reducible apply Keeps.after (State.beginTraining_keeps _ _)); case hv => decide)
    | ((with_reducible apply Keeps.after (State.modPo_keeps _ _ _)); case hv => decide)
    | with_reducible refine Keeps.trans ?_ (Keeps.foldl (fun s x => ?_) _ _))
theorem laneTrained_keeps (n : Nat) (lanes : BitVec 4) (s : State) : Keeps 2048 s (laneTrained n lanes s) := by
  unfold laneTrained
  repeat' (first
    | with_reducible exact Keeps.refl _ _
    | with_reducible apply Keeps.ite
    | ((with_reducible apply Keeps.after (State.modPo_keeps _ _ _)); case hv => decide)
    | split)
theorem State.identified_keeps (s : State) (n : Nat) (i : Ident) : Keeps 228608 s (State.identified s n i) := by
  unfold State.identified
  repeat' (first
    | with_reducible exact Keeps.refl _ _
    | with_reducible apply Keeps.ite
    | ((with_reducible apply Keeps.after (State.drainCheck_keeps _ _)); case hv => decide)
    | ((with_reducible apply Keeps.after (State.portNote_keeps _ _ _)); case hv => decide)
    | ((with_reducible apply Keeps.after (State.chooseParent_keeps _)); case hv => decide)
    | ((with_reducible apply Keeps.after (State.pumpPort_keeps _ _ _ _)); case hv => decide)
    | ((with_reducible apply Keeps.after (State.modPo_keeps _ _ _)); case hv => decide)
    | ((with_reducible apply Keeps.after (State.trace_keeps _ _ _)); case hv => decide))
theorem trainingFlit_keeps (n : Nat) (i : Ident) (s : State) : Keeps 228608 s (trainingFlit n i s) := by
  unfold trainingFlit
  repeat' (first
    | with_reducible exact Keeps.refl _ _
    | with_reducible apply Keeps.ite
    | ((with_reducible apply Keeps.after (State.identified_keeps _ _ _)); case hv => decide)
    | ((with_reducible apply Keeps.after (State.modPo_keeps _ _ _)); case hv => decide))
theorem trainingFlitSend_keeps (n : Nat) (s : State) : Keeps 2048 s (trainingFlitSend n s) := by
  unfold trainingFlitSend
  repeat' (first
    | with_reducible exact Keeps.refl _ _
    | with_reducible apply Keeps.ite
    | ((with_reducible apply Keeps.after (State.modPo_keeps _ _ _)); case hv => decide))
theorem laneSignalLoss_keeps (n : Nat) (s : State) : Keeps 228608 s (laneSignalLoss n s) := by
  unfold laneSignalLoss
  repeat' (first
    | with_reducible exact Keeps.refl _ _
    | with_reducible apply Keeps.ite
    | ((with_reducible apply Keeps.after (State.portLost_keeps _ _)); case hv => decide)
    | ((with_reducible apply Keeps.after (State.portEnd_keeps _ _ _ _)); case hv => decide)
    | split)
theorem portSilence_keeps (n : Nat) (s : State) : Keeps 228608 s (portSilence n s) := by
  unfold portSilence
  repeat' (first
    | with_reducible exact Keeps.refl _ _
    | with_reducible apply Keeps.ite
    | ((with_reducible apply Keeps.after (State.portLost_keeps _ _)); case hv => decide))
theorem State.fecAdd_keeps (s : State) (n fixed : Nat) : Keeps 2304 s (State.fecAdd s n fixed) := by
  unfold State.fecAdd
  repeat' (first
    | with_reducible exact Keeps.refl _ _
    | with_reducible apply Keeps.ite
    | ((with_reducible apply Keeps.after (State.modPo_keeps _ _ _)); case hv => decide)
    | ((with_reducible apply Keeps.after (State.fixNote_keeps _ _ _ _ _)); case hv => decide))
theorem State.flitHead_keeps (s : State) (n : Nat) (h : FlitHdr) (nak : Bool) : Keeps 228608 s (State.flitHead s n h nak) := by
  unfold State.flitHead
  repeat' (first
    | with_reducible exact Keeps.refl _ _
    | with_reducible apply Keeps.ite
    | ((with_reducible apply Keeps.after (State.portLost_keeps _ _)); case hv => decide)
    | ((with_reducible apply Keeps.after (State.retrainLanes_keeps _ _)); case hv => decide)
    | ((with_reducible apply Keeps.after (State.drainCheck_keeps _ _)); case hv => decide)
    | ((with_reducible apply Keeps.after (State.pumpPort_keeps _ _ _ _)); case hv => decide)
    | ((with_reducible apply Keeps.after (State.setPo_keeps _ _ _)); case hv => decide)
    | ((with_reducible apply Keeps.after (State.fixNote_keeps _ _ _ _ _)); case hv => decide))
theorem State.badFlit_keeps (s : State) (n : Nat) : Keeps 2048 s (State.badFlit s n) := by
  unfold State.badFlit
  repeat' (first
    | with_reducible exact Keeps.refl _ _
    | with_reducible apply Keeps.ite
    | ((with_reducible apply Keeps.after (State.pumpPort_keeps _ _ _ _)); case hv => decide)
    | ((with_reducible apply Keeps.after (State.modPo_keeps _ _ _)); case hv => decide))
theorem applyModes_keeps (vs : List (BitVec 32)) (s : State) : Keeps 228608 s (applyModes vs s) := by
  induction vs generalizing s with
  | nil => exact Keeps.refl _ _
  | cons v vs ih =>
    unfold applyModes
    dsimp only
    have h : Keeps 228608 s (s.applyMode v) := (State.applyMode_keeps _ _).mono (by decide)
    exact Keeps.ite ((State.setLnk_keeps _ _).after (by decide) h) (h.trans (ih _))
theorem laneChangeDone_keeps (s : State) : Keeps 228608 s (laneChangeDone s) := by
  unfold laneChangeDone
  dsimp only
  refine Keeps.ite (Keeps.refl _ _) ?_
  have h : Keeps 228608 s ((List.range 39).foldl (fun (s : State) n => s.drainCheck n) s) :=
    Keeps.foldl (fun s x => (State.drainCheck_keeps s x).mono (by decide)) _ _
  exact Keeps.ite ((applyModes_keeps _ _).after (by decide) ((State.setLnk_keeps _ _).after (by decide) h)) h
theorem requestTimeout_keeps (tag : BitVec 16) (s : State) : Keeps 223488 s (requestTimeout tag s) := by
  unfold requestTimeout
  repeat' (first
    | with_reducible exact Keeps.refl _ _
    | ((with_reducible apply Keeps.after (State.chipLost_keeps _ _)); case hv => decide)
    | ((with_reducible apply Keeps.after (State.reqDone_keeps _ _ _ _ _)); case hv => decide)
    | split)

/-! ### Machine/Flash.lean -/

theorem State.fwResult_keeps (s : State) (st : BitVec 16) : Keeps 128 s (State.fwResult s st) := by
  unfold State.fwResult
  repeat' (first
    | with_reducible exact Keeps.refl _ _
    | ((with_reducible apply Keeps.after (State.setFw_keeps _ _)); case hv => decide))
theorem fwWrite_keeps (slot : Bool) (s0 : State) : Keeps 140720 s0 (fwWrite slot s0) := by
  unfold fwWrite
  repeat' (first
    | with_reducible exact Keeps.refl _ _
    | with_reducible apply Keeps.ite
    | ((with_reducible apply Keeps.after (State.setFlash_keeps _ _)); case hv => decide)
    | ((with_reducible apply Keeps.after (State.fwResult_keeps _ _)); case hv => decide)
    | ((with_reducible apply Keeps.after (State.setFw_keeps _ _)); case hv => decide)
    | ((with_reducible apply Keeps.after (State.vaultRead_keeps _ _ _)); case hv => decide))
theorem State.stageTouch_keeps (s : State) (w : ImgWrite) : Keeps 140560 s (State.stageTouch s w) := by
  unfold State.stageTouch
  repeat' (first
    | with_reducible exact Keeps.refl _ _
    | ((with_reducible apply Keeps.after (State.vaultRead_keeps _ _ _)); case hv => decide)
    | split)
theorem imageFuel_keeps  (fuel : Nat) (s : State) : Keeps 140560 s (imageFuel  fuel s) := by
  induction fuel generalizing s with
  | zero => exact Keeps.refl _ _
  | succ k ih =>
    unfold imageFuel
    try dsimp only
    repeat' (first
      | with_reducible exact Keeps.refl _ _
      | ((with_reducible apply Keeps.after (State.stageTouch_keeps _ _)); case hv => decide)
      | ((with_reducible apply Keeps.after (State.setCfg_keeps _ _)); case hv => decide)
      | ((with_reducible apply Keeps.after (ih _)); (case hv => decide))
      | split)
theorem State.imageNext_keeps (s : State) : Keeps 140560 s (State.imageNext s) := by
  unfold State.imageNext
  repeat' (first
    | with_reducible exact Keeps.refl _ _
    | with_reducible apply Keeps.ite
    | ((with_reducible apply Keeps.after (imageFuel_keeps _ _)); case hv => decide)
    | ((with_reducible apply Keeps.after (State.setCfg_keeps _ _)); case hv => decide))
theorem State.imageAsk_keeps (s : State) (w : ImgWrite) : Keeps 140560 s (State.imageAsk s w) := by
  unfold State.imageAsk
  repeat' (first
    | with_reducible exact Keeps.refl _ _
    | ((with_reducible apply Keeps.after (State.imageNext_keeps _)); case hv => decide)
    | ((with_reducible apply Keeps.after (State.setCfg_keeps _ _)); case hv => decide))
theorem cfgWriteNow_keeps (s : State) : Keeps 140560 s (cfgWriteNow s) := by
  unfold cfgWriteNow
  repeat' (first
    | with_reducible exact Keeps.refl _ _
    | with_reducible apply Keeps.ite
    | ((with_reducible apply Keeps.after (State.imageAsk_keeps _ _)); case hv => decide))
theorem configWrite_keeps (s : State) : Keeps 140688 s (configWrite s) := by
  unfold configWrite
  repeat' (first
    | with_reducible exact Keeps.refl _ _
    | ((with_reducible apply Keeps.after (cfgWriteNow_keeps _)); case hv => decide)
    | (with_reducible apply Keeps.after_orWait (by decide))
    | intro _)
theorem State.fieldStart_keeps (s : State) : Keeps 140560 s (State.fieldStart s) := by
  unfold State.fieldStart
  repeat' (first
    | with_reducible exact Keeps.refl _ _
    | with_reducible apply Keeps.ite
    | ((with_reducible apply Keeps.after (State.imageAsk_keeps _ _)); case hv => decide))
theorem State.slotWritten_keeps (s : State) (ok : Bool) : Keeps 132512 s (State.slotWritten s ok) := by
  unfold State.slotWritten
  repeat' (first
    | with_reducible exact Keeps.refl _ _
    | ((with_reducible apply Keeps.after (State.setFlash_keeps _ _)); case hv => decide)
    | ((with_reducible apply Keeps.after (State.setFw_keeps _ _)); case hv => decide)
    | ((with_reducible apply Keeps.after (State.trace_keeps _ _ _)); case hv => decide)
    | split)
theorem imageWriteDone_keeps (s : State) : Keeps 140592 s (imageWriteDone s) := by
  unfold imageWriteDone
  repeat' (first
    | with_reducible exact Keeps.refl _ _
    | ((with_reducible apply Keeps.after (State.imageNext_keeps _)); case hv => decide)
    | ((with_reducible apply Keeps.after (State.setFlash_keeps _ _)); case hv => decide)
    | ((with_reducible apply Keeps.after (State.setCfg_keeps _ _)); case hv => decide)
    | split)

/-! ### Machine/Boundary.lean -/

theorem phaseBoundary_keeps (t : TaskId) (s : State) : Keeps 257818 s (phaseBoundary t s) := by
  unfold phaseBoundary
  repeat' (first
    | with_reducible exact Keeps.refl _ _
    | ((with_reducible apply Keeps.after (State.rangeCloseAll_keeps _ _)); case hv => decide)
    | ((with_reducible apply Keeps.after (State.detachCheck_keeps _)); case hv => decide)
    | ((with_reducible apply Keeps.after (State.kvBoundary_keeps _ _ _)); case hv => decide)
    | ((with_reducible apply Keeps.after (State.phaseEnd_keeps _ _)); case hv => decide)
    | ((with_reducible apply Keeps.after (State.releaseTask_keeps _ _)); case hv => decide)
    | ((with_reducible apply Keeps.after (State.taskStop_keeps _ _ _ _)); case hv => decide)
    | ((with_reducible apply Keeps.after (State.modTask_keeps _ _ _)); case hv => decide)
    | ((with_reducible apply Keeps.after (State.trace_keeps _ _ _)); case hv => decide)
    | split
    | dsimp only)
theorem taskEnd_keeps (t : TaskId) (s : State) : Keeps 225050 s (taskEnd t s) := by
  unfold taskEnd
  repeat' (first
    | with_reducible exact Keeps.refl _ _
    | ((with_reducible apply Keeps.after (State.detachCheck_keeps _)); case hv => decide)
    | ((with_reducible apply Keeps.after (State.endTask_keeps _ _ _ _)); case hv => decide)
    | split)
theorem taskFail_keeps (t : TaskId) (s : State) : Keeps 225050 s (taskFail t s) := by
  unfold taskFail
  repeat' (first
    | with_reducible exact Keeps.refl _ _
    | ((with_reducible apply Keeps.after (State.detachCheck_keeps _)); case hv => decide)
    | ((with_reducible apply Keeps.after (State.endTask_keeps _ _ _ _)); case hv => decide)
    | split)

end Sys2Proof.Machine
end

