-- ==== Sys2Proof/Laws/KeepsRows.lean ====
section
/-! SUPPORT. What may change, one lemma per operation (see `Keeps`): memory rows, power-up, the host port, registers, remote requests and the remaining families. -/

namespace Sys2Proof.Machine

set_option linter.unusedSimpArgs false

/-! ### Machine/Tick.lean -/

theorem idleTick_keeps (s : State) : Keeps 4100 s (idleTick s) := by
  unfold idleTick
  dsimp only
  refine Keeps.ite ?_ (Keeps.refl _ _)
  refine Keeps.after_setClk (by decide) (fun h => ?_) ?_
  · split
    · exact gearTick_ok _ h
    · exact h
  · exact Keeps.after_setMer (by decide) (merNext_ok _ _) (Keeps.refl _ _)

/-! ### Machine/Power.lean -/

theorem pwrCapWrite_keeps (v : Nat) (s : State) : Keeps 2 s (pwrCapWrite v s) := by
  unfold pwrCapWrite
  repeat' (first
    | with_reducible exact Keeps.refl _ _
    | with_reducible apply Keeps.ite
    | ((with_reducible apply Keeps.after_setPwr); (case hv => decide); (case h => (unfold PwrOk; dsimp only; first | with_reducible exact fun h => h | with_reducible exact fun _ => dev_ok _ | exact fun _ => by decide | exact fun h => h))))
theorem State.addTrans_keeps (s : State) (t : Trans) : Keeps 2 s (State.addTrans s t) := by
  unfold State.addTrans
  repeat' (first
    | with_reducible exact Keeps.refl _ _
    | ((with_reducible apply Keeps.after_setPwr); (case hv => decide); (case h => (unfold PwrOk; dsimp only; first | with_reducible exact fun h => h | with_reducible exact fun _ => dev_ok _ | exact fun _ => by decide | exact fun h => h))))
theorem State.clampSettle_keeps (s : State) : Keeps 2 s (State.clampSettle s) := by
  unfold State.clampSettle
  try dsimp only
  repeat' (first
    | with_reducible exact Keeps.refl _ _
    | assumption
    | with_reducible apply Keeps.ite
    | ((with_reducible apply Keeps.after_setPwr); (case hv => decide); (case h => (unfold PwrOk; dsimp only; first | with_reducible exact fun h => h | with_reducible exact fun _ => dev_ok _ | exact fun _ => by decide | exact fun h => h)))
    | with_reducible apply Keeps.ite_fst
    | with_reducible apply Keeps.ite_snd
    | intro _
    | split
    | with_reducible apply Keeps.of_pair (by assumption)
    | with_reducible apply Keeps.of_pair2 (by assumption)
    | dsimp only)
theorem State.clusterLeave_keeps (s : State) (c : Nat) (goal : ClState) : Keeps 16386 s (State.clusterLeave s c goal) := by
  unfold State.clusterLeave
  try dsimp only
  repeat' (first
    | with_reducible exact Keeps.refl _ _
    | assumption
    | with_reducible apply Keeps.ite
    | ((with_reducible apply Keeps.after (State.clampSettle_keeps _)); case hv => decide)
    | ((with_reducible apply Keeps.after_modCl); (case hv => decide); (case h => (intro h; repeat' (first | with_reducible exact h | with_reducible rfl | with_reducible exact mwf_wrBytes _ _ _ h | with_reducible exact Cluster.spadWr_wf _ _ _ h | with_reducible exact Cluster.zeroSeg_wf _ _ h | with_reducible exact Cluster.zeroSegs_wf _ _ h | simp only [Cluster.setCore_spad, Cluster.setUnit_spad, Cluster.spadPoisonSet_spad, Cluster.taintHeads_spad] | split | dsimp only | exact h | exact Cluster.zeroSegs_wf _ _ h))))
    | ((with_reducible apply Keeps.after (State.reset_keeps )); case hv => decide)
    | with_reducible apply Keeps.ite_fst
    | with_reducible apply Keeps.ite_snd
    | intro _
    | split
    | with_reducible apply Keeps.of_pair (by assumption)
    | with_reducible apply Keeps.of_pair2 (by assumption)
    | dsimp only)
theorem State.refuse_keeps (s : State) (u : Nat) (st : BitVec 16) : Keeps 2 s (State.refuse s u st) := by
  unfold State.refuse
  repeat' (first
    | with_reducible exact Keeps.refl _ _
    | ((with_reducible apply Keeps.after_setPwr); (case hv => decide); (case h => (unfold PwrOk; dsimp only; first | with_reducible exact fun h => h | with_reducible exact fun _ => dev_ok _ | exact fun _ => by decide | exact fun h => h))))
theorem State.clusterCmd_keeps (s : State) (code c : Nat) : Keeps 16386 s (State.clusterCmd s code c) := by
  unfold State.clusterCmd
  repeat' (first
    | with_reducible exact Keeps.refl _ _
    | with_reducible apply Keeps.ite
    | ((with_reducible apply Keeps.after (State.refuse_keeps _ _ _)); case hv => decide)
    | ((with_reducible apply Keeps.after (State.clusterLeave_keeps _ _ _)); case hv => decide)
    | ((with_reducible apply Keeps.after (State.addTrans_keeps _ _)); case hv => decide)
    | split)
theorem State.darkNotices_keeps (s : State) : Keeps 2048 s (State.darkNotices s) := by
  unfold State.darkNotices
  repeat' (first
    | with_reducible exact Keeps.refl _ _
    | ((with_reducible apply Keeps.after (State.tellPorts_keeps _ _ _ _)); case hv => decide))
theorem State.enterLow_keeps (s : State) : Keeps 228610 s (State.enterLow s) := by
  unfold State.enterLow
  repeat' (first
    | with_reducible exact Keeps.refl _ _
    | ((with_reducible apply Keeps.after (State.modGrp_keeps _ _ _)); case hv => decide)
    | ((with_reducible apply Keeps.after (State.darkNotices_keeps _)); case hv => decide)
    | ((with_reducible apply Keeps.after (State.clusterLeave_keeps _ _ _)); case hv => decide)
    | ((with_reducible apply Keeps.after (State.addTrans_keeps _ _)); case hv => decide)
    | ((with_reducible apply Keeps.after (State.setAllLit_keeps _)); case hv => decide)
    | ((with_reducible apply Keeps.after (State.trace_keeps _ _ _)); case hv => decide)
    | ((with_reducible apply Keeps.after_setPwr); (case hv => decide); (case h => (unfold PwrOk; dsimp only; first | with_reducible exact fun h => h | with_reducible exact fun _ => dev_ok _ | exact fun _ => by decide | exact fun h => h)))
    | with_reducible refine Keeps.trans ?_ (Keeps.foldl (fun s x => ?_) _ _))
theorem State.enterOff_keeps (s : State) : Keeps 142610 s (State.enterOff s) := by
  unfold State.enterOff
  repeat' (first
    | with_reducible exact Keeps.refl _ _
    | with_reducible apply Keeps.ite
    | ((with_reducible apply Keeps.after (State.fieldStart_keeps _)); case hv => decide)
    | ((with_reducible apply Keeps.after (State.tellPorts_keeps _ _ _ _)); case hv => decide)
    | ((with_reducible apply Keeps.after (State.refuse_keeps _ _ _)); case hv => decide)
    | ((with_reducible apply Keeps.after_setPwr); (case hv => decide); (case h => (unfold PwrOk; dsimp only; first | with_reducible exact fun h => h | with_reducible exact fun _ => dev_ok _ | exact fun _ => by decide | exact fun h => h))))
theorem State.leaveLow_keeps (s : State) : Keeps 228610 s (State.leaveLow s) := by
  unfold State.leaveLow
  repeat' (first
    | with_reducible exact Keeps.refl _ _
    | ((with_reducible apply Keeps.after (State.modGrp_keeps _ _ _)); case hv => decide)
    | ((with_reducible apply Keeps.after (State.addTrans_keeps _ _)); case hv => decide)
    | ((with_reducible apply Keeps.after (State.setAllLit_keeps _)); case hv => decide)
    | ((with_reducible apply Keeps.after_setPwr); (case hv => decide); (case h => (unfold PwrOk; dsimp only; first | with_reducible exact fun h => h | with_reducible exact fun _ => dev_ok _ | exact fun _ => by decide | exact fun h => h)))
    | with_reducible refine Keeps.trans ?_ (Keeps.foldl (fun s x => ?_) _ _)
    | split)
theorem State.deviceCmd_keeps (s : State) (code : Nat) : Keeps 228626 s (State.deviceCmd s code) := by
  unfold State.deviceCmd
  repeat' (first
    | with_reducible exact Keeps.refl _ _
    | ((with_reducible apply Keeps.after (State.leaveLow_keeps _)); case hv => decide)
    | ((with_reducible apply Keeps.after (State.enterOff_keeps _)); case hv => decide)
    | ((with_reducible apply Keeps.after (State.enterLow_keeps _)); case hv => decide)
    | ((with_reducible apply Keeps.after (State.refuse_keeps _ _ _)); case hv => decide)
    | ((with_reducible apply Keeps.after (State.addTrans_keeps _ _)); case hv => decide)
    | ((with_reducible apply Keeps.after_setPwr); (case hv => decide); (case h => (unfold PwrOk; dsimp only; first | with_reducible exact fun h => h | with_reducible exact fun _ => dev_ok _ | exact fun _ => by decide | exact fun h => h)))
    | split)
theorem State.gearCmd_keeps (s : State) (code : Nat) : Keeps 131078 s (State.gearCmd s code) := by
  unfold State.gearCmd
  repeat' (first
    | with_reducible exact Keeps.refl _ _
    | with_reducible apply Keeps.ite
    | ((with_reducible apply Keeps.after_setClk); (case hv => decide); (case h => (first | exact clkOk_done _ rfl rfl rfl | exact clkOk_start _ rfl rfl rfl | (unfold ClkOk; dsimp only; exact fun h => h) | skip; unfold ClkOk; dsimp only; first | with_reducible exact fun h => h | with_reducible exact clkOk_done _ rfl rfl rfl | exact clkOk_start _ rfl rfl rfl | exact fun h => h)))
    | ((with_reducible apply Keeps.after (State.refuse_keeps _ _ _)); case hv => decide)
    | ((with_reducible apply Keeps.after (State.addTrans_keeps _ _)); case hv => decide)
    | ((with_reducible apply Keeps.after (State.bump_keeps _ _)); case hv => decide))
theorem State.groupCmd_keeps (s : State) (code g : Nat) : Keeps 132354 s (State.groupCmd s code g) := by
  unfold State.groupCmd
  repeat' (first
    | with_reducible exact Keeps.refl _ _
    | with_reducible apply Keeps.ite
    | ((with_reducible apply Keeps.after (State.modGrp_keeps _ _ _)); case hv => decide)
    | ((with_reducible apply Keeps.after (State.refuse_keeps _ _ _)); case hv => decide)
    | ((with_reducible apply Keeps.after (State.addTrans_keeps _ _)); case hv => decide)
    | ((with_reducible apply Keeps.after (State.trace_keeps _ _ _)); case hv => decide)
    | split)
theorem State.pwrSettle_keeps (s : State) : Keeps 2 s (State.pwrSettle s) := by
  unfold State.pwrSettle
  repeat' (first
    | with_reducible exact Keeps.refl _ _
    | with_reducible apply Keeps.ite
    | ((with_reducible apply Keeps.after_setPwr); (case hv => decide); (case h => (unfold PwrOk; dsimp only; first | with_reducible exact fun h => h | with_reducible exact fun _ => dev_ok _ | exact fun _ => by decide | exact fun h => h))))
theorem State.segmentCmd_keeps (s : State) (code c g : Nat) : Keeps 16386 s (State.segmentCmd s code c g) := by
  unfold State.segmentCmd
  repeat' (first
    | with_reducible exact Keeps.refl _ _
    | with_reducible apply Keeps.ite
    | ((with_reducible apply Keeps.after (State.refuse_keeps _ _ _)); case hv => decide)
    | ((with_reducible apply Keeps.after (State.addTrans_keeps _ _)); case hv => decide)
    | ((with_reducible apply Keeps.after_modCl); (case hv => decide); (case h => (intro h; repeat' (first | with_reducible exact h | with_reducible rfl | with_reducible exact mwf_wrBytes _ _ _ h | with_reducible exact Cluster.spadWr_wf _ _ _ h | with_reducible exact Cluster.zeroSeg_wf _ _ h | with_reducible exact Cluster.zeroSegs_wf _ _ h | simp only [Cluster.setCore_spad, Cluster.setUnit_spad, Cluster.spadPoisonSet_spad, Cluster.taintHeads_spad] | split | dsimp only | exact h | exact Cluster.zeroSegs_wf _ _ h)))))
theorem State.pwrApply_keeps (s : State) (w : Word) : Keeps 228630 s (State.pwrApply s w) := by
  unfold State.pwrApply
  repeat' (first
    | with_reducible exact Keeps.refl _ _
    | with_reducible apply Keeps.ite
    | ((with_reducible apply Keeps.after (State.segmentCmd_keeps _ _ _ _)); case hv => decide)
    | ((with_reducible apply Keeps.after (State.pwrSettle_keeps _)); case hv => decide)
    | ((with_reducible apply Keeps.after (State.groupCmd_keeps _ _ _)); case hv => decide)
    | ((with_reducible apply Keeps.after (State.gearCmd_keeps _ _)); case hv => decide)
    | ((with_reducible apply Keeps.after (State.deviceCmd_keeps _ _)); case hv => decide)
    | ((with_reducible apply Keeps.after (State.clusterCmd_keeps _ _ _)); case hv => decide)
    | ((with_reducible apply Keeps.after (State.trace_keeps _ _ _)); case hv => decide)
    | ((with_reducible apply Keeps.after_setPwr); (case hv => decide); (case h => (unfold PwrOk; dsimp only; first | with_reducible exact fun h => h | with_reducible exact fun _ => dev_ok _ | exact fun _ => by decide | exact fun h => h)))
    | with_reducible refine Keeps.trans ?_ (Keeps.foldl (fun s x => ?_) _ _)
    | split)
theorem pwrCmd_keeps (w : Word) (s : State) : Keeps 228630 s (pwrCmd w s) := by
  unfold pwrCmd
  repeat' (first
    | with_reducible exact Keeps.refl _ _
    | with_reducible apply Keeps.ite
    | ((with_reducible apply Keeps.after (State.pwrApply_keeps _ _)); case hv => decide)
    | ((with_reducible apply Keeps.after_setPwr); (case hv => decide); (case h => (unfold PwrOk; dsimp only; first | with_reducible exact fun h => h | with_reducible exact fun _ => dev_ok _ | exact fun _ => by decide | exact fun h => h))))
theorem State.railsOff_keeps (s : State) : Keeps 131070 s (State.railsOff s) where
  pwr h := absurd h (by decide)
  clk h := absurd h (by decide)
  glb h := absurd h (by decide)
  cfg h := absurd h (by decide)
  flash h := absurd h (by decide)
  grd h := absurd h (by decide)
  fw h := absurd h (by decide)
  log h := absurd h (by decide)
  hif h := absurd h (by decide)
  mem h := absurd h (by decide)
  lnk h := absurd h (by decide)
  mer h := absurd h (by decide)
  parts h := absurd h (by decide)
  clusters h := absurd h (by decide)
  ccores h := absurd h (by decide)
  tasks h := absurd h (by decide)
  freeTick _ := rfl
  queue := rfl
  canon h := ⟨⟨rfl, h.1.2.1, rfl⟩, fun _ => rfl⟩
  legal _ := ⟨(by decide : (0 : BitVec 2) ≠ 3), (by unfold ClkOk; decide : ClkOk Clk.reset), (⟨fun h => absurd h (by decide), by decide⟩ : MerOk Mer.reset)⟩
theorem State.clusterDone_keeps (s : State) (c : Nat) (goal : ClState) : Keeps 16384 s (State.clusterDone s c goal) := by
  unfold State.clusterDone
  repeat' (first
    | with_reducible exact Keeps.refl _ _
    | with_reducible apply Keeps.ite
    | ((with_reducible apply Keeps.after_modCl); (case hv => decide); (case h => (intro h; repeat' (first | with_reducible exact h | with_reducible rfl | with_reducible exact mwf_wrBytes _ _ _ h | with_reducible exact Cluster.spadWr_wf _ _ _ h | with_reducible exact Cluster.zeroSeg_wf _ _ h | with_reducible exact Cluster.zeroSegs_wf _ _ h | simp only [Cluster.setCore_spad, Cluster.setUnit_spad, Cluster.spadPoisonSet_spad, Cluster.taintHeads_spad] | split | dsimp only | exact h | exact Cluster.zeroSegs_wf _ _ h)))))
theorem State.segmentDone_keeps (s : State) (c g : Nat) (on : Bool) : Keeps 16384 s (State.segmentDone s c g on) := by
  unfold State.segmentDone
  repeat' (first
    | with_reducible exact Keeps.refl _ _
    | with_reducible apply Keeps.ite
    | ((with_reducible apply Keeps.after_modCl); (case hv => decide); (case h => (intro h; repeat' (first | with_reducible exact h | with_reducible rfl | with_reducible exact mwf_wrBytes _ _ _ h | with_reducible exact Cluster.spadWr_wf _ _ _ h | with_reducible exact Cluster.zeroSeg_wf _ _ h | with_reducible exact Cluster.zeroSegs_wf _ _ h | simp only [Cluster.setCore_spad, Cluster.setUnit_spad, Cluster.spadPoisonSet_spad, Cluster.taintHeads_spad] | split | dsimp only | exact h | exact Cluster.zeroSegs_wf _ _ h)))))
theorem State.groupClear_keeps (s : State) (g : Nat) : Keeps 1024 s (State.groupClear s g) := by
  unfold State.groupClear
  repeat' (first
    | with_reducible exact Keeps.refl _ _
    | ((with_reducible apply Keeps.after_setMem); (case hv => decide); (case h => (intro h; obtain ⟨h1, h2, h3⟩ := h; unfold MemOk; dsimp only; refine ⟨?_, ?_, ?_⟩ <;> first | (with_reducible first | exact h1 | exact h2 | exact h3 | exact mwf_wrBytes _ _ _ h1 | exact mwf_wrBytes _ _ _ h2 | exact mwf_wrBytes _ _ _ h3 | exact mwf_filter _ _ h1 | exact mwf_foldl_mset _ _ h2 | exact mwf_nil 0 | exact mwf_mset 0 _ _ _ h2 | exact loadInto_wf _ _ h3 | exact loadInto_wf _ _ (mwf_nil 0)) | exact h1 | exact h2 | exact h3))))
theorem drainComplete_keeps (g : Nat) (s : State) : Keeps 1026 s (drainComplete g s) := by
  unfold drainComplete
  repeat' (first
    | with_reducible exact Keeps.refl _ _
    | ((with_reducible apply Keeps.after (State.groupClear_keeps _ _)); case hv => decide)
    | ((with_reducible apply Keeps.after (State.pwrSettle_keeps _)); case hv => decide)
    | ((with_reducible apply Keeps.after (State.modGrp_keeps _ _ _)); case hv => decide)
    | split)
theorem drainTimeout_keeps (g : Nat) (s : State) : Keeps 1026 s (drainTimeout g s) := by
  unfold drainTimeout
  repeat' (first
    | with_reducible exact Keeps.refl _ _
    | with_reducible apply Keeps.ite
    | ((with_reducible apply Keeps.after (State.pwrSettle_keeps _)); case hv => decide)
    | ((with_reducible apply Keeps.after (State.modGrp_keeps _ _ _)); case hv => decide)
    | ((with_reducible apply Keeps.after (State.refuse_keeps _ _ _)); case hv => decide))
theorem groupFillDone_keeps (g : Nat) (s : State) : Keeps 1026 s (groupFillDone g s) := by
  unfold groupFillDone
  repeat' (first
    | with_reducible exact Keeps.refl _ _
    | with_reducible apply Keeps.ite
    | ((with_reducible apply Keeps.after (State.groupClear_keeps _ _)); case hv => decide)
    | ((with_reducible apply Keeps.after (State.pwrSettle_keeps _)); case hv => decide)
    | ((with_reducible apply Keeps.after (State.modGrp_keeps _ _ _)); case hv => decide))
theorem deviceQuiesced_keeps (s : State) : Keeps 2 s (deviceQuiesced s) := by
  unfold deviceQuiesced
  repeat' (first
    | with_reducible exact Keeps.refl _ _
    | with_reducible apply Keeps.ite
    | ((with_reducible apply Keeps.after (State.pwrSettle_keeps _)); case hv => decide)
    | ((with_reducible apply Keeps.after_setPwr); (case hv => decide); (case h => (unfold PwrOk; dsimp only; first | with_reducible exact fun h => h | with_reducible exact fun _ => dev_ok _ | exact fun _ => by decide | exact fun h => h))))
theorem stateParkTimeout_keeps (s : State) : Keeps 255762 s (stateParkTimeout s) := by
  unfold stateParkTimeout
  repeat' (first
    | with_reducible exact Keeps.refl _ _
    | with_reducible apply Keeps.ite
    | ((with_reducible apply Keeps.after (State.pwrSettle_keeps _)); case hv => decide)
    | ((with_reducible apply Keeps.after (State.refuse_keeps _ _ _)); case hv => decide)
    | ((with_reducible apply Keeps.after (State.unpark_keeps _)); case hv => decide)
    | ((with_reducible apply Keeps.after_setPwr); (case hv => decide); (case h => (unfold PwrOk; dsimp only; first | with_reducible exact fun h => h | with_reducible exact fun _ => dev_ok _ | exact fun _ => by decide | exact fun h => h))))
theorem State.gearDone_keeps (s : State) (n : Fin 3) : Keeps 132358 s (State.gearDone s n) := by
  unfold State.gearDone
  repeat' (first
    | with_reducible exact Keeps.refl _ _
    | ((with_reducible apply Keeps.after_setClk); (case hv => decide); (case h => (first | exact clkOk_done _ rfl rfl rfl | exact clkOk_start _ rfl rfl rfl | (unfold ClkOk; dsimp only; exact fun h => h) | skip; unfold ClkOk; dsimp only; first | with_reducible exact fun h => h | with_reducible exact clkOk_done _ rfl rfl rfl | exact clkOk_start _ rfl rfl rfl | exact fun h => h)))
    | ((with_reducible apply Keeps.after (State.trace_keeps _ _ _)); case hv => decide)
    | ((with_reducible apply Keeps.after (State.bump_keeps _ _)); case hv => decide)
    | ((with_reducible apply Keeps.after_setPwr); (case hv => decide); (case h => (unfold PwrOk; dsimp only; first | with_reducible exact fun h => h | with_reducible exact fun _ => dev_ok _ | exact fun _ => by decide | exact fun h => h))))
theorem droopDetect_keeps (c : Nat) (s : State) : Keeps 148738 s (droopDetect c s) := by
  unfold droopDetect
  repeat' (first
    | with_reducible exact Keeps.refl _ _
    | with_reducible apply Keeps.ite
    | ((with_reducible apply Keeps.after_modCl); (case hv => decide); (case h => (intro h; repeat' (first | with_reducible exact h | with_reducible rfl | with_reducible exact mwf_wrBytes _ _ _ h | with_reducible exact Cluster.spadWr_wf _ _ _ h | with_reducible exact Cluster.zeroSeg_wf _ _ h | with_reducible exact Cluster.zeroSegs_wf _ _ h | simp only [Cluster.setCore_spad, Cluster.setUnit_spad, Cluster.spadPoisonSet_spad, Cluster.taintHeads_spad] | split | dsimp only | exact h | exact Cluster.zeroSegs_wf _ _ h))))
    | ((with_reducible apply Keeps.after (State.trace_keeps _ _ _)); case hv => decide)
    | ((with_reducible apply Keeps.after_setPwr); (case hv => decide); (case h => (unfold PwrOk; dsimp only; first | with_reducible exact fun h => h | with_reducible exact fun _ => dev_ok _ | exact fun _ => by decide | exact fun h => h))))
theorem State.afterHold_keeps (s : State) : Keeps 257822 s (State.afterHold s) := by
  unfold State.afterHold
  try dsimp only
  repeat' (first
    | with_reducible exact Keeps.refl _ _
    | assumption
    | with_reducible apply Keeps.ite
    | ((with_reducible apply Keeps.after (droopDetect_keeps _ _)); case hv => decide)
    | ((with_reducible apply Keeps.after (phaseBoundary_keeps _ _)); case hv => decide)
    | ((with_reducible apply Keeps.after_setClk); (case hv => decide); (case h => (first | exact clkOk_done _ rfl rfl rfl | exact clkOk_start _ rfl rfl rfl | (unfold ClkOk; dsimp only; exact fun h => h) | skip; unfold ClkOk; dsimp only; first | with_reducible exact fun h => h | with_reducible exact clkOk_done _ rfl rfl rfl | exact clkOk_start _ rfl rfl rfl | exact fun h => h)))
    | with_reducible refine Keeps.trans ?_ (Keeps.foldl (fun s x => ?_) _ _)
    | with_reducible refine Keeps.trans ?_ (Keeps.foldlPair (fun s x => ?_) _ _)
    | with_reducible apply Keeps.ite_fst
    | with_reducible apply Keeps.ite_snd
    | intro _
    | split
    | with_reducible apply Keeps.of_pair (by assumption)
    | with_reducible apply Keeps.of_pair2 (by assumption)
    | dsimp only)
theorem droopRecover_keeps (c : Nat) (s : State) : Keeps 16386 s (droopRecover c s) := by
  unfold droopRecover
  repeat' (first
    | with_reducible exact Keeps.refl _ _
    | with_reducible apply Keeps.ite
    | ((with_reducible apply Keeps.after (State.clampSettle_keeps _)); case hv => decide)
    | ((with_reducible apply Keeps.after_modCl); (case hv => decide); (case h => (intro h; repeat' (first | with_reducible exact h | with_reducible rfl | with_reducible exact mwf_wrBytes _ _ _ h | with_reducible exact Cluster.spadWr_wf _ _ _ h | with_reducible exact Cluster.zeroSeg_wf _ _ h | with_reducible exact Cluster.zeroSegs_wf _ _ h | simp only [Cluster.setCore_spad, Cluster.setUnit_spad, Cluster.spadPoisonSet_spad, Cluster.taintHeads_spad] | split | dsimp only | exact h | exact Cluster.zeroSegs_wf _ _ h)))))
theorem State.pwrWaited_keeps (s : State) : Keeps 228630 s (State.pwrWaited s) := by
  unfold State.pwrWaited
  repeat' (first
    | with_reducible exact Keeps.refl _ _
    | ((with_reducible apply Keeps.after (State.pwrApply_keeps _ _)); case hv => decide)
    | ((with_reducible apply Keeps.after_setPwr); (case hv => decide); (case h => (unfold PwrOk; dsimp only; first | with_reducible exact fun h => h | with_reducible exact fun _ => dev_ok _ | exact fun _ => by decide | exact fun h => h)))
    | split)
theorem State.transDone_keeps (s : State) (t : Trans) : Keeps 148742 s (State.transDone s t) := by
  unfold State.transDone
  repeat' (first
    | with_reducible exact Keeps.refl _ _
    | ((with_reducible apply Keeps.after (State.gearDone_keeps _ _)); case hv => decide)
    | ((with_reducible apply Keeps.after (State.segmentDone_keeps _ _ _ _)); case hv => decide)
    | ((with_reducible apply Keeps.after (State.clusterDone_keeps _ _ _)); case hv => decide)
    | ((with_reducible apply Keeps.after (State.modGrp_keeps _ _ _)); case hv => decide)
    | ((with_reducible apply Keeps.after_setPwr); (case hv => decide); (case h => (unfold PwrOk; dsimp only; first | with_reducible exact fun h => h | with_reducible exact fun _ => dev_ok _ | exact fun _ => by decide | exact fun h => h)))
    | split)
theorem unitTransitionDone_keeps (s : State) : Keeps 261918 s (unitTransitionDone s) := by
  unfold unitTransitionDone
  repeat' (first
    | with_reducible exact Keeps.refl _ _
    | with_reducible apply Keeps.ite
    | ((with_reducible apply Keeps.after (State.transDone_keeps _ _)); case hv => decide)
    | ((with_reducible apply Keeps.after (State.afterHold_keeps _)); case hv => decide)
    | ((with_reducible apply Keeps.after (State.pwrSettle_keeps _)); case hv => decide)
    | ((with_reducible apply Keeps.after (State.drainCheck_keeps _ _)); case hv => decide)
    | ((with_reducible apply Keeps.after (State.unpark_keeps _)); case hv => decide)
    | ((with_reducible apply Keeps.after_setPwr); (case hv => decide); (case h => (unfold PwrOk; dsimp only; first | with_reducible exact fun h => h | with_reducible exact fun _ => dev_ok _ | exact fun _ => by decide | exact fun h => h)))
    | with_reducible refine Keeps.trans ?_ (Keeps.foldl (fun s x => ?_) _ _))
theorem State.giveEnergy_keeps (s : State) (p mj : Nat) : Keeps 204800 s (State.giveEnergy s p mj) := by
  unfold State.giveEnergy
  repeat' (first
    | with_reducible exact Keeps.refl _ _
    | ((with_reducible apply Keeps.after (State.modPt_keeps _ _ _)); case hv => decide)
    | ((with_reducible apply Keeps.after (State.modTask_keeps _ _ _)); case hv => decide)
    | ((with_reducible apply Keeps.after (State.bump_keeps _ _)); case hv => decide)
    | with_reducible refine Keeps.trans ?_ (Keeps.foldlPair (fun s x => ?_) _ _)
    | split)
theorem State.setHeld_keeps (s : State) : Keeps 2 s (State.setHeld s) := by
  unfold State.setHeld
  repeat' (first
    | with_reducible exact Keeps.refl _ _
    | ((with_reducible apply Keeps.after_setPwr); (case hv => decide); (case h => (unfold PwrOk; dsimp only; first | with_reducible exact fun h => h | with_reducible exact fun _ => dev_ok _ | exact fun _ => by decide | exact fun h => h))))
theorem capPeriod_keeps (inputMw clusterMw : Nat) (partMj : List (Fin 64 × Nat)) (unattrMj : Nat) (s : State) : Keeps 222466 s (capPeriod inputMw clusterMw partMj unattrMj s) := by
  unfold capPeriod
  repeat' (first
    | with_reducible exact Keeps.refl _ _
    | with_reducible apply Keeps.ite
    | ((with_reducible apply Keeps.after (State.setHeld_keeps _)); case hv => decide)
    | ((with_reducible apply Keeps.after (State.giveEnergy_keeps _ _ _)); case hv => decide)
    | ((with_reducible apply Keeps.after (State.note_keeps _ _ _ _ _)); case hv => decide)
    | ((with_reducible apply Keeps.after (State.applyLimits_keeps _ _)); case hv => decide)
    | ((with_reducible apply Keeps.after (State.trace_keeps _ _ _)); case hv => decide)
    | ((with_reducible apply Keeps.after_setPwr); (case hv => decide); (case h => (unfold PwrOk; dsimp only; first | with_reducible exact fun h => h | with_reducible exact fun _ => dev_ok _ | exact fun _ => by decide | exact fun h => h)))
    | with_reducible refine Keeps.trans ?_ (Keeps.foldl (fun s x => ?_) _ _))
theorem State.toStage_keeps (s : State) (k : Nat) : Keeps 148738 s (State.toStage s k) := by
  unfold State.toStage
  repeat' (first
    | with_reducible exact Keeps.refl _ _
    | with_reducible apply Keeps.ite
    | ((with_reducible apply Keeps.after (State.setHeld_keeps _)); case hv => decide)
    | ((with_reducible apply Keeps.after (State.note_keeps _ _ _ _ _)); case hv => decide)
    | ((with_reducible apply Keeps.after (State.applyLimits_keeps _ _)); case hv => decide)
    | ((with_reducible apply Keeps.after_setPwr); (case hv => decide); (case h => (unfold PwrOk; dsimp only; first | with_reducible exact fun h => h | with_reducible exact fun _ => dev_ok _ | exact fun _ => by decide | exact fun h => h))))
theorem State.refreshGroup_keeps (s : State) (g : Nat) : Keeps 132352 s (State.refreshGroup s g) := by
  unfold State.refreshGroup
  repeat' (first
    | with_reducible exact Keeps.refl _ _
    | with_reducible apply Keeps.ite
    | ((with_reducible apply Keeps.after (State.modGrp_keeps _ _ _)); case hv => decide)
    | ((with_reducible apply Keeps.after (State.note_keeps _ _ _ _ _)); case hv => decide))
theorem thermalSample_keeps (rs : List (Fin 256 × BitVec 16)) (s : State) : Keeps 148738 s (thermalSample rs s) := by
  unfold thermalSample
  repeat' (first
    | with_reducible exact Keeps.refl _ _
    | with_reducible apply Keeps.ite
    | ((with_reducible apply Keeps.after (State.refreshGroup_keeps _ _)); case hv => decide)
    | ((with_reducible apply Keeps.after (State.toStage_keeps _ _)); case hv => decide)
    | ((with_reducible apply Keeps.after_setPwr); (case hv => decide); (case h => (unfold PwrOk; dsimp only; first | with_reducible exact fun h => h | with_reducible exact fun _ => dev_ok _ | exact fun _ => by decide | exact fun h => h)))
    | with_reducible refine Keeps.trans ?_ (Keeps.foldl (fun s x => ?_) _ _))
theorem thermalStageLeave_keeps (s : State) : Keeps 148738 s (thermalStageLeave s) := by
  unfold thermalStageLeave
  repeat' (first
    | with_reducible exact Keeps.refl _ _
    | with_reducible apply Keeps.ite
    | ((with_reducible apply Keeps.after (State.toStage_keeps _ _)); case hv => decide))
theorem thermalTrip_keeps (n : Nat) (s : State) : Keeps 262142 s (thermalTrip n s) := by
  unfold thermalTrip
  repeat' (first
    | with_reducible exact Keeps.refl _ _
    | with_reducible apply Keeps.ite
    | ((with_reducible apply Keeps.after (State.fatal_keeps _ _)); case hv => decide)
    | ((with_reducible apply Keeps.after (State.railsOff_keeps _)); case hv => decide)
    | ((with_reducible apply Keeps.after_setPwr); (case hv => decide); (case h => (unfold PwrOk; dsimp only; first | with_reducible exact fun h => h | with_reducible exact fun _ => dev_ok _ | exact fun _ => by decide | exact fun h => h))))

/-! ### Machine/Guard.lean -/

theorem attestNow_keeps (part : BitVec 8) (s : State) : Keeps 132416 s (attestNow part s) := by
  unfold attestNow
  repeat' (first
    | with_reducible exact Keeps.refl _ _
    | with_reducible apply Keeps.ite
    | ((with_reducible apply Keeps.after (State.setGrd_keeps _ _)); case hv => decide)
    | ((with_reducible apply Keeps.after (State.trace_keeps _ _ _)); case hv => decide))
theorem attest_keeps (part : BitVec 8) (s : State) : Keeps 132544 s (attest part s) := by
  unfold attest
  repeat' (first
    | with_reducible exact Keeps.refl _ _
    | ((with_reducible apply Keeps.after (attestNow_keeps _ _)); case hv => decide)
    | (with_reducible apply Keeps.after_orWait (by decide))
    | intro _)
theorem State.guardEnd_keeps (s : State) (st : BitVec 16) (op : Nat) : Keeps 132416 s (State.guardEnd s st op) := by
  unfold State.guardEnd
  repeat' (first
    | with_reducible exact Keeps.refl _ _
    | with_reducible apply Keeps.ite
    | ((with_reducible apply Keeps.after (State.setGrd_keeps _ _)); case hv => decide)
    | ((with_reducible apply Keeps.after (State.note_keeps _ _ _ _ _)); case hv => decide)
    | ((with_reducible apply Keeps.after (State.trace_keeps _ _ _)); case hv => decide))
theorem State.guardCheck_keeps (s : State) (bs : List Byte) : Keeps 132416 s (State.guardCheck s bs) := by
  unfold State.guardCheck
  repeat' (first
    | with_reducible exact Keeps.refl _ _
    | ((with_reducible apply Keeps.after (State.guardEnd_keeps _ _ _)); case hv => decide)
    | ((with_reducible apply Keeps.after (State.setGrd_keeps _ _)); case hv => decide)
    | ((with_reducible apply Keeps.after (State.setFreeTick_keeps _ _)); case hv => decide)
    | split
    | dsimp only)
theorem submitNow_keeps (length : Nat) (s : State) : Keeps 132416 s (submitNow length s) := by
  unfold submitNow
  repeat' (first
    | with_reducible exact Keeps.refl _ _
    | with_reducible apply Keeps.ite
    | ((with_reducible apply Keeps.after (State.guardCheck_keeps _ _)); case hv => decide)
    | ((with_reducible apply Keeps.after (State.guardEnd_keeps _ _ _)); case hv => decide)
    | ((with_reducible apply Keeps.after (State.setGrd_keeps _ _)); case hv => decide))
theorem submit_keeps (length : BitVec 15) (s : State) : Keeps 132544 s (submit length s) := by
  unfold submit
  repeat' (first
    | with_reducible exact Keeps.refl _ _
    | ((with_reducible apply Keeps.after (submitNow_keeps _ _)); case hv => decide)
    | (with_reducible apply Keeps.after_orWait (by decide))
    | intro _)
theorem State.kvSeed_keeps (s : State) (p : Nat) : Keeps 8192 s (State.kvSeed s p) := by
  unfold State.kvSeed
  repeat' (first
    | with_reducible exact Keeps.refl _ _
    | ((with_reducible apply Keeps.after (State.modPt_keeps _ _ _)); case hv => decide))
theorem State.installPart_keeps (s : State) (g : GuardState) (p : Nat) : Keeps 139264 s (State.installPart s g p) := by
  unfold State.installPart
  repeat' (first
    | with_reducible exact Keeps.refl _ _
    | with_reducible apply Keeps.ite
    | ((with_reducible apply Keeps.after (State.kvSeed_keeps _ _)); case hv => decide)
    | ((with_reducible apply Keeps.after (State.setPt_keeps _ _ _)); case hv => decide)
    | ((with_reducible apply Keeps.after (State.reset_keeps )); case hv => decide)
    | ((with_reducible apply Keeps.after (State.bump_keeps _ _)); case hv => decide))
theorem State.zeroExtent_keeps (s : State) (x : Nat) : Keeps 1024 s (State.zeroExtent s x) := by
  unfold State.zeroExtent
  repeat' (first
    | with_reducible exact Keeps.refl _ _
    | ((with_reducible apply Keeps.after_setMem); (case hv => decide); (case h => (intro h; obtain ⟨h1, h2, h3⟩ := h; unfold MemOk; dsimp only; refine ⟨?_, ?_, ?_⟩ <;> first | (with_reducible first | exact h1 | exact h2 | exact h3 | exact mwf_wrBytes _ _ _ h1 | exact mwf_wrBytes _ _ _ h2 | exact mwf_wrBytes _ _ _ h3 | exact mwf_filter _ _ h1 | exact mwf_foldl_mset _ _ h2 | exact mwf_nil 0 | exact mwf_mset 0 _ _ _ h2 | exact loadInto_wf _ _ h3 | exact loadInto_wf _ _ (mwf_nil 0)) | exact h1 | exact h2 | exact h3))))
theorem State.installCluster_keeps (s : State) (g : GuardState) (c : Nat) : Keeps 16384 s (State.installCluster s g c) := by
  unfold State.installCluster
  repeat' (first
    | with_reducible exact Keeps.refl _ _
    | ((with_reducible apply Keeps.after_setCl); (case hv => decide); (case h => (intro h; repeat' (first | with_reducible exact h | with_reducible rfl | with_reducible exact mwf_wrBytes _ _ _ h | with_reducible exact Cluster.spadWr_wf _ _ _ h | with_reducible exact Cluster.zeroSeg_wf _ _ h | with_reducible exact Cluster.zeroSegs_wf _ _ h | simp only [Cluster.setCore_spad, Cluster.setUnit_spad, Cluster.spadPoisonSet_spad, Cluster.taintHeads_spad] | split | dsimp only | exact h | exact Cluster.zeroSegs_wf _ _ h)))))
theorem State.dropOrphans_keeps (s : State) : Keeps 225050 s (State.dropOrphans s) := by
  unfold State.dropOrphans
  repeat' (first
    | with_reducible exact Keeps.refl _ _
    | ((with_reducible apply Keeps.after (State.endTasks_keeps _ _ _ _)); case hv => decide))
theorem State.installGuard_keeps (s : State) (g : GuardState) : Keeps 225114 s (State.installGuard s g) := by
  unfold State.installGuard
  try dsimp only
  repeat' (first
    | with_reducible exact Keeps.refl _ _
    | assumption
    | with_reducible apply Keeps.ite
    | ((with_reducible apply Keeps.after (State.dropOrphans_keeps _)); case hv => decide)
    | ((with_reducible apply Keeps.after (State.installCluster_keeps _ _ _)); case hv => decide)
    | ((with_reducible apply Keeps.after (State.zeroExtent_keeps _ _)); case hv => decide)
    | ((with_reducible apply Keeps.after (State.installPart_keeps _ _ _)); case hv => decide)
    | ((with_reducible apply Keeps.after (State.vfReset_keeps _ _)); case hv => decide)
    | ((with_reducible apply Keeps.after (State.setGrd_keeps _ _)); case hv => decide)
    | ((with_reducible apply Keeps.after (State.modPt_keeps _ _ _)); case hv => decide)
    | ((with_reducible apply Keeps.after_setMem); (case hv => decide); (case h => (intro h; obtain ⟨h1, h2, h3⟩ := h; unfold MemOk; dsimp only; refine ⟨?_, ?_, ?_⟩ <;> first | (with_reducible first | exact h1 | exact h2 | exact h3 | exact mwf_wrBytes _ _ _ h1 | exact mwf_wrBytes _ _ _ h2 | exact mwf_wrBytes _ _ _ h3 | exact mwf_filter _ _ h1 | exact mwf_foldl_mset _ _ h2 | exact mwf_nil 0 | exact mwf_mset 0 _ _ _ h2 | exact loadInto_wf _ _ h3 | exact loadInto_wf _ _ (mwf_nil 0)) | exact h1 | exact h2 | exact h3)))
    | ((with_reducible apply Keeps.after_setPwr); (case hv => decide); (case h => (unfold PwrOk; dsimp only; first | with_reducible exact fun h => h | with_reducible exact fun _ => dev_ok _ | exact fun _ => by decide | exact fun h => h)))
    | with_reducible refine Keeps.trans ?_ (Keeps.foldl (fun s x => ?_) _ _)
    | with_reducible refine Keeps.trans ?_ (Keeps.foldlPair (fun s x => ?_) _ _)
    | with_reducible apply Keeps.ite_fst
    | with_reducible apply Keeps.ite_snd
    | intro _
    | split
    | with_reducible apply Keeps.of_pair (by assumption)
    | with_reducible apply Keeps.of_pair2 (by assumption)
    | dsimp only)
theorem State.strap_keeps (s : State) (enrolN : Bool) : Keeps 2 s (State.strap s enrolN) := by
  unfold State.strap
  repeat' (first
    | with_reducible exact Keeps.refl _ _
    | ((with_reducible apply Keeps.after_setPwr); (case hv => decide); (case h => (unfold PwrOk; dsimp only; first | with_reducible exact fun h => h | with_reducible exact fun _ => dev_ok _ | exact fun _ => by decide | exact fun h => h))))
theorem State.guardAbort_keeps (s : State) (kind : Nat) : Keeps 255858 s (State.guardAbort s kind) := by
  unfold State.guardAbort
  repeat' (first
    | with_reducible exact Keeps.refl _ _
    | with_reducible apply Keeps.ite
    | ((with_reducible apply Keeps.after (State.guardEnd_keeps _ _ _)); case hv => decide)
    | ((with_reducible apply Keeps.after (State.setFlash_keeps _ _)); case hv => decide)
    | ((with_reducible apply Keeps.after (State.unpark_keeps _)); case hv => decide))
theorem guardStateWritten_keeps (s : State) : Keeps 255858 s (guardStateWritten s) := by
  unfold guardStateWritten
  repeat' (first
    | with_reducible exact Keeps.refl _ _
    | with_reducible apply Keeps.ite
    | ((with_reducible apply Keeps.after (State.guardAbort_keeps _ _)); case hv => decide)
    | ((with_reducible apply Keeps.after (State.setGrd_keeps _ _)); case hv => decide)
    | ((with_reducible apply Keeps.after (State.setFlash_keeps _ _)); case hv => decide)
    | split)
theorem State.newLog_keeps (s : State) (e : GLog) : Keeps 32 s (State.newLog s e) := by
  unfold State.newLog
  repeat' (first
    | with_reducible exact Keeps.refl _ _
    | ((with_reducible apply Keeps.after (State.setFlash_keeps _ _)); case hv => decide))
theorem State.enrolWipe_keeps (s : State) : Keeps 225114 s (State.enrolWipe s) := by
  unfold State.enrolWipe
  dsimp only
  have h : Keeps 225114 s ((List.range 64).foldl (fun (s : State) p => if (s.pt p).defined then s.flrPart p else s)
      (s.endTasks (fun _ => true) stGuardReset true)) :=
    ((State.endTasks_keeps _ _ _ _).mono (by decide)).trans (Keeps.foldl (fun s x => Keeps.ite ((State.flrPart_keeps s x).mono (by decide))
      (Keeps.refl _ _)) _ _)
  generalize (List.range 64).foldl (fun (s : State) p => if (s.pt p).defined then s.flrPart p else s)
      (s.endTasks (fun _ => true) stGuardReset true) = t at h ⊢
  refine (State.setGrd_keeps _ _).after (by decide) (Keeps.after_setClusters (by decide) ?_ (Keeps.after_setMem (by decide) ?_
    ((State.setParts_keeps _ _).after (by decide) h)))
  · exact fun hc c => mget_map_wf _ (fun kv hk => Cluster.zeroSegs_wf _ _ hk) _ c (hc c)
  · exact fun hm => ⟨rfl, hm.2.1, hm.2.2⟩
theorem guardQuiesced_keeps (s : State) : Keeps 262010 s (guardQuiesced s) := by
  unfold guardQuiesced
  repeat' (first
    | with_reducible exact Keeps.refl _ _
    | with_reducible apply Keeps.ite
    | ((with_reducible apply Keeps.after (State.enrolWipe_keeps _)); case hv => decide)
    | ((with_reducible apply Keeps.after (State.newLog_keeps _ _)); case hv => decide)
    | ((with_reducible apply Keeps.after (State.guardAbort_keeps _ _)); case hv => decide)
    | ((with_reducible apply Keeps.after (State.installGuard_keeps _ _)); case hv => decide)
    | ((with_reducible apply Keeps.after (State.guardEnd_keeps _ _ _)); case hv => decide)
    | ((with_reducible apply Keeps.after (State.reIdentifyAll_keeps _)); case hv => decide)
    | ((with_reducible apply Keeps.after (State.chooseParent_keeps _)); case hv => decide)
    | ((with_reducible apply Keeps.after (State.setGrd_keeps _ _)); case hv => decide)
    | ((with_reducible apply Keeps.after (State.setLnk_keeps _ _)); case hv => decide)
    | split)
theorem guardQuiesceTimeout_keeps (s : State) : Keeps 255858 s (guardQuiesceTimeout s) := by
  unfold guardQuiesceTimeout
  repeat' (first
    | with_reducible exact Keeps.refl _ _
    | ((with_reducible apply Keeps.after (State.guardAbort_keeps _ _)); case hv => decide)
    | split)
theorem guardCommit_keeps (s : State) : Keeps 255858 s (guardCommit s) := by
  unfold guardCommit
  repeat' (first
    | with_reducible exact Keeps.refl _ _
    | ((with_reducible apply Keeps.after (State.guardEnd_keeps _ _ _)); case hv => decide)
    | ((with_reducible apply Keeps.after (State.imageAsk_keeps _ _)); case hv => decide)
    | ((with_reducible apply Keeps.after (State.setGrd_keeps _ _)); case hv => decide)
    | ((with_reducible apply Keeps.after (State.setFlash_keeps _ _)); case hv => decide)
    | ((with_reducible apply Keeps.after (State.unpark_keeps _)); case hv => decide)
    | split)

/-! ### Machine/Activation.lean -/

theorem State.setAct_keeps (s : State) (a : Option Activation) : Keeps 128 s (State.setAct s a) := by
  unfold State.setAct
  repeat' (first
    | with_reducible exact Keeps.refl _ _
    | ((with_reducible apply Keeps.after (State.setFw_keeps _ _)); case hv => decide))
theorem activate_keeps (slot persist : Bool) (s : State) : Keeps 132480 s (activate slot persist s) := by
  unfold activate
  repeat' (first
    | with_reducible exact Keeps.refl _ _
    | with_reducible apply Keeps.ite
    | ((with_reducible apply Keeps.after (State.setAct_keeps _ _)); case hv => decide)
    | ((with_reducible apply Keeps.after (State.fwResult_keeps _ _)); case hv => decide)
    | ((with_reducible apply Keeps.after (State.note_keeps _ _ _ _ _)); case hv => decide)
    | ((with_reducible apply Keeps.after (State.trace_keeps _ _ _)); case hv => decide))
theorem cancel_keeps (s : State) : Keeps 257946 s (cancel s) := by
  unfold cancel
  repeat' (first
    | with_reducible exact Keeps.refl _ _
    | ((with_reducible apply Keeps.after (State.reshAll_keeps _)); case hv => decide)
    | ((with_reducible apply Keeps.after (State.setAct_keeps _ _)); case hv => decide)
    | ((with_reducible apply Keeps.after (State.unpark_keeps _)); case hv => decide)
    | ((with_reducible apply Keeps.after (State.trace_keeps _ _ _)); case hv => decide)
    | split)
theorem traceEnable_keeps (s : State) : Keeps 132352 s (traceEnable s) := by
  unfold traceEnable
  repeat' (first
    | with_reducible exact Keeps.refl _ _
    | with_reducible apply Keeps.ite
    | ((with_reducible apply Keeps.after (State.traceEpoch_keeps _)); case hv => decide)
    | ((with_reducible apply Keeps.after (State.setLog_keeps _ _)); case hv => decide))
theorem clearLost_keeps (s : State) : Keeps 256 s (clearLost s) := by
  unfold clearLost
  repeat' (first
    | with_reducible exact Keeps.refl _ _
    | with_reducible apply Keeps.ite
    | ((with_reducible apply Keeps.after (State.setLog_keeps _ _)); case hv => decide))
theorem traceMark_keeps (point : BitVec 8) (data : BitVec 56) (s : State) : Keeps 132352 s (traceMark point data s) := by
  unfold traceMark
  repeat' (first
    | with_reducible exact Keeps.refl _ _
    | with_reducible apply Keeps.ite
    | ((with_reducible apply Keeps.after (State.traceRaw_keeps _ _ _ _ _ _ _)); case hv => decide)
    | ((with_reducible apply Keeps.after (State.bump_keeps _ _)); case hv => decide))
theorem State.actEnd_keeps (s : State) (st : BitVec 16) (t : Tp) : Keeps 257946 s (State.actEnd s st t) := by
  unfold State.actEnd
  repeat' (first
    | with_reducible exact Keeps.refl _ _
    | ((with_reducible apply Keeps.after (State.reshAll_keeps _)); case hv => decide)
    | ((with_reducible apply Keeps.after (State.setAct_keeps _ _)); case hv => decide)
    | ((with_reducible apply Keeps.after (State.fwResult_keeps _ _)); case hv => decide)
    | ((with_reducible apply Keeps.after (State.unpark_keeps _)); case hv => decide)
    | ((with_reducible apply Keeps.after (State.note_keeps _ _ _ _ _)); case hv => decide))
theorem activationParkStart_keeps (s : State) : Keeps 132480 s (activationParkStart s) := by
  unfold activationParkStart
  repeat' (first
    | with_reducible exact Keeps.refl _ _
    | ((with_reducible apply Keeps.after (State.setAct_keeps _ _)); case hv => decide)
    | ((with_reducible apply Keeps.after (State.trace_keeps _ _ _)); case hv => decide)
    | split)
theorem deferTimeout_keeps (s : State) : Keeps 257946 s (deferTimeout s) := by
  unfold deferTimeout
  repeat' (first
    | with_reducible exact Keeps.refl _ _
    | ((with_reducible apply Keeps.after (State.actEnd_keeps _ _ _)); case hv => decide)
    | split)
theorem actParkTimeout_keeps (s : State) : Keeps 257946 s (actParkTimeout s) := by
  unfold actParkTimeout
  repeat' (first
    | with_reducible exact Keeps.refl _ _
    | ((with_reducible apply Keeps.after (State.actEnd_keeps _ _ _)); case hv => decide)
    | split)
theorem State.tableOut_keeps (s : State) : Keeps 132096 s (State.tableOut s) := by
  unfold State.tableOut
  try dsimp only
  repeat' (first
    | with_reducible exact Keeps.refl _ _
    | assumption
    | with_reducible apply Keeps.ite
    | ((with_reducible apply Keeps.after_setMem); (case hv => decide); (case h => (intro h; obtain ⟨h1, h2, h3⟩ := h; unfold MemOk; dsimp only; refine ⟨?_, ?_, ?_⟩ <;> first | (with_reducible first | exact h1 | exact h2 | exact h3 | exact mwf_wrBytes _ _ _ h1 | exact mwf_wrBytes _ _ _ h2 | exact mwf_wrBytes _ _ _ h3 | exact mwf_filter _ _ h1 | exact mwf_foldl_mset _ _ h2 | exact mwf_nil 0 | exact mwf_mset 0 _ _ _ h2 | exact loadInto_wf _ _ h3 | exact loadInto_wf _ _ (mwf_nil 0)) | exact h1 | exact h2 | exact h3)))
    | ((with_reducible apply Keeps.after (State.bump_keeps _ _)); case hv => decide)
    | with_reducible apply Keeps.ite_fst
    | with_reducible apply Keeps.ite_snd
    | intro _
    | split
    | with_reducible apply Keeps.of_pair (by assumption)
    | with_reducible apply Keeps.of_pair2 (by assumption)
    | dsimp only)
theorem State.startImage_keeps (s : State) (x : FwSlot) : Keeps 33792 s (State.startImage s x) := by
  unfold State.startImage
  try dsimp only
  repeat' (first
    | with_reducible exact Keeps.refl _ _
    | assumption
    | with_reducible apply Keeps.ite
    | ((with_reducible apply Keeps.after (State.setCcores_keeps _ _)); case hv => decide)
    | ((with_reducible apply Keeps.after_setMem); (case hv => decide); (case h => (intro h; obtain ⟨h1, h2, h3⟩ := h; unfold MemOk; dsimp only; refine ⟨?_, ?_, ?_⟩ <;> first | (with_reducible first | exact h1 | exact h2 | exact h3 | exact mwf_wrBytes _ _ _ h1 | exact mwf_wrBytes _ _ _ h2 | exact mwf_wrBytes _ _ _ h3 | exact mwf_filter _ _ h1 | exact mwf_foldl_mset _ _ h2 | exact mwf_nil 0 | exact mwf_mset 0 _ _ _ h2 | exact loadInto_wf _ _ h3 | exact loadInto_wf _ _ (mwf_nil 0)) | exact h1 | exact h2 | exact h3)))
    | with_reducible apply Keeps.ite_fst
    | with_reducible apply Keeps.ite_snd
    | intro _
    | split
    | with_reducible apply Keeps.of_pair (by assumption)
    | with_reducible apply Keeps.of_pair2 (by assumption)
    | dsimp only)
theorem firmwareSwitch_keeps (s : State) : Keeps 257946 s (firmwareSwitch s) := by
  unfold firmwareSwitch
  repeat' (first
    | with_reducible exact Keeps.refl _ _
    | ((with_reducible apply Keeps.after (State.tableOut_keeps _)); case hv => decide)
    | ((with_reducible apply Keeps.after (State.reshAll_keeps _)); case hv => decide)
    | ((with_reducible apply Keeps.after (State.setAct_keeps _ _)); case hv => decide)
    | ((with_reducible apply Keeps.after (State.unpark_keeps _)); case hv => decide)
    | ((with_reducible apply Keeps.after (State.trace_keeps _ _ _)); case hv => decide)
    | split)
theorem State.logHeld_keeps (s : State) : Keeps 1280 s (State.logHeld s) := by
  unfold State.logHeld
  repeat' (first
    | with_reducible exact Keeps.refl _ _
    | with_reducible apply Keeps.ite
    | ((with_reducible apply Keeps.after (State.logPut_keeps _ _ _)); case hv => decide)
    | ((with_reducible apply Keeps.after (State.setLog_keeps _ _)); case hv => decide)
    | with_reducible refine Keeps.trans ?_ (Keeps.foldl (fun s x => ?_) _ _))
theorem runWaiting_keeps (c : NwCmd) (s : State) : Keeps 261978 s (runWaiting c s) := by
  unfold runWaiting
  repeat' (first
    | with_reducible exact Keeps.refl _ _
    | ((with_reducible apply Keeps.after (pfFlrNow_keeps _)); case hv => decide)
    | ((with_reducible apply Keeps.after (vfFlrNow_keeps _ _)); case hv => decide)
    | ((with_reducible apply Keeps.after (submitNow_keeps _ _)); case hv => decide)
    | ((with_reducible apply Keeps.after (retrainNow_keeps _ _)); case hv => decide)
    | ((with_reducible apply Keeps.after (releaseNow_keeps _ _)); case hv => decide)
    | ((with_reducible apply Keeps.after (litLanesNow_keeps _ _)); case hv => decide)
    | ((with_reducible apply Keeps.after (cfgWriteNow_keeps _)); case hv => decide)
    | ((with_reducible apply Keeps.after (chipAssignNow_keeps _ _)); case hv => decide)
    | ((with_reducible apply Keeps.after (attestNow_keeps _ _)); case hv => decide)
    | ((with_reducible apply Keeps.after (adoptNow_keeps _ _)); case hv => decide)
    | ((with_reducible apply Keeps.after (detachNow_keeps _ _)); case hv => decide)
    | ((with_reducible apply Keeps.after (attachNow_keeps _ _)); case hv => decide)
    | ((with_reducible apply Keeps.after (ringEnableNow_keeps _ _ _)); case hv => decide)
    | ((with_reducible apply Keeps.after (ringDisableNow_keeps _ _ _)); case hv => decide)
    | split)
theorem State.actResume_keeps (s : State) (st : BitVec 16) (t : Tp) : Keeps 262110 s (State.actResume s st t) := by
  unfold State.actResume
  repeat' (first
    | with_reducible exact Keeps.refl _ _
    | ((with_reducible apply Keeps.after (runWaiting_keeps _ _)); case hv => decide)
    | ((with_reducible apply Keeps.after (State.logHeld_keeps _)); case hv => decide)
    | ((with_reducible apply Keeps.after (State.pwrWaited_keeps _)); case hv => decide)
    | ((with_reducible apply Keeps.after (State.reshAll_keeps _)); case hv => decide)
    | ((with_reducible apply Keeps.after (State.setAct_keeps _ _)); case hv => decide)
    | ((with_reducible apply Keeps.after (State.fwResult_keeps _ _)); case hv => decide)
    | ((with_reducible apply Keeps.after (State.unpark_keeps _)); case hv => decide)
    | ((with_reducible apply Keeps.after (State.setFw_keeps _ _)); case hv => decide)
    | ((with_reducible apply Keeps.after (State.note_keeps _ _ _ _ _)); case hv => decide)
    | with_reducible refine Keeps.trans ?_ (Keeps.foldl (fun s x => ?_) _ _))
theorem activationDone_keeps (s : State) : Keeps 262142 s (activationDone s) := by
  unfold activationDone
  repeat' (first
    | with_reducible exact Keeps.refl _ _
    | ((with_reducible apply Keeps.after (State.bootSlot_keeps _ _)); case hv => decide)
    | ((with_reducible apply Keeps.after (State.actResume_keeps _ _ _)); case hv => decide)
    | ((with_reducible apply Keeps.after (State.startImage_keeps _ _)); case hv => decide)
    | ((with_reducible apply Keeps.after (State.setFlash_keeps _ _)); case hv => decide)
    | ((with_reducible apply Keeps.after (State.setFw_keeps _ _)); case hv => decide)
    | split)
theorem actFallback_keeps (s : State) : Keeps 262110 s (actFallback s) := by
  unfold actFallback
  repeat' (first
    | with_reducible exact Keeps.refl _ _
    | ((with_reducible apply Keeps.after (State.actResume_keeps _ _ _)); case hv => decide)
    | ((with_reducible apply Keeps.after (State.startImage_keeps _ _)); case hv => decide)
    | split)

/-! ### Machine/Dram.lean -/

theorem State.answer_keeps (s : State) (st : BitVec 16) (data : List Byte) (poison : List Nat) : Keeps 1024 s (State.answer s st data poison) := by
  unfold State.answer
  repeat' (first
    | with_reducible exact Keeps.refl _ _
    | ((with_reducible apply Keeps.after_setMem); (case hv => decide); (case h => (intro h; obtain ⟨h1, h2, h3⟩ := h; unfold MemOk; dsimp only; refine ⟨?_, ?_, ?_⟩ <;> first | (with_reducible first | exact h1 | exact h2 | exact h3 | exact mwf_wrBytes _ _ _ h1 | exact mwf_wrBytes _ _ _ h2 | exact mwf_wrBytes _ _ _ h3 | exact mwf_filter _ _ h1 | exact mwf_foldl_mset _ _ h2 | exact mwf_nil 0 | exact mwf_mset 0 _ _ _ h2 | exact loadInto_wf _ _ h3 | exact loadInto_wf _ _ (mwf_nil 0)) | exact h1 | exact h2 | exact h3))))
theorem State.memRead_keeps (s : State) (a n : Nat) : Keeps 140560 s (State.memRead s a n) := by
  unfold State.memRead
  repeat' (first
    | with_reducible exact Keeps.refl _ _
    | with_reducible apply Keeps.ite
    | ((with_reducible apply Keeps.after (State.answer_keeps _ _ _ _)); case hv => decide)
    | ((with_reducible apply Keeps.after (State.vaultRead_keeps _ _ _)); case hv => decide))
theorem State.memWrite_keeps (s : State) (a : Nat) (bs : List Byte) : Keeps 140560 s (State.memWrite s a bs) := by
  unfold State.memWrite
  repeat' (first
    | with_reducible exact Keeps.refl _ _
    | with_reducible apply Keeps.ite
    | ((with_reducible apply Keeps.after (State.answer_keeps _ _ _ _)); case hv => decide)
    | ((with_reducible apply Keeps.after (State.vaultWrite_keeps _ _ _)); case hv => decide)
    | ((with_reducible apply Keeps.after (State.groupOffLog_keeps _ _ _ _)); case hv => decide))
theorem burstRead_keeps (a n : Nat) (s : State) : Keeps 140560 s (burstRead a n s) := by
  unfold burstRead
  repeat' (first
    | with_reducible exact Keeps.refl _ _
    | with_reducible apply Keeps.ite
    | ((with_reducible apply Keeps.after (State.memRead_keeps _ _ _)); case hv => decide))
theorem burstWrite_keeps (a : Nat) (data : List Byte) (s : State) : Keeps 140560 s (burstWrite a data s) := by
  unfold burstWrite
  repeat' (first
    | with_reducible exact Keeps.refl _ _
    | with_reducible apply Keeps.ite
    | ((with_reducible apply Keeps.after (State.memWrite_keeps _ _ _)); case hv => decide))
theorem narrowRead_keeps (a n : Nat) (s : State) : Keeps 140560 s (narrowRead a n s) := by
  unfold narrowRead
  repeat' (first
    | with_reducible exact Keeps.refl _ _
    | with_reducible apply Keeps.ite
    | ((with_reducible apply Keeps.after (State.memRead_keeps _ _ _)); case hv => decide))
theorem narrowWrite_keeps (a : Nat) (data : List Byte) (s : State) : Keeps 140560 s (narrowWrite a data s) := by
  unfold narrowWrite
  repeat' (first
    | with_reducible exact Keeps.refl _ _
    | with_reducible apply Keeps.ite
    | ((with_reducible apply Keeps.after (State.memWrite_keeps _ _ _)); case hv => decide))
theorem State.atomAt_keeps (s : State) (op ty a : Nat) (data : List Byte) (poisoned : Bool) : Keeps 140560 s (State.atomAt s op ty a data poisoned) := by
  unfold State.atomAt
  repeat' (first
    | with_reducible exact Keeps.refl _ _
    | with_reducible apply Keeps.ite
    | ((with_reducible apply Keeps.after (State.devPoisonSet_keeps _ _)); case hv => decide)
    | ((with_reducible apply Keeps.after (State.vaultRead_keeps _ _ _)); case hv => decide)
    | ((with_reducible apply Keeps.after (State.devWr_keeps _ _ _)); case hv => decide))
theorem memoryAtomic_keeps (a op ty : Nat) (data : List Byte) (poisoned : Bool) (s : State) : Keeps 140560 s (memoryAtomic a op ty data poisoned s) := by
  unfold memoryAtomic
  repeat' (first
    | with_reducible exact Keeps.refl _ _
    | with_reducible apply Keeps.ite
    | ((with_reducible apply Keeps.after (State.atomAt_keeps _ _ _ _ _ _)); case hv => decide)
    | ((with_reducible apply Keeps.after (State.answer_keeps _ _ _ _)); case hv => decide)
    | ((with_reducible apply Keeps.after (State.groupOffLog_keeps _ _ _ _)); case hv => decide))
theorem State.bag_keeps (s : State) (p : Nat) (t : Ten) (ixs : List (Except (BitVec 16) Nat)) (ofmt : Nat) : Keeps 140560 s (State.bag s p t ixs ofmt) := by
  unfold State.bag
  repeat' (first
    | with_reducible exact Keeps.refl _ _
    | with_reducible apply Keeps.ite
    | ((with_reducible apply Keeps.after (State.answer_keeps _ _ _ _)); case hv => decide)
    | ((with_reducible apply Keeps.after (State.partTouch_keeps _ _ _ _)); case hv => decide)
    | ((with_reducible apply Keeps.after (State.bump_keeps _ _)); case hv => decide)
    | with_reducible refine Keeps.trans ?_ (Keeps.foldl (fun s x => ?_) _ _))
theorem pooledBag_keeps (p : Nat) (table : BitVec 256) (slots : List (Option Nat)) (outFmt : Nat) (s : State) : Keeps 140560 s (pooledBag p table slots outFmt s) := by
  unfold pooledBag
  repeat' (first
    | with_reducible exact Keeps.refl _ _
    | with_reducible apply Keeps.ite
    | ((with_reducible apply Keeps.after (State.bag_keeps _ _ _ _ _)); case hv => decide))
theorem refresh_keeps (v die bank : Nat) (s : State) : Keeps 1024 s (refresh v die bank s) := by
  unfold refresh
  repeat' (first
    | with_reducible exact Keeps.refl _ _
    | with_reducible apply Keeps.ite
    | ((with_reducible apply Keeps.after_setMem); (case hv => decide); (case h => (intro h; obtain ⟨h1, h2, h3⟩ := h; unfold MemOk; dsimp only; refine ⟨?_, ?_, ?_⟩ <;> first | (with_reducible first | exact h1 | exact h2 | exact h3 | exact mwf_wrBytes _ _ _ h1 | exact mwf_wrBytes _ _ _ h2 | exact mwf_wrBytes _ _ _ h3 | exact mwf_filter _ _ h1 | exact mwf_foldl_mset _ _ h2 | exact mwf_nil 0 | exact mwf_mset 0 _ _ _ h2 | exact loadInto_wf _ _ h3 | exact loadInto_wf _ _ (mwf_nil 0)) | exact h1 | exact h2 | exact h3))))
theorem patrolScrub_keeps (g : Nat) (s : State) : Keeps 140560 s (patrolScrub g s) := by
  unfold patrolScrub
  repeat' (first
    | with_reducible exact Keeps.refl _ _
    | with_reducible apply Keeps.ite
    | ((with_reducible apply Keeps.after (State.vaultRead_keeps _ _ _)); case hv => decide)
    | ((with_reducible apply Keeps.after_setMem); (case hv => decide); (case h => (intro h; obtain ⟨h1, h2, h3⟩ := h; unfold MemOk; dsimp only; refine ⟨?_, ?_, ?_⟩ <;> first | (with_reducible first | exact h1 | exact h2 | exact h3 | exact mwf_wrBytes _ _ _ h1 | exact mwf_wrBytes _ _ _ h2 | exact mwf_wrBytes _ _ _ h3 | exact mwf_filter _ _ h1 | exact mwf_foldl_mset _ _ h2 | exact mwf_nil 0 | exact mwf_mset 0 _ _ _ h2 | exact loadInto_wf _ _ h3 | exact loadInto_wf _ _ (mwf_nil 0)) | exact h1 | exact h2 | exact h3)))
    | with_reducible refine Keeps.trans ?_ (Keeps.foldl (fun s x => ?_) _ _))
theorem errorEntryExpire_keeps (v idx : Nat) (s : State) : Keeps 1024 s (errorEntryExpire v idx s) := by
  unfold errorEntryExpire
  repeat' (first
    | with_reducible exact Keeps.refl _ _
    | with_reducible apply Keeps.ite
    | ((with_reducible apply Keeps.after_setMem); (case hv => decide); (case h => (intro h; obtain ⟨h1, h2, h3⟩ := h; unfold MemOk; dsimp only; refine ⟨?_, ?_, ?_⟩ <;> first | (with_reducible first | exact h1 | exact h2 | exact h3 | exact mwf_wrBytes _ _ _ h1 | exact mwf_wrBytes _ _ _ h2 | exact mwf_wrBytes _ _ _ h3 | exact mwf_filter _ _ h1 | exact mwf_foldl_mset _ _ h2 | exact mwf_nil 0 | exact mwf_mset 0 _ _ _ h2 | exact loadInto_wf _ _ h3 | exact loadInto_wf _ _ (mwf_nil 0)) | exact h1 | exact h2 | exact h3))))
theorem scratchpadScrub_keeps (c : Nat) (s : State) : Keeps 16640 s (scratchpadScrub c s) := by
  unfold scratchpadScrub
  repeat' (first
    | with_reducible exact Keeps.refl _ _
    | ((with_reducible apply Keeps.after (State.spadTouch_keeps _ _ _ _)); case hv => decide)
    | ((with_reducible apply Keeps.after_modCl); (case hv => decide); (case h => (intro h; repeat' (first | with_reducible exact h | with_reducible rfl | with_reducible exact mwf_wrBytes _ _ _ h | with_reducible exact Cluster.spadWr_wf _ _ _ h | with_reducible exact Cluster.zeroSeg_wf _ _ h | with_reducible exact Cluster.zeroSegs_wf _ _ h | simp only [Cluster.setCore_spad, Cluster.setUnit_spad, Cluster.spadPoisonSet_spad, Cluster.taintHeads_spad] | split | dsimp only | exact h | exact Cluster.zeroSegs_wf _ _ h))))
    | split)

/-! ### Machine/PowerUp.lean -/

theorem State.attestKeys_keeps (s : State) (m : BitVec 512) : Keeps 64 s (State.attestKeys s m) := by
  unfold State.attestKeys
  repeat' (first
    | with_reducible exact Keeps.refl _ _
    | ((with_reducible apply Keeps.after (State.setGrd_keeps _ _)); case hv => decide))
theorem State.loadGuard_keeps (s : State) : Keeps 96 s (State.loadGuard s) := by
  unfold State.loadGuard
  repeat' (first
    | with_reducible exact Keeps.refl _ _
    | ((with_reducible apply Keeps.after (State.setGrd_keeps _ _)); case hv => decide)
    | ((with_reducible apply Keeps.after (State.setFlash_keeps _ _)); case hv => decide)
    | split)
theorem State.loadRepair_keeps (s : State) (rows : List (Fin 512 × Fin 8 × Fin 16 × BitVec 12)) : Keeps 1072 s (State.loadRepair s rows) := by
  unfold State.loadRepair
  dsimp only
  refine Keeps.ite ?_ (Keeps.ite ?_ ?_)
  · exact Keeps.after_setMem (by decide) (fun h => h) (Keeps.refl _ _)
  · exact Keeps.after_setMem (by decide) (fun h => h) (Keeps.refl _ _)
  · exact (State.setCfg_keeps _ _).after (by decide) ((State.setFlash_keeps _ _).after (by decide)
      (Keeps.after_setMem (by decide) (fun h => memOk_rowFails _ _ h) (Keeps.refl _ _)))
theorem State.nightwatchStart_keeps (s : State) : Keeps 158466 s (State.nightwatchStart s) := by
  unfold State.nightwatchStart
  dsimp only
  refine Keeps.trans ?_ (Keeps.foldl (fun s x => Keeps.ite ((State.installPart_keeps _ _ _).mono (by decide)) (Keeps.refl _ _)) _ _)
  refine (State.setLog_keeps _ _).after (by decide) ((State.setHif_keeps _ _).after (by decide) (Keeps.after_setPwr (by decide)
    (pwrOk_cap _ _) (Keeps.after_setClusters (by decide) (fun _ => ?_)
    ((State.setLnk_keeps _ _).after (by decide) (Keeps.refl _ _)))))
  refine mget_wf_all _ fun kv hk => ?_
  obtain ⟨c, _, rfl⟩ := List.mem_map.mp hk
  rfl
theorem State.selectImage_keeps (s : State) : Keeps 536 s (State.selectImage s) := by
  unfold State.selectImage
  repeat' (first
    | with_reducible exact Keeps.refl _ _
    | ((with_reducible apply Keeps.after (State.setCfg_keeps _ _)); case hv => decide)
    | ((with_reducible apply Keeps.after (State.setGlb_keeps _ _)); case hv => decide)
    | ((with_reducible apply Keeps.after (State.setHif_keeps _ _)); case hv => decide)
    | ((with_reducible apply Keeps.after (State.reset_keeps )); case hv => decide))
theorem State.bootSlot_keeps (s : State) (rows : List (Fin 512 × Fin 8 × Fin 16 × BitVec 12)) : Keeps 159738 s (State.bootSlot s rows) := by
  unfold State.bootSlot
  repeat' (first
    | with_reducible exact Keeps.refl _ _
    | ((with_reducible apply Keeps.after (State.selectImage_keeps _)); case hv => decide)
    | ((with_reducible apply Keeps.after (State.nightwatchStart_keeps _)); case hv => decide)
    | ((with_reducible apply Keeps.after (State.loadRepair_keeps _ _)); case hv => decide)
    | ((with_reducible apply Keeps.after (State.loadGuard_keeps _)); case hv => decide)
    | ((with_reducible apply Keeps.after (State.attestKeys_keeps _ _)); case hv => decide)
    | ((with_reducible apply Keeps.after (State.setFlash_keeps _ _)); case hv => decide)
    | ((with_reducible apply Keeps.after (State.setFw_keeps _ _)); case hv => decide)
    | ((with_reducible apply Keeps.after (State.setGlb_keeps _ _)); case hv => decide)
    | ((with_reducible apply Keeps.after_setMem); (case hv => decide); (case h => (intro h; obtain ⟨h1, h2, h3⟩ := h; unfold MemOk; dsimp only; refine ⟨?_, ?_, ?_⟩ <;> first | (with_reducible first | exact h1 | exact h2 | exact h3 | exact mwf_wrBytes _ _ _ h1 | exact mwf_wrBytes _ _ _ h2 | exact mwf_wrBytes _ _ _ h3 | exact mwf_filter _ _ h1 | exact mwf_foldl_mset _ _ h2 | exact mwf_nil 0 | exact mwf_mset 0 _ _ _ h2 | exact loadInto_wf _ _ h3 | exact loadInto_wf _ _ (mwf_nil 0)) | exact h1 | exact h2 | exact h3)))
    | ((with_reducible apply Keeps.after_setPwr); (case hv => decide); (case h => (unfold PwrOk; dsimp only; first | with_reducible exact fun h => h | with_reducible exact fun _ => dev_ok _ | exact fun _ => by decide | exact fun h => h)))
    | split)
theorem State.setPins_keeps (s : State) (f : Pins → Pins) : Keeps 2 s (State.setPins s f) := by
  unfold State.setPins
  repeat' (first
    | with_reducible exact Keeps.refl _ _
    | ((with_reducible apply Keeps.after_setPwr); (case hv => decide); (case h => (unfold PwrOk; dsimp only; first | with_reducible exact fun h => h | with_reducible exact fun _ => dev_ok _ | exact fun _ => by decide | exact fun h => h))))
theorem bladeMate_keeps (s : State) : Keeps 2 s (bladeMate s) := by
  unfold bladeMate
  repeat' (first
    | with_reducible exact Keeps.refl _ _
    | with_reducible apply Keeps.ite
    | ((with_reducible apply Keeps.after (State.setPins_keeps _ _)); case hv => decide)
    | ((with_reducible apply Keeps.after_setPwr); (case hv => decide); (case h => (unfold PwrOk; dsimp only; first | with_reducible exact fun h => h | with_reducible exact fun _ => dev_ok _ | exact fun _ => by decide | exact fun h => h))))
theorem State.cut_keeps (s : State) : Keeps 131070 s (State.cut s) := by
  unfold State.cut
  repeat' (first
    | with_reducible exact Keeps.refl _ _
    | with_reducible apply Keeps.ite
    | ((with_reducible apply Keeps.after (State.railsOff_keeps _)); case hv => decide))
theorem enableLow_keeps (s : State) : Keeps 131070 s (enableLow s) := by
  unfold enableLow
  repeat' (first
    | with_reducible exact Keeps.refl _ _
    | ((with_reducible apply Keeps.after (State.cut_keeps _)); case hv => decide)
    | ((with_reducible apply Keeps.after (State.setPins_keeps _ _)); case hv => decide)
    | ((with_reducible apply Keeps.after_setPwr); (case hv => decide); (case h => (unfold PwrOk; dsimp only; first | with_reducible exact fun h => h | with_reducible exact fun _ => dev_ok _ | exact fun _ => by decide | exact fun h => h))))
theorem inputUndervoltage_keeps (s : State) : Keeps 262142 s (inputUndervoltage s) := by
  unfold inputUndervoltage
  repeat' (first
    | with_reducible exact Keeps.refl _ _
    | ((with_reducible apply Keeps.after (State.cut_keeps _)); case hv => decide)
    | ((with_reducible apply Keeps.after (State.setPins_keeps _ _)); case hv => decide)
    | ((with_reducible apply Keeps.after (State.bump_keeps _ _)); case hv => decide))
theorem inputOvervoltage_keeps (s : State) : Keeps 262142 s (inputOvervoltage s) := by
  unfold inputOvervoltage
  repeat' (first
    | with_reducible exact Keeps.refl _ _
    | ((with_reducible apply Keeps.after (State.cut_keeps _)); case hv => decide)
    | ((with_reducible apply Keeps.after (State.setPins_keeps _ _)); case hv => decide)
    | ((with_reducible apply Keeps.after (State.bump_keeps _ _)); case hv => decide))
theorem surpriseRemoval_keeps (s : State) : Keeps 131070 s (surpriseRemoval s) := by
  unfold surpriseRemoval
  repeat' (first
    | with_reducible exact Keeps.refl _ _
    | ((with_reducible apply Keeps.after (State.cut_keeps _)); case hv => decide)
    | ((with_reducible apply Keeps.after (State.setPins_keeps _ _)); case hv => decide)
    | ((with_reducible apply Keeps.after (State.reset_keeps )); case hv => decide)
    | ((with_reducible apply Keeps.after_setPwr); (case hv => decide); (case h => (unfold PwrOk; dsimp only; first | with_reducible exact fun h => h | with_reducible exact fun _ => dev_ok _ | exact fun _ => by decide | exact fun h => h))))
theorem State.selfTest_keeps (s : State) (e : BootEnv) : Keeps 131070 s (State.selfTest s e) := by
  unfold State.selfTest
  repeat' (first
    | with_reducible exact Keeps.refl _ _
    | ((with_reducible apply Keeps.after (State.railsOff_keeps _)); case hv => decide)
    | ((with_reducible apply Keeps.after_setClk); (case hv => decide); (case h => (first | exact clkOk_done _ rfl rfl rfl | exact clkOk_start _ rfl rfl rfl | (unfold ClkOk; dsimp only; exact fun h => h) | skip; unfold ClkOk; dsimp only; first | with_reducible exact fun h => h | with_reducible exact clkOk_done _ rfl rfl rfl | exact clkOk_start _ rfl rfl rfl | exact fun h => h)))
    | ((with_reducible apply Keeps.after (State.setGrd_keeps _ _)); case hv => decide)
    | ((with_reducible apply Keeps.after (State.setGlb_keeps _ _)); case hv => decide)
    | ((with_reducible apply Keeps.after (State.setHif_keeps _ _)); case hv => decide)
    | ((with_reducible apply Keeps.after (State.reset_keeps )); case hv => decide)
    | ((with_reducible apply Keeps.after_setMem); (case hv => decide); (case h => (intro h; obtain ⟨h1, h2, h3⟩ := h; unfold MemOk; dsimp only; refine ⟨?_, ?_, ?_⟩ <;> first | (with_reducible first | exact h1 | exact h2 | exact h3 | exact mwf_wrBytes _ _ _ h1 | exact mwf_wrBytes _ _ _ h2 | exact mwf_wrBytes _ _ _ h3 | exact mwf_filter _ _ h1 | exact mwf_foldl_mset _ _ h2 | exact mwf_nil 0 | exact mwf_mset 0 _ _ _ h2 | exact loadInto_wf _ _ h3 | exact loadInto_wf _ _ (mwf_nil 0)) | exact h1 | exact h2 | exact h3)))
    | ((with_reducible apply Keeps.after_setPwr); (case hv => decide); (case h => (unfold PwrOk; dsimp only; first | with_reducible exact fun h => h | with_reducible exact fun _ => dev_ok _ | exact fun _ => by decide | exact fun h => h))))
theorem powerUp_keeps (e : BootEnv) (s : State) : Keeps 262142 s (powerUp e s) := by
  unfold powerUp
  repeat' (first
    | with_reducible exact Keeps.refl _ _
    | with_reducible apply Keeps.ite
    | ((with_reducible apply Keeps.after (State.selfTest_keeps _ _)); case hv => decide)
    | ((with_reducible apply Keeps.after (State.setPins_keeps _ _)); case hv => decide)
    | ((with_reducible apply Keeps.after (State.bootSlot_keeps _ _)); case hv => decide)
    | ((with_reducible apply Keeps.after (State.bump_keeps _ _)); case hv => decide)
    | ((with_reducible apply Keeps.after_setPwr); (case hv => decide); (case h => (unfold PwrOk; dsimp only; first | with_reducible exact fun h => h | with_reducible exact fun _ => dev_ok _ | exact fun _ => by decide | exact fun h => h))))
theorem State.unitsLog_keeps (s : State) : Keeps 132352 s (State.unitsLog s) := by
  unfold State.unitsLog
  repeat' (first
    | with_reducible exact Keeps.refl _ _
    | ((with_reducible apply Keeps.after (State.noteSev_keeps _ _ _ _ _ _)); case hv => decide)
    | with_reducible refine Keeps.trans ?_ (Keeps.foldl (fun s x => ?_) _ _))
theorem State.retiredLog_keeps (s : State) : Keeps 132352 s (State.retiredLog s) := by
  unfold State.retiredLog
  repeat' (first
    | with_reducible exact Keeps.refl _ _
    | ((with_reducible apply Keeps.after (State.note_keeps _ _ _ _ _)); case hv => decide)
    | ((with_reducible apply Keeps.after_setMem); (case hv => decide); (case h => (intro h; obtain ⟨h1, h2, h3⟩ := h; unfold MemOk; dsimp only; refine ⟨?_, ?_, ?_⟩ <;> first | (with_reducible first | exact h1 | exact h2 | exact h3 | exact mwf_wrBytes _ _ _ h1 | exact mwf_wrBytes _ _ _ h2 | exact mwf_wrBytes _ _ _ h3 | exact mwf_filter _ _ h1 | exact mwf_foldl_mset _ _ h2 | exact mwf_nil 0 | exact mwf_mset 0 _ _ _ h2 | exact loadInto_wf _ _ h3 | exact loadInto_wf _ _ (mwf_nil 0)) | exact h1 | exact h2 | exact h3)))
    | with_reducible refine Keeps.trans ?_ (Keeps.foldl (fun s x => ?_) _ _))
theorem bootComplete_keeps (s : State) : Keeps 138498 s (bootComplete s) := by
  unfold bootComplete
  repeat' (first
    | with_reducible exact Keeps.refl _ _
    | with_reducible apply Keeps.ite
    | ((with_reducible apply Keeps.after (State.retiredLog_keeps _)); case hv => decide)
    | ((with_reducible apply Keeps.after (State.unitsLog_keeps _)); case hv => decide)
    | ((with_reducible apply Keeps.after (State.startPorts_keeps _)); case hv => decide)
    | ((with_reducible apply Keeps.after_setPwr); (case hv => decide); (case h => (unfold PwrOk; dsimp only; first | with_reducible exact fun h => h | with_reducible exact fun _ => dev_ok _ | exact fun _ => by decide | exact fun h => h))))
theorem slotWriteDone_keeps (ok : Bool) (s : State) : Keeps 159738 s (slotWriteDone ok s) := by
  unfold slotWriteDone
  repeat' (first
    | with_reducible exact Keeps.refl _ _
    | with_reducible apply Keeps.ite
    | ((with_reducible apply Keeps.after (State.slotWritten_keeps _ _)); case hv => decide)
    | ((with_reducible apply Keeps.after (State.bootSlot_keeps _ _)); case hv => decide)
    | ((with_reducible apply Keeps.after (State.setGrd_keeps _ _)); case hv => decide)
    | ((with_reducible apply Keeps.after (State.setGlb_keeps _ _)); case hv => decide)
    | ((with_reducible apply Keeps.after (State.bump_keeps _ _)); case hv => decide))

/-! ### Machine/Errors.lean -/

theorem State.undefAt_keeps (s : State) (c : Nat) (t : Ten) (rs : List (Nat × Nat)) : Keeps 148480 s (State.undefAt s c t rs) := by
  unfold State.undefAt
  try dsimp only
  repeat' (first
    | with_reducible exact Keeps.refl _ _
    | assumption
    | with_reducible apply Keeps.ite
    | ((with_reducible apply Keeps.after_modCl); (case hv => decide); (case h => (intro h; repeat' (first | with_reducible exact h | with_reducible rfl | with_reducible exact mwf_wrBytes _ _ _ h | with_reducible exact Cluster.spadWr_wf _ _ _ h | with_reducible exact Cluster.zeroSeg_wf _ _ h | with_reducible exact Cluster.zeroSegs_wf _ _ h | simp only [Cluster.setCore_spad, Cluster.setUnit_spad, Cluster.spadPoisonSet_spad, Cluster.taintHeads_spad] | split | dsimp only | exact h | exact Cluster.zeroSegs_wf _ _ h))))
    | ((with_reducible apply Keeps.after (State.devWr_keeps _ _ _)); case hv => decide)
    | ((with_reducible apply Keeps.after (State.bump_keeps _ _)); case hv => decide)
    | with_reducible refine Keeps.trans ?_ (Keeps.foldl (fun s x => ?_) _ _)
    | with_reducible refine Keeps.trans ?_ (Keeps.foldlPair (fun s x => ?_) _ _)
    | with_reducible apply Keeps.ite_fst
    | with_reducible apply Keeps.ite_snd
    | intro _
    | split
    | with_reducible apply Keeps.of_pair (by assumption)
    | with_reducible apply Keeps.of_pair2 (by assumption)
    | dsimp only)
theorem State.undefJob_keeps (s : State) (c u : Nat) (j : Job) : Keeps 148480 s (State.undefJob s c u j) := by
  unfold State.undefJob
  try dsimp only
  repeat' (first
    | with_reducible exact Keeps.refl _ _
    | assumption
    | with_reducible apply Keeps.ite
    | ((with_reducible apply Keeps.after (State.undefAt_keeps _ _ _ _)); case hv => decide)
    | with_reducible refine Keeps.trans ?_ (Keeps.foldl (fun s x => ?_) _ _)
    | with_reducible refine Keeps.trans ?_ (Keeps.foldlPair (fun s x => ?_) _ _)
    | with_reducible apply Keeps.ite_fst
    | with_reducible apply Keeps.ite_snd
    | intro _
    | split
    | with_reducible apply Keeps.of_pair (by assumption)
    | with_reducible apply Keeps.of_pair2 (by assumption)
    | dsimp only)
theorem State.undefUnits_keeps (s : State) (c : Nat) : Keeps 148480 s (State.undefUnits s c) := by
  unfold State.undefUnits
  try dsimp only
  repeat' (first
    | with_reducible exact Keeps.refl _ _
    | assumption
    | with_reducible apply Keeps.ite
    | ((with_reducible apply Keeps.after (State.undefJob_keeps _ _ _ _)); case hv => decide)
    | with_reducible refine Keeps.trans ?_ (Keeps.foldl (fun s x => ?_) _ _)
    | with_reducible refine Keeps.trans ?_ (Keeps.foldlPair (fun s x => ?_) _ _)
    | with_reducible apply Keeps.ite_fst
    | with_reducible apply Keeps.ite_snd
    | intro _
    | split
    | with_reducible apply Keeps.of_pair (by assumption)
    | with_reducible apply Keeps.of_pair2 (by assumption)
    | dsimp only)
theorem unitInternalError_keeps (c : Nat) (s : State) : Keeps 225048 s (unitInternalError c s) := by
  unfold unitInternalError
  repeat' (first
    | with_reducible exact Keeps.refl _ _
    | with_reducible apply Keeps.ite
    | ((with_reducible apply Keeps.after (State.reshStop_keeps _ _)); case hv => decide)
    | ((with_reducible apply Keeps.after (State.undefUnits_keeps _ _)); case hv => decide)
    | ((with_reducible apply Keeps.after (State.collTaskEnd_keeps _ _ _)); case hv => decide)
    | ((with_reducible apply Keeps.after (State.class2_keeps _ _ _ _ _)); case hv => decide))
theorem hostRequestError_keeps (p : Fin 64) (s : State) : Keeps 225048 s (hostRequestError p s) := by
  unfold hostRequestError
  repeat' (first
    | with_reducible exact Keeps.refl _ _
    | with_reducible apply Keeps.ite
    | ((with_reducible apply Keeps.after (State.reshStop_keeps _ _)); case hv => decide)
    | ((with_reducible apply Keeps.after (State.class2_keeps _ _ _ _ _)); case hv => decide))
theorem fatalError_keeps (status unit index : BitVec 16) (akind : BitVec 8) (addr : Word) (s : State) : Keeps 151304 s (fatalError status unit index akind addr s) := by
  unfold fatalError
  repeat' (first
    | with_reducible exact Keeps.refl _ _
    | with_reducible apply Keeps.ite
    | ((with_reducible apply Keeps.after (State.fatal_keeps _ _)); case hv => decide))
theorem watchdogExpiry_keeps (k : Nat) (s : State) : Keeps 151304 s (watchdogExpiry k s) := by
  unfold watchdogExpiry
  repeat' (first
    | with_reducible exact Keeps.refl _ _
    | with_reducible apply Keeps.ite
    | ((with_reducible apply Keeps.after (State.fatal_keeps _ _)); case hv => decide))
theorem correctedRecord_keeps (status unit index : BitVec 16) (part akind : BitVec 8) (addr : Word) (count : BitVec 32) (s : State) : Keeps 256 s (correctedRecord status unit index part akind addr count s) := by
  unfold correctedRecord
  repeat' (first
    | with_reducible exact Keeps.refl _ _
    | with_reducible apply Keeps.ite
    | ((with_reducible apply Keeps.after (State.setLog_keeps _ _)); case hv => decide))

/-! ### Machine/HostPort.lean -/

theorem State.reply_keeps (s : State) (c : HostCpl) : Keeps 512 s (State.reply s c) := by
  unfold State.reply
  repeat' (first
    | with_reducible exact Keeps.refl _ _
    | ((with_reducible apply Keeps.after (State.setHif_keeps _ _)); case hv => decide))
theorem State.pcieReset_keeps (s : State) : Keeps 257946 s (State.pcieReset s) := by
  unfold State.pcieReset
  repeat' (first
    | with_reducible exact Keeps.refl _ _
    | with_reducible apply Keeps.ite
    | ((with_reducible apply Keeps.after (State.enterLost_keeps _ _)); case hv => decide)
    | ((with_reducible apply Keeps.after (State.setHif_keeps _ _)); case hv => decide)
    | ((with_reducible apply Keeps.after (State.reset_keeps )); case hv => decide))
theorem configRequest_keeps (q : CfgReq) (s : State) : Keeps 512 s (configRequest q s) := by
  unfold configRequest
  repeat' (first
    | with_reducible exact Keeps.refl _ _
    | with_reducible apply Keeps.ite
    | ((with_reducible apply Keeps.after (State.setHif_keeps _ _)); case hv => decide)
    | split)
theorem State.protDeny_keeps (s : State) (b : Bool) : Keeps 512 s (State.protDeny s b) := by
  unfold State.protDeny
  repeat' (first
    | with_reducible exact Keeps.refl _ _
    | with_reducible apply Keeps.ite
    | ((with_reducible apply Keeps.after (State.setHif_keeps _ _)); case hv => decide))
theorem apertureRead_keeps (fn off len : Nat) (s : State) : Keeps 141072 s (apertureRead fn off len s) := by
  unfold apertureRead
  repeat' (first
    | with_reducible exact Keeps.refl _ _
    | ((with_reducible apply Keeps.after (State.protDeny_keeps _ _)); case hv => decide)
    | ((with_reducible apply Keeps.after (State.poisonRec_keeps _ _ _ _ _ _ _)); case hv => decide)
    | ((with_reducible apply Keeps.after (State.reply_keeps _ _)); case hv => decide)
    | ((with_reducible apply Keeps.after (State.vaultRead_keeps _ _ _)); case hv => decide)
    | with_reducible refine Keeps.trans ?_ (Keeps.foldl (fun s x => ?_) _ _)
    | split)
theorem apertureWrite_keeps (fn off : Nat) (data : List Byte) (ep : Bool) (s : State) : Keeps 141072 s (apertureWrite fn off data ep s) := by
  unfold apertureWrite
  repeat' (first
    | with_reducible exact Keeps.refl _ _
    | ((with_reducible apply Keeps.after (State.protDeny_keeps _ _)); case hv => decide)
    | ((with_reducible apply Keeps.after (State.devPoisonSet_keeps _ _)); case hv => decide)
    | ((with_reducible apply Keeps.after (State.vaultWrite_keeps _ _ _)); case hv => decide)
    | ((with_reducible apply Keeps.after (State.groupOffLog_keeps _ _ _ _)); case hv => decide)
    | ((with_reducible apply Keeps.after (State.errNote_keeps _ _)); case hv => decide)
    | with_reducible refine Keeps.trans ?_ (Keeps.foldlPair (fun s x => ?_) _ _)
    | split)

/-! ### Machine/Pass.lean -/

theorem State.passLate_keeps (s : State) : Keeps 128 s (State.passLate s) := by
  unfold State.passLate
  repeat' (first
    | with_reducible exact Keeps.refl _ _
    | with_reducible apply Keeps.ite
    | ((with_reducible apply Keeps.after (State.setFw_keeps _ _)); case hv => decide))
theorem State.passTasks_keeps (s : State) : Keeps 257818 s (State.passTasks s) := by
  unfold State.passTasks
  try dsimp only
  repeat' (first
    | with_reducible exact Keeps.refl _ _
    | assumption
    | with_reducible apply Keeps.ite
    | ((with_reducible apply Keeps.after (taskFail_keeps _ _)); case hv => decide)
    | ((with_reducible apply Keeps.after (taskEnd_keeps _ _)); case hv => decide)
    | ((with_reducible apply Keeps.after (phaseBoundary_keeps _ _)); case hv => decide)
    | with_reducible refine Keeps.trans ?_ (Keeps.foldl (fun s x => ?_) _ _)
    | with_reducible refine Keeps.trans ?_ (Keeps.foldlPair (fun s x => ?_) _ _)
    | with_reducible apply Keeps.ite_fst
    | with_reducible apply Keeps.ite_snd
    | intro _
    | split
    | with_reducible apply Keeps.of_pair (by assumption)
    | with_reducible apply Keeps.of_pair2 (by assumption)
    | dsimp only)
theorem State.passBegin_keeps (s : State) : Keeps 141200 s (State.passBegin s) := by
  unfold State.passBegin
  try dsimp only
  repeat' (first
    | with_reducible exact Keeps.refl _ _
    | assumption
    | with_reducible apply Keeps.ite
    | ((with_reducible apply Keeps.after (State.flushEvents_keeps _ _)); case hv => decide)
    | ((with_reducible apply Keeps.after (State.passLate_keeps _)); case hv => decide)
    | ((with_reducible apply Keeps.after (State.settle_keeps _)); case hv => decide)
    | ((with_reducible apply Keeps.after (State.trace_keeps _ _ _)); case hv => decide)
    | with_reducible refine Keeps.trans ?_ (Keeps.foldl (fun s x => ?_) _ _)
    | with_reducible refine Keeps.trans ?_ (Keeps.foldlPair (fun s x => ?_) _ _)
    | with_reducible apply Keeps.ite_fst
    | with_reducible apply Keeps.ite_snd
    | intro _
    | split
    | with_reducible apply Keeps.of_pair (by assumption)
    | with_reducible apply Keeps.of_pair2 (by assumption)
    | dsimp only)
theorem State.passRings_keeps (s : State) (ps : List Nat) : Keeps 225048 s (State.passRings s ps) := by
  unfold State.passRings
  try dsimp only
  repeat' (first
    | with_reducible exact Keeps.refl _ _
    | assumption
    | with_reducible apply Keeps.ite
    | ((with_reducible apply Keeps.after (State.fetchRing_keeps _ _ _)); case hv => decide)
    | with_reducible refine Keeps.trans ?_ (Keeps.foldl (fun s x => ?_) _ _)
    | with_reducible refine Keeps.trans ?_ (Keeps.foldlPair (fun s x => ?_) _ _)
    | with_reducible apply Keeps.ite_fst
    | with_reducible apply Keeps.ite_snd
    | intro _
    | split
    | with_reducible apply Keeps.of_pair (by assumption)
    | with_reducible apply Keeps.of_pair2 (by assumption)
    | dsimp only)
theorem State.passRest_keeps (s : State) (ps : List Nat) : Keeps 257818 s (State.passRest s ps) := by
  unfold State.passRest
  try dsimp only
  repeat' (first
    | with_reducible exact Keeps.refl _ _
    | assumption
    | with_reducible apply Keeps.ite
    | ((with_reducible apply Keeps.after (State.refill_keeps _ _)); case hv => decide)
    | ((with_reducible apply Keeps.after (State.pressure_keeps _ _)); case hv => decide)
    | ((with_reducible apply Keeps.after (State.errFlush_keeps _)); case hv => decide)
    | ((with_reducible apply Keeps.after (State.passTasks_keeps _)); case hv => decide)
    | ((with_reducible apply Keeps.after (State.reshAll_keeps _)); case hv => decide)
    | ((with_reducible apply Keeps.after (State.rangeFlushAll_keeps _ _)); case hv => decide)
    | ((with_reducible apply Keeps.after (State.unpark_keeps _)); case hv => decide)
    | ((with_reducible apply Keeps.after (State.almanacUpdate_keeps _)); case hv => decide)
    | ((with_reducible apply Keeps.after (State.trace_keeps _ _ _)); case hv => decide)
    | with_reducible refine Keeps.trans ?_ (Keeps.foldl (fun s x => ?_) _ _)
    | with_reducible refine Keeps.trans ?_ (Keeps.foldlPair (fun s x => ?_) _ _)
    | with_reducible apply Keeps.ite_fst
    | with_reducible apply Keeps.ite_snd
    | intro _
    | split
    | with_reducible apply Keeps.of_pair (by assumption)
    | with_reducible apply Keeps.of_pair2 (by assumption)
    | dsimp only)
theorem schedulingPass_keeps (host : List (Nat × Byte)) (s : State) : Keeps 257946 s (schedulingPass host s) := by
  unfold schedulingPass
  repeat' (first
    | with_reducible exact Keeps.refl _ _
    | with_reducible apply Keeps.ite
    | ((with_reducible apply Keeps.after (State.passRest_keeps _ _)); case hv => decide)
    | ((with_reducible apply Keeps.after (State.passRings_keeps _ _)); case hv => decide)
    | ((with_reducible apply Keeps.after (State.passBegin_keeps _)); case hv => decide)
    | ((with_reducible apply Keeps.after_setMem); (case hv => decide); (case h => (intro h; obtain ⟨h1, h2, h3⟩ := h; unfold MemOk; dsimp only; refine ⟨?_, ?_, ?_⟩ <;> first | (with_reducible first | exact h1 | exact h2 | exact h3 | exact mwf_wrBytes _ _ _ h1 | exact mwf_wrBytes _ _ _ h2 | exact mwf_wrBytes _ _ _ h3 | exact mwf_filter _ _ h1 | exact mwf_foldl_mset _ _ h2 | exact mwf_nil 0 | exact mwf_mset 0 _ _ _ h2 | exact loadInto_wf _ _ h3 | exact loadInto_wf _ _ (mwf_nil 0)) | exact h1 | exact h2 | exact h3)))
    | with_reducible refine Keeps.trans ?_ (Keeps.foldl (fun s x => ?_) _ _))

/-! ### Machine/System.lean -/

theorem Keeps.after_sys {v : Nat} {s0 s : State} {a : Agent} {w : Word} {fs : List (Nat × Nat)} {body : State → State}
    (hv : 245760 &&& v = 245760) (hb : ∀ t, Keeps v t (body t)) (hk : Keeps v s0 s) : Keeps v s0 (s.sys a w fs body) :=
  Keeps.after_guarded hv hb hk
theorem winwOp_keeps (a : Agent) (w : Word) (s : State) : Keeps 245760 s (winwOp a w s) := by
  unfold winwOp
  try dsimp only
  repeat' (first
    | with_reducible exact Keeps.refl _ _
    | assumption
    | with_reducible apply Keeps.ite
    | ((with_reducible apply Keeps.after_sys); (case hv => decide))
    | ((with_reducible apply Keeps.after (State.advance_keeps _ _)); case hv => decide)
    | ((with_reducible apply Keeps.after_modCl); (case hv => decide); (case h => (intro h; repeat' (first | with_reducible exact h | with_reducible rfl | with_reducible exact mwf_wrBytes _ _ _ h | with_reducible exact Cluster.spadWr_wf _ _ _ h | with_reducible exact Cluster.zeroSeg_wf _ _ h | with_reducible exact Cluster.zeroSegs_wf _ _ h | simp only [Cluster.setCore_spad, Cluster.setUnit_spad, Cluster.spadPoisonSet_spad, Cluster.taintHeads_spad] | split | dsimp only | exact h | exact Cluster.zeroSegs_wf _ _ h))))
    | ((with_reducible apply Keeps.after (State.bump_keeps _ _)); case hv => decide)
    | with_reducible apply Keeps.ite_fst
    | with_reducible apply Keeps.ite_snd
    | intro _
    | split
    | with_reducible apply Keeps.of_pair (by assumption)
    | with_reducible apply Keeps.of_pair2 (by assumption)
    | dsimp only)
theorem tstartOp_keeps (a : Agent) (w : Word) (s : State) : Keeps 255768 s (tstartOp a w s) := by
  unfold tstartOp
  repeat' (first
    | with_reducible exact Keeps.refl _ _
    | ((with_reducible apply Keeps.after_sys); (case hv => decide))
    | ((with_reducible apply Keeps.after (State.loadProg_keeps _ _ _ _ _)); case hv => decide)
    | ((with_reducible apply Keeps.after (State.taskStop_keeps _ _ _ _)); case hv => decide)
    | ((with_reducible apply Keeps.after (State.startAll_keeps _ _ _)); case hv => decide)
    | ((with_reducible apply Keeps.after (State.advance_keeps _ _)); case hv => decide)
    | ((with_reducible apply Keeps.after (State.modTask_keeps _ _ _)); case hv => decide)
    | intro _
    | split
    | with_reducible apply Keeps.of_pair2 (by assumption))
theorem tparkOp_keeps (a : Agent) (w : Word) (s : State) : Keeps 245760 s (tparkOp a w s) := by
  unfold tparkOp
  repeat' (first
    | with_reducible exact Keeps.refl _ _
    | ((with_reducible apply Keeps.after_sys); (case hv => decide))
    | ((with_reducible apply Keeps.after (State.advance_keeps _ _)); case hv => decide)
    | ((with_reducible apply Keeps.after (State.modTask_keeps _ _ _)); case hv => decide)
    | intro _
    | split)
theorem tresumeOp_keeps (a : Agent) (w : Word) (s : State) : Keeps 255762 s (tresumeOp a w s) := by
  unfold tresumeOp
  repeat' (first
    | with_reducible exact Keeps.refl _ _
    | with_reducible apply Keeps.ite
    | ((with_reducible apply Keeps.after_sys); (case hv => decide))
    | ((with_reducible apply Keeps.after (State.releaseTask_keeps _ _)); case hv => decide)
    | ((with_reducible apply Keeps.after (State.advance_keeps _ _)); case hv => decide)
    | ((with_reducible apply Keeps.after (State.modTask_keeps _ _ _)); case hv => decide)
    | intro _
    | split)

/-! ### Machine/Regs.lean -/

theorem State.modRing_keeps (s : State) (p n : Nat) (f : Ring → Ring) : Keeps 8192 s (State.modRing s p n f) := by
  unfold State.modRing
  repeat' (first
    | with_reducible exact Keeps.refl _ _
    | ((with_reducible apply Keeps.after (State.modPt_keeps _ _ _)); case hv => decide))
theorem State.modDefined_keeps (s : State) (p : Nat) (f : Part → Part) : Keeps 8192 s (State.modDefined s p f) := by
  unfold State.modDefined
  repeat' (first
    | with_reducible exact Keeps.refl _ _
    | with_reducible apply Keeps.ite
    | ((with_reducible apply Keeps.after (State.modPt_keeps _ _ _)); case hv => decide))
theorem ringCtrlWrite_keeps (p n w : Nat) (s : State) : Keeps 225176 s (ringCtrlWrite p n w s) := by
  unfold ringCtrlWrite
  repeat' (first
    | with_reducible exact Keeps.refl _ _
    | with_reducible apply Keeps.ite
    | ((with_reducible apply Keeps.after (ringEnable_keeps _ _ _)); case hv => decide)
    | ((with_reducible apply Keeps.after (ringDisable_keeps _ _ _)); case hv => decide)
    | ((with_reducible apply Keeps.after (State.modRing_keeps _ _ _ _)); case hv => decide))
theorem fwCmdWrite_keeps (w : Nat) (s : State) : Keeps 257978 s (fwCmdWrite w s) := by
  unfold fwCmdWrite
  repeat' (first
    | with_reducible exact Keeps.refl _ _
    | with_reducible apply Keeps.ite
    | ((with_reducible apply Keeps.after (fwWrite_keeps _ _)); case hv => decide)
    | ((with_reducible apply Keeps.after (cancel_keeps _)); case hv => decide)
    | ((with_reducible apply Keeps.after (activate_keeps _ _ _)); case hv => decide))
theorem hifCmdWrite_keeps (x : Option (Fin 64)) (w : Nat) (s : State) : Keeps 257946 s (hifCmdWrite x w s) := by
  unfold hifCmdWrite
  repeat' (first
    | with_reducible exact Keeps.refl _ _
    | with_reducible apply Keeps.ite
    | ((with_reducible apply Keeps.after (detach_keeps _ _)); case hv => decide)
    | ((with_reducible apply Keeps.after (attach_keeps _ _)); case hv => decide))
theorem trcCtrlWrite_keeps (w : Nat) (s : State) : Keeps 132352 s (trcCtrlWrite w s) := by
  unfold trcCtrlWrite
  repeat' (first
    | with_reducible exact Keeps.refl _ _
    | with_reducible apply Keeps.ite
    | ((with_reducible apply Keeps.after (traceEnable_keeps _)); case hv => decide)
    | ((with_reducible apply Keeps.after (State.setLog_keeps _ _)); case hv => decide))
theorem regWrite_keeps (r : Reg) (v m : Nat) (s : State) : Keeps 262142 s (regWrite r v m s) := by
  unfold regWrite
  repeat' (first
    | with_reducible exact Keeps.refl _ _
    | with_reducible apply Keeps.ite
    | ((with_reducible apply Keeps.after (traceMark_keeps _ _ _)); case hv => decide)
    | ((with_reducible apply Keeps.after (submit_keeps _ _)); case hv => decide)
    | ((with_reducible apply Keeps.after (retrain_keeps _ _)); case hv => decide)
    | ((with_reducible apply Keeps.after (releasePart_keeps _ _)); case hv => decide)
    | ((with_reducible apply Keeps.after (pwrCmd_keeps _ _)); case hv => decide)
    | ((with_reducible apply Keeps.after (pwrCapWrite_keeps _ _)); case hv => decide)
    | ((with_reducible apply Keeps.after (partitionHeartbeat_keeps _ _)); case hv => decide)
    | ((with_reducible apply Keeps.after (litLanesChange_keeps _ _)); case hv => decide)
    | ((with_reducible apply Keeps.after (heartbeat_keeps _)); case hv => decide)
    | ((with_reducible apply Keeps.after (configWrite_keeps _)); case hv => decide)
    | ((with_reducible apply Keeps.after (clearLost_keeps _)); case hv => decide)
    | ((with_reducible apply Keeps.after (chipAssign_keeps _ _)); case hv => decide)
    | ((with_reducible apply Keeps.after (attest_keeps _ _)); case hv => decide)
    | ((with_reducible apply Keeps.after (adopt_keeps _ _)); case hv => decide)
    | ((with_reducible apply Keeps.after (State.setGrd_keeps _ _)); case hv => decide)
    | ((with_reducible apply Keeps.after (trcCtrlWrite_keeps _ _)); case hv => decide)
    | ((with_reducible apply Keeps.after (hifCmdWrite_keeps _ _ _)); case hv => decide)
    | ((with_reducible apply Keeps.after (fwCmdWrite_keeps _ _)); case hv => decide)
    | ((with_reducible apply Keeps.after (ringCtrlWrite_keeps _ _ _ _)); case hv => decide)
    | ((with_reducible apply Keeps.after (State.modDefined_keeps _ _ _)); case hv => decide)
    | ((with_reducible apply Keeps.after (State.modRing_keeps _ _ _ _)); case hv => decide)
    | ((with_reducible apply Keeps.after (State.setLnk_keeps _ _)); case hv => decide)
    | ((with_reducible apply Keeps.after (State.setFw_keeps _ _)); case hv => decide)
    | ((with_reducible apply Keeps.after (State.setCfg_keeps _ _)); case hv => decide)
    | ((with_reducible apply Keeps.after (State.setHif_keeps _ _)); case hv => decide)
    | ((with_reducible apply Keeps.after (State.modPt_keeps _ _ _)); case hv => decide)
    | ((with_reducible apply Keeps.after_modCl); (case hv => decide); (case h => (intro h; repeat' (first | with_reducible exact h | with_reducible rfl | with_reducible exact mwf_wrBytes _ _ _ h | with_reducible exact Cluster.spadWr_wf _ _ _ h | with_reducible exact Cluster.zeroSeg_wf _ _ h | with_reducible exact Cluster.zeroSegs_wf _ _ h | simp only [Cluster.setCore_spad, Cluster.setUnit_spad, Cluster.spadPoisonSet_spad, Cluster.taintHeads_spad] | split | dsimp only | exact h | exact Cluster.zeroSegs_wf _ _ h))))
    | ((with_reducible apply Keeps.after (State.trace_keeps _ _ _)); case hv => decide)
    | ((with_reducible apply Keeps.after_setMem); (case hv => decide); (case h => (intro h; obtain ⟨h1, h2, h3⟩ := h; unfold MemOk; dsimp only; refine ⟨?_, ?_, ?_⟩ <;> first | (with_reducible first | exact h1 | exact h2 | exact h3 | exact mwf_wrBytes _ _ _ h1 | exact mwf_wrBytes _ _ _ h2 | exact mwf_wrBytes _ _ _ h3 | exact mwf_filter _ _ h1 | exact mwf_foldl_mset _ _ h2 | exact mwf_nil 0 | exact mwf_mset 0 _ _ _ h2 | exact loadInto_wf _ _ h3 | exact loadInto_wf _ _ (mwf_nil 0)) | exact h1 | exact h2 | exact h3)))
    | ((with_reducible apply Keeps.after (State.setLog_keeps _ _)); case hv => decide)
    | ((with_reducible apply Keeps.after_setPwr); (case hv => decide); (case h => (unfold PwrOk; dsimp only; first | with_reducible exact fun h => h | with_reducible exact fun _ => dev_ok _ | exact fun _ => by decide | exact fun h => h)))
    | split)
theorem grdPut_keeps (s : State) (off : Nat) (b : Byte) : Keeps 64 s (grdPut s off b) := by
  unfold grdPut
  repeat' (first
    | with_reducible exact Keeps.refl _ _
    | with_reducible apply Keeps.ite
    | ((with_reducible apply Keeps.after (State.setGrd_keeps _ _)); case hv => decide))
theorem read4_keeps (s : State) (fn off : Nat) : Keeps 512 s (read4 s fn off).1 := by
  unfold read4
  repeat' (first
    | with_reducible exact Keeps.refl _ _
    | ((with_reducible apply Keeps.after (State.setHif_keeps _ _)); case hv => decide)
    | split
    | dsimp only)
theorem read8_keeps (s : State) (fn off : Nat) : Keeps 512 s (read8 s fn off).1 := by
  unfold read8
  repeat' (first
    | with_reducible exact Keeps.refl _ _
    | ((with_reducible apply Keeps.after (read4_keeps _ _ _)); case hv => decide)
    | split)
theorem windowRead_keeps (fn off size : Nat) (s : State) : Keeps 512 s (windowRead fn off size s) := by
  unfold windowRead
  repeat' (first
    | with_reducible exact Keeps.refl _ _
    | ((with_reducible apply Keeps.after (State.reply_keeps _ _)); case hv => decide)
    | ((with_reducible apply Keeps.after (read8_keeps _ _ _)); case hv => decide)
    | ((with_reducible apply Keeps.after (read4_keeps _ _ _)); case hv => decide)
    | split)
theorem write4_keeps (fn off v : Nat) (s : State) : Keeps 262142 s (write4 fn off v s) := by
  unfold write4
  repeat' (first
    | with_reducible exact Keeps.refl _ _
    | ((with_reducible apply Keeps.after (grdPut_keeps _ _ _)); case hv => decide)
    | ((with_reducible apply Keeps.after (regWrite_keeps _ _ _ _)); case hv => decide)
    | with_reducible refine Keeps.trans ?_ (Keeps.foldl (fun s x => ?_) _ _)
    | split)
theorem windowWrite_keeps (fn off size v : Nat) (s : State) : Keeps 262142 s (windowWrite fn off size v s) := by
  unfold windowWrite
  repeat' (first
    | with_reducible exact Keeps.refl _ _
    | ((with_reducible apply Keeps.after (write4_keeps _ _ _ _)); case hv => decide)
    | ((with_reducible apply Keeps.after (grdPut_keeps _ _ _)); case hv => decide)
    | ((with_reducible apply Keeps.after (regWrite_keeps _ _ _ _)); case hv => decide)
    | with_reducible refine Keeps.trans ?_ (Keeps.foldl (fun s x => ?_) _ _)
    | split)
theorem rwgWrite_keeps (r : Reg) (v : Nat) (s : State) : Keeps 26624 s (rwgWrite r v s) := by
  unfold rwgWrite
  repeat' (first
    | with_reducible exact Keeps.refl _ _
    | ((with_reducible apply Keeps.after (State.setLnk_keeps _ _)); case hv => decide)
    | ((with_reducible apply Keeps.after (State.modPt_keeps _ _ _)); case hv => decide)
    | ((with_reducible apply Keeps.after_modCl); (case hv => decide); (case h => (intro h; repeat' (first | with_reducible exact h | with_reducible rfl | with_reducible exact mwf_wrBytes _ _ _ h | with_reducible exact Cluster.spadWr_wf _ _ _ h | with_reducible exact Cluster.zeroSeg_wf _ _ h | with_reducible exact Cluster.zeroSegs_wf _ _ h | simp only [Cluster.setCore_spad, Cluster.setUnit_spad, Cluster.spadPoisonSet_spad, Cluster.taintHeads_spad] | split | dsimp only | exact h | exact Cluster.zeroSegs_wf _ _ h))))
    | split)
theorem coreRead_keeps (s : State) (o : Nat) : Keeps 131072 s (coreRead s o).1 := by
  unfold coreRead
  repeat' (first
    | with_reducible exact Keeps.refl _ _
    | ((with_reducible apply Keeps.after (State.bump_keeps _ _)); case hv => decide)
    | split)
theorem coreWrite_keeps (o : Nat) (v : Word) (s : State) : Keeps 262142 s (coreWrite o v s) := by
  unfold coreWrite
  repeat' (first
    | with_reducible exact Keeps.refl _ _
    | ((with_reducible apply Keeps.after (rwgWrite_keeps _ _ _)); case hv => decide)
    | ((with_reducible apply Keeps.after (grdPut_keeps _ _ _)); case hv => decide)
    | ((with_reducible apply Keeps.after (regWrite_keeps _ _ _ _)); case hv => decide)
    | with_reducible refine Keeps.trans ?_ (Keeps.foldl (fun s x => ?_) _ _)
    | split)
theorem mrdOp_keeps (a : Agent) (w : Word) (s : State) : Keeps 245760 s (mrdOp a w s) := by
  unfold mrdOp
  repeat' (first
    | with_reducible exact Keeps.refl _ _
    | ((with_reducible apply Keeps.after_sys); (case hv => decide))
    | ((with_reducible apply Keeps.after (State.setS_keeps _ _ _ _)); case hv => decide)
    | ((with_reducible apply Keeps.after (coreRead_keeps _ _)); case hv => decide)
    | ((with_reducible apply Keeps.after (State.advance_keeps _ _)); case hv => decide)
    | intro _)
theorem mwrOp_keeps (a : Agent) (w : Word) (s : State) : Keeps 262142 s (mwrOp a w s) := by
  unfold mwrOp
  repeat' (first
    | with_reducible exact Keeps.refl _ _
    | ((with_reducible apply Keeps.after_sys); (case hv => decide))
    | ((with_reducible apply Keeps.after (coreWrite_keeps _ _ _)); case hv => decide)
    | ((with_reducible apply Keeps.after (State.advance_keeps _ _)); case hv => decide)
    | intro _)

/-! ### Machine/Remote.lean -/

theorem State.turnAway_keeps (s : State) (k : Packet) (st : BitVec 16) : Keeps 134400 s (State.turnAway s k st) := by
  unfold State.turnAway
  repeat' (first
    | with_reducible exact Keeps.refl _ _
    | with_reducible apply Keeps.ite
    | ((with_reducible apply Keeps.after (State.respond_keeps _ _ _ _ _)); case hv => decide)
    | ((with_reducible apply Keeps.after (State.noteSev_keeps _ _ _ _ _ _)); case hv => decide))
theorem State.turnAwayOff_keeps (s : State) (k : Packet) (t : Landing) (a n : Nat) : Keeps 134400 s (State.turnAwayOff s k t a n) := by
  unfold State.turnAwayOff
  repeat' (first
    | with_reducible exact Keeps.refl _ _
    | ((with_reducible apply Keeps.after (State.respond_keeps _ _ _ _ _)); case hv => decide)
    | ((with_reducible apply Keeps.after (State.groupOffLog_keeps _ _ _ _)); case hv => decide))
theorem State.fetchAt_keeps (s : State) (t : Landing) (a n : Nat) : Keeps 140560 s (State.fetchAt s t a n).1 := by
  unfold State.fetchAt
  repeat' (first
    | with_reducible exact Keeps.refl _ _
    | ((with_reducible apply Keeps.after (State.vaultRead_keeps _ _ _)); case hv => decide)
    | with_reducible refine Keeps.trans ?_ (Keeps.foldl (fun s x => ?_) _ _))
theorem windowBytes_keeps (off n : Nat) (s : State) : Keeps 512 s (windowBytes off n s).1 := by
  unfold windowBytes
  repeat' (first
    | with_reducible exact Keeps.refl _ _
    | ((with_reducible apply Keeps.after (read8_keeps _ _ _)); case hv => decide)
    | with_reducible refine Keeps.trans ?_ (Keeps.foldlPair (fun s x => ?_) _ _)
    | split
    | dsimp only)
theorem State.expandedAt_keeps (s : State) (p : Nat) (l : KvLay) (a n : Nat) : Keeps 140560 s (State.expandedAt s p l a n).1 := by
  unfold State.expandedAt
  repeat' (first
    | with_reducible exact Keeps.refl _ _
    | ((with_reducible apply Keeps.after (State.pageGet_keeps _ _ _ _)); case hv => decide))
theorem remoteRead_keeps (k : Packet) (s : State) : Keeps 143120 s (remoteRead k s) := by
  unfold remoteRead
  repeat' (first
    | with_reducible exact Keeps.refl _ _
    | ((with_reducible apply Keeps.after (State.expandedAt_keeps _ _ _ _ _)); case hv => decide)
    | ((with_reducible apply Keeps.after (windowBytes_keeps _ _ _)); case hv => decide)
    | ((with_reducible apply Keeps.after (State.fetchAt_keeps _ _ _ _)); case hv => decide)
    | ((with_reducible apply Keeps.after (State.turnAway_keeps _ _ _)); case hv => decide)
    | ((with_reducible apply Keeps.after (State.respond_keeps _ _ _ _ _)); case hv => decide)
    | split
    | dsimp only)
theorem State.storeAt_keeps (s : State) (t : Landing) (pl : Plan) : Keeps 140560 s (State.storeAt s t pl) := by
  unfold State.storeAt
  repeat' (first
    | with_reducible exact Keeps.refl _ _
    | ((with_reducible apply Keeps.after (State.vaultWrite_keeps _ _ _)); case hv => decide)
    | with_reducible refine Keeps.trans ?_ (Keeps.foldl (fun s x => ?_) _ _)
    | with_reducible refine Keeps.trans ?_ (Keeps.foldlPair (fun s x => ?_) _ _))
theorem windowStore_keeps (k : Packet) (s : State) : Keeps 262142 s (windowStore k s) := by
  unfold windowStore
  repeat' (first
    | with_reducible exact Keeps.refl _ _
    | with_reducible apply Keeps.ite
    | ((with_reducible apply Keeps.after (windowWrite_keeps _ _ _ _ _)); case hv => decide)
    | with_reducible refine Keeps.trans ?_ (Keeps.foldl (fun s x => ?_) _ _))
theorem remoteWrite_keeps (k : Packet) (s : State) : Keeps 262142 s (remoteWrite k s) := by
  unfold remoteWrite
  repeat' (first
    | with_reducible exact Keeps.refl _ _
    | ((with_reducible apply Keeps.after (windowStore_keeps _ _)); case hv => decide)
    | ((with_reducible apply Keeps.after (State.storeAt_keeps _ _ _)); case hv => decide)
    | ((with_reducible apply Keeps.after (State.turnAwayOff_keeps _ _ _ _ _)); case hv => decide)
    | ((with_reducible apply Keeps.after (State.turnAway_keeps _ _ _)); case hv => decide)
    | ((with_reducible apply Keeps.after (State.respond_keeps _ _ _ _ _)); case hv => decide)
    | ((with_reducible apply Keeps.after (State.devPoisonSet_keeps _ _)); case hv => decide)
    | split
    | dsimp only)
theorem remoteAtomic_keeps (k : Packet) (s : State) : Keeps 142608 s (remoteAtomic k s) := by
  unfold remoteAtomic
  repeat' (first
    | with_reducible exact Keeps.refl _ _
    | ((with_reducible apply Keeps.after (State.turnAwayOff_keeps _ _ _ _ _)); case hv => decide)
    | ((with_reducible apply Keeps.after (State.turnAway_keeps _ _ _)); case hv => decide)
    | ((with_reducible apply Keeps.after (State.respond_keeps _ _ _ _ _)); case hv => decide)
    | ((with_reducible apply Keeps.after (State.atomAt_keeps _ _ _ _ _ _)); case hv => decide)
    | with_reducible refine Keeps.trans ?_ (Keeps.foldl (fun s x => ?_) _ _)
    | split
    | dsimp only)
theorem State.homeRow_keeps (s : State) (t : Landing) (base e fmt : Nat) (n : Option Nat) : Keeps 140560 s (State.homeRow s t base e fmt n).1 := by
  unfold State.homeRow
  repeat' (first
    | with_reducible exact Keeps.refl _ _
    | ((with_reducible apply Keeps.after (State.fetchAt_keeps _ _ _ _)); case hv => decide)
    | split)
theorem State.respondAll_keeps (s : State) (k : Packet) (gs : List (BitVec 256)) (ps : List Bool) : Keeps 2048 s (State.respondAll s k gs ps) := by
  unfold State.respondAll
  repeat' (first
    | with_reducible exact Keeps.refl _ _
    | with_reducible apply Keeps.ite
    | ((with_reducible apply Keeps.after (State.respond_keeps _ _ _ _ _)); case hv => decide)
    | with_reducible refine Keeps.trans ?_ (Keeps.foldl (fun s x => ?_) _ _))
theorem remoteGather_keeps (k : Packet) (s : State) : Keeps 142608 s (remoteGather k s) := by
  unfold remoteGather
  repeat' (first
    | with_reducible exact Keeps.refl _ _
    | ((with_reducible apply Keeps.after (State.respondAll_keeps _ _ _ _)); case hv => decide)
    | ((with_reducible apply Keeps.after (State.homeRow_keeps _ _ _ _ _ _)); case hv => decide)
    | ((with_reducible apply Keeps.after (State.turnAway_keeps _ _ _)); case hv => decide)
    | ((with_reducible apply Keeps.after (State.respond_keeps _ _ _ _ _)); case hv => decide)
    | with_reducible refine Keeps.trans ?_ (Keeps.foldlPair (fun s x => ?_) _ _)
    | split
    | dsimp only)
theorem remoteResp_keeps (n : Nat) (k : Packet) (s : State) : Keeps 223232 s (remoteResp n k s) := by
  unfold remoteResp
  repeat' (first
    | with_reducible exact Keeps.refl _ _
    | with_reducible apply Keeps.ite
    | ((with_reducible apply Keeps.after (State.reqDone_keeps _ _ _ _ _)); case hv => decide)
    | ((with_reducible apply Keeps.after (State.modPo_keeps _ _ _)); case hv => decide))
theorem remoteColl_keeps (n : Nat) (k : Packet) (s : State) : Keeps 225048 s (remoteColl n k s) := by
  unfold remoteColl
  repeat' (first
    | with_reducible exact Keeps.refl _ _
    | with_reducible apply Keeps.ite
    | ((with_reducible apply Keeps.after (State.collArrive_keeps _ _ _ _)); case hv => decide)
    | ((with_reducible apply Keeps.after (State.bump_keeps _ _)); case hv => decide))
theorem State.goOn_keeps (s : State) : Keeps 225048 s (State.goOn s) := by
  unfold State.goOn
  repeat' (first
    | with_reducible exact Keeps.refl _ _
    | with_reducible apply Keeps.ite
    | ((with_reducible apply Keeps.after (State.reshAll_keeps _)); case hv => decide))
theorem State.arrive_keeps (s : State) (n : Nat) (k : Packet) : Keeps 262142 s (State.arrive s n k) := by
  unfold State.arrive
  repeat' (first
    | with_reducible exact Keeps.refl _ _
    | with_reducible apply Keeps.ite
    | ((with_reducible apply Keeps.after (State.goOn_keeps _)); case hv => decide)
    | ((with_reducible apply Keeps.after (remoteColl_keeps _ _ _)); case hv => decide)
    | ((with_reducible apply Keeps.after (remoteResp_keeps _ _ _)); case hv => decide)
    | ((with_reducible apply Keeps.after (remoteGather_keeps _ _)); case hv => decide)
    | ((with_reducible apply Keeps.after (remoteAtomic_keeps _ _)); case hv => decide)
    | ((with_reducible apply Keeps.after (remoteWrite_keeps _ _)); case hv => decide)
    | ((with_reducible apply Keeps.after (remoteRead_keeps _ _)); case hv => decide)
    | ((with_reducible apply Keeps.after (State.bounce_keeps _ _ _)); case hv => decide)
    | ((with_reducible apply Keeps.after (State.send_keeps _ _)); case hv => decide)
    | ((with_reducible apply Keeps.after (State.modPo_keeps _ _ _)); case hv => decide))
theorem State.deliver_keeps (n : Nat) (s : State) (k : Packet) : Keeps 262142 s (State.deliver n s k) := by
  unfold State.deliver
  repeat' (first
    | with_reducible exact Keeps.refl _ _
    | ((with_reducible apply Keeps.after (State.arrive_keeps _ _ _)); case hv => decide)
    | ((with_reducible apply Keeps.after (State.modPo_keeps _ _ _)); case hv => decide))
theorem dataIn_keeps (n : Nat) (h : FlitHdr) (f : RawFlit) (s : State) : Keeps 262142 s (dataIn n h f s) := by
  unfold dataIn
  repeat' (first
    | with_reducible exact Keeps.refl _ _
    | with_reducible apply Keeps.ite
    | ((with_reducible apply Keeps.after (State.deliver_keeps _ _ _)); case hv => decide)
    | ((with_reducible apply Keeps.after (State.flitHead_keeps _ _ _ _)); case hv => decide)
    | ((with_reducible apply Keeps.after (State.modPo_keeps _ _ _)); case hv => decide)
    | with_reducible refine Keeps.trans ?_ (Keeps.foldl (fun s x => ?_) _ _))
theorem flitIn_keeps (n : Nat) (f : RawFlit) (s0 : State) : Keeps 262142 s0 (flitIn n f s0) := by
  unfold flitIn
  repeat' (first
    | with_reducible exact Keeps.refl _ _
    | with_reducible apply Keeps.ite
    | ((with_reducible apply Keeps.after (dataIn_keeps _ _ _ _)); case hv => decide)
    | ((with_reducible apply Keeps.after (beacon_keeps _ _ _)); case hv => decide)
    | ((with_reducible apply Keeps.after (State.badFlit_keeps _ _)); case hv => decide)
    | ((with_reducible apply Keeps.after (State.flitHead_keeps _ _ _ _)); case hv => decide)
    | ((with_reducible apply Keeps.after (State.fecAdd_keeps _ _ _)); case hv => decide)
    | ((with_reducible apply Keeps.after (trainingFlit_keeps _ _ _)); case hv => decide))
theorem systemMessage_keeps (n : Nat) (src : BitVec 14) (m : SysMsg) (s : State) : Keeps 225048 s (systemMessage n src m s) := by
  unfold systemMessage
  repeat' (first
    | with_reducible exact Keeps.refl _ _
    | with_reducible apply Keeps.ite
    | ((with_reducible apply Keeps.after (sysMessage_keeps _ _ _)); case hv => decide))

/-! ### Machine/Scratch.lean -/

theorem spadIssue_keeps (copy : Bool) (code : Nat) (a : Agent) (w : Word) (s : State) : Keeps 245760 s (spadIssue copy code a w s) := by
  unfold spadIssue
  repeat' (first
    | with_reducible exact Keeps.refl _ _
    | exact Keeps.refl _ _
    | unfold spadForm
    | ((with_reducible apply Keeps.after_formIssue); (case hv => decide))
    | intro _)
theorem sComplete_keeps (c : Nat) (j : Job) (s : State) : Keeps 147712 s (sComplete c j s) := by
  unfold sComplete
  repeat' (first
    | with_reducible exact Keeps.refl _ _
    | ((with_reducible apply Keeps.after (State.finish_keeps _ _ _ _ _)); case hv => decide)
    | ((with_reducible apply Keeps.after (State.spadWrite_keeps _ _ _ _ _)); case hv => decide)
    | ((with_reducible apply Keeps.after (State.spadTouch_keeps _ _ _ _)); case hv => decide)
    | ((with_reducible apply Keeps.after_modCl); (case hv => decide); (case h => (intro h; repeat' (first | with_reducible exact h | with_reducible rfl | with_reducible exact mwf_wrBytes _ _ _ h | with_reducible exact Cluster.spadWr_wf _ _ _ h | with_reducible exact Cluster.zeroSeg_wf _ _ h | with_reducible exact Cluster.zeroSegs_wf _ _ h | simp only [Cluster.setCore_spad, Cluster.setUnit_spad, Cluster.spadPoisonSet_spad, Cluster.taintHeads_spad] | split | dsimp only | exact h | exact Cluster.zeroSegs_wf _ _ h))))
    | ((with_reducible apply Keeps.after (State.bump_keeps _ _)); case hv => decide)
    | split)

/-! ### Machine/Stream.lean -/

theorem State.claimDrop_keeps (s : State) (t : TaskId) (h : Word) : Keeps 8192 s (State.claimDrop s t h) := by
  unfold State.claimDrop
  repeat' (first
    | with_reducible exact Keeps.refl _ _
    | ((with_reducible apply Keeps.after (State.modPt_keeps _ _ _)); case hv => decide))
theorem rngsClaimOp_keeps (a : Agent) (w : Word) (s : State) : Keeps 253952 s (rngsClaimOp a w s) := by
  unfold rngsClaimOp
  repeat' (first
    | with_reducible exact Keeps.refl _ _
    | with_reducible apply Keeps.ite
    | ((with_reducible apply Keeps.after (State.setS_keeps _ _ _ _)); case hv => decide)
    | ((with_reducible apply Keeps.after (State.setPt_keeps _ _ _)); case hv => decide)
    | ((with_reducible apply Keeps.after (State.advance_keeps _ _)); case hv => decide)
    | ((with_reducible apply Keeps.after_guarded); (case hv => decide))
    | ((with_reducible apply Keeps.after (State.faultAt_keeps _ _ _ _)); case hv => decide)
    | intro _
    | split)
theorem rngsRelOp_keeps (a : Agent) (w : Word) (s : State) : Keeps 253952 s (rngsRelOp a w s) := by
  unfold rngsRelOp
  repeat' (first
    | with_reducible exact Keeps.refl _ _
    | ((with_reducible apply Keeps.after (State.claimDrop_keeps _ _ _)); case hv => decide)
    | ((with_reducible apply Keeps.after (State.stall_keeps _ _ _)); case hv => decide)
    | ((with_reducible apply Keeps.after (State.advance_keeps _ _)); case hv => decide)
    | ((with_reducible apply Keeps.after_guarded); (case hv => decide))
    | intro _
    | split)

/-! ### Machine/Training.lean -/

theorem pComplete_keeps (c : Nat) (j : Job) (s : State) : Keeps 213248 s (pComplete c j s) := by
  unfold pComplete
  repeat' (first
    | with_reducible exact Keeps.refl _ _
    | with_reducible apply Keeps.ite
    | ((with_reducible apply Keeps.after (State.readSrcs_keeps _ _ _ _ _)); case hv => decide)
    | ((with_reducible apply Keeps.after (State.finish_keeps _ _ _ _ _)); case hv => decide)
    | ((with_reducible apply Keeps.after (State.storeOut_keeps _ _ _ _ _ _)); case hv => decide)
    | ((with_reducible apply Keeps.after (State.bump_keeps _ _)); case hv => decide))
theorem pruneIssue_keeps (a : Agent) (w : Word) (s : State) : Keeps 245760 s (pruneIssue a w s) := by
  unfold pruneIssue
  repeat' (first
    | with_reducible exact Keeps.refl _ _
    | exact Keeps.refl _ _
    | unfold pruneForm
    | ((with_reducible apply Keeps.after_formIssue); (case hv => decide))
    | intro _)

/-! ### Machine/Units.lean -/

theorem issueTensor_keeps (a : Agent) (w : Word) (s : State) : Keeps 255768 s (issueTensor a w s) := by
  unfold issueTensor
  repeat' (first
    | with_reducible exact Keeps.refl _ _
    | ((with_reducible apply Keeps.after (vredIssue_keeps _ _ _ _ _)); case hv => decide)
    | ((with_reducible apply Keeps.after (vewIssue_keeps _ _ _ _ _)); case hv => decide)
    | ((with_reducible apply Keeps.after (vcvtIssue_keeps _ _ _ _)); case hv => decide)
    | ((with_reducible apply Keeps.after (vargIssue_keeps _ _ _ _ _)); case hv => decide)
    | ((with_reducible apply Keeps.after (mIssue_keeps _ _ _ _ _)); case hv => decide)
    | ((with_reducible apply Keeps.after (kvstgIssue_keeps _ _ _)); case hv => decide)
    | ((with_reducible apply Keeps.after (kvappIssue_keeps _ _ _)); case hv => decide)
    | ((with_reducible apply Keeps.after (gathIssue_keeps _ _ _)); case hv => decide)
    | ((with_reducible apply Keeps.after (dmovIssue_keeps _ _ _)); case hv => decide)
    | ((with_reducible apply Keeps.after (attnIssue_keeps _ _ _)); case hv => decide)
    | ((with_reducible apply Keeps.after (atomIssue_keeps _ _ _)); case hv => decide)
    | ((with_reducible apply Keeps.after (collIssue_keeps _ _ _ _ _ _)); case hv => decide)
    | ((with_reducible apply Keeps.after (spadIssue_keeps _ _ _ _ _)); case hv => decide)
    | ((with_reducible apply Keeps.after (pruneIssue_keeps _ _ _)); case hv => decide)
    | split)
theorem tensorComplete_keeps (c : Nat) (u : Nat) (s : State) : Keeps 225048 s (tensorComplete c u s) := by
  unfold tensorComplete
  repeat' (first
    | with_reducible exact Keeps.refl _ _
    | with_reducible apply Keeps.ite
    | ((with_reducible apply Keeps.after (vComplete_keeps _ _ _)); case hv => decide)
    | ((with_reducible apply Keeps.after (mComplete_keeps _ _ _)); case hv => decide)
    | ((with_reducible apply Keeps.after (emptyBufs_keeps _ _)); case hv => decide)
    | ((with_reducible apply Keeps.after (dStep_keeps _ _ _)); case hv => decide)
    | ((with_reducible apply Keeps.after (aStep_keeps _ _ _)); case hv => decide)
    | ((with_reducible apply Keeps.after (cStep_keeps _ _ _)); case hv => decide)
    | ((with_reducible apply Keeps.after (sComplete_keeps _ _ _)); case hv => decide)
    | ((with_reducible apply Keeps.after (pComplete_keeps _ _ _)); case hv => decide)
    | ((with_reducible apply Keeps.after (State.freeStops_keeps _)); case hv => decide)
    | split)

end Sys2Proof.Machine
end

