-- ==== Sys2Proof/Laws/KeepsExec.lean ====
section
/-! SUPPORT. What each command may change (see `Keeps`), row by row. -/

namespace Sys2Proof.Machine

set_option linter.unusedSimpArgs false

/-! ### Machine/Matrix.lean -/

theorem execTmm_keeps (a : Agent) (w : Word) (s : State) : Keeps.Out 255768 s (execTmm a w s) := by
  unfold execTmm
  repeat' (first | apply Keeps.Out.next | exact Keeps.Out.fault | apply Keeps.Out.ite)
  repeat' (first
    | with_reducible exact Keeps.refl _ _
    | ((with_reducible apply Keeps.after (mIssue_keeps _ _ _ _ _)); case hv => decide))
theorem execTmmp_keeps (a : Agent) (w : Word) (s : State) : Keeps.Out 255768 s (execTmmp a w s) := by
  unfold execTmmp
  repeat' (first | apply Keeps.Out.next | exact Keeps.Out.fault | apply Keeps.Out.ite)
  repeat' (first
    | with_reducible exact Keeps.refl _ _
    | ((with_reducible apply Keeps.after (mIssue_keeps _ _ _ _ _)); case hv => decide))
theorem execInvocationRelease_keeps (c : Fin 768) (s : State) : Keeps.Out 223000 s (execInvocationRelease c s) := by
  unfold execInvocationRelease
  repeat' (first | apply Keeps.Out.next | exact Keeps.Out.fault | apply Keeps.Out.ite)
  repeat' (first
    | with_reducible exact Keeps.refl _ _
    | ((with_reducible apply Keeps.after (State.invocFmt_keeps _ _ _ _ _ _ _)); case hv => decide)
    | ((with_reducible apply Keeps.after (State.modJob_keeps _ _ _ _ _)); case hv => decide)
    | split)
theorem execTileEnd_keeps (c : Fin 768) (k : Fin 16) (s : State) : Keeps.Out 221440 s (execTileEnd c k s) := by
  unfold execTileEnd
  repeat' (first | apply Keeps.Out.next | exact Keeps.Out.fault | apply Keeps.Out.ite)
  repeat' (first
    | with_reducible exact Keeps.refl _ _
    | with_reducible apply Keeps.ite
    | ((with_reducible apply Keeps.after (tileEnd_keeps _ _ _)); case hv => decide))
theorem execBankDrain_keeps (c : Fin 768) (k : Fin 16) (b : Fin 2) (s : State) : Keeps.Out 16384 s (execBankDrain c k b s) := by
  unfold execBankDrain
  repeat' (first | apply Keeps.Out.next | exact Keeps.Out.fault | apply Keeps.Out.ite)
  repeat' (first
    | with_reducible exact Keeps.refl _ _
    | with_reducible apply Keeps.ite
    | ((with_reducible apply Keeps.after (bankDrain_keeps _ _ _ _)); case hv => decide))
theorem execBankDrainEnd_keeps (c : Fin 768) (k : Fin 16) (b : Fin 2) (s : State) : Keeps.Out 16384 s (execBankDrainEnd c k b s) := by
  unfold execBankDrainEnd
  repeat' (first | apply Keeps.Out.next | exact Keeps.Out.fault | apply Keeps.Out.ite)
  repeat' (first
    | with_reducible exact Keeps.refl _ _
    | with_reducible apply Keeps.ite
    | ((with_reducible apply Keeps.after (bankDrainEnd_keeps _ _ _ _)); case hv => decide))

/-! ### Machine/DataMove.lean -/

theorem execDmov_keeps (a : Agent) (w : Word) (s : State) : Keeps.Out 245760 s (execDmov a w s) := by
  unfold execDmov
  repeat' (first | apply Keeps.Out.next | exact Keeps.Out.fault | apply Keeps.Out.ite)
  repeat' (first
    | with_reducible exact Keeps.refl _ _
    | ((with_reducible apply Keeps.after (dmovIssue_keeps _ _ _)); case hv => decide))
theorem execGath_keeps (a : Agent) (w : Word) (s : State) : Keeps.Out 245760 s (execGath a w s) := by
  unfold execGath
  repeat' (first | apply Keeps.Out.next | exact Keeps.Out.fault | apply Keeps.Out.ite)
  repeat' (first
    | with_reducible exact Keeps.refl _ _
    | ((with_reducible apply Keeps.after (gathIssue_keeps _ _ _)); case hv => decide))
theorem execAtom_keeps (a : Agent) (w : Word) (s : State) : Keeps.Out 245760 s (execAtom a w s) := by
  unfold execAtom
  repeat' (first | apply Keeps.Out.next | exact Keeps.Out.fault | apply Keeps.Out.ite)
  repeat' (first
    | with_reducible exact Keeps.refl _ _
    | ((with_reducible apply Keeps.after (atomIssue_keeps _ _ _)); case hv => decide))

/-! ### Machine/Attention.lean -/

theorem execKvapp_keeps (a : Agent) (w : Word) (s : State) : Keeps.Out 255248 s (execKvapp a w s) := by
  unfold execKvapp
  repeat' (first | apply Keeps.Out.next | exact Keeps.Out.fault | apply Keeps.Out.ite)
  repeat' (first
    | with_reducible exact Keeps.refl _ _
    | ((with_reducible apply Keeps.after (kvappIssue_keeps _ _ _)); case hv => decide))
theorem execKvappResume_keeps (c : Fin 768) (s : State) : Keeps.Out 16384 s (execKvappResume c s) := by
  unfold execKvappResume
  repeat' (first | apply Keeps.Out.next | exact Keeps.Out.fault | apply Keeps.Out.ite)
  repeat' (first
    | with_reducible exact Keeps.refl _ _
    | ((with_reducible apply Keeps.after (State.modJob_keeps _ _ _ _ _)); case hv => decide)
    | split)
theorem execKvstg_keeps (a : Agent) (w : Word) (s : State) : Keeps.Out 255248 s (execKvstg a w s) := by
  unfold execKvstg
  repeat' (first | apply Keeps.Out.next | exact Keeps.Out.fault | apply Keeps.Out.ite)
  repeat' (first
    | with_reducible exact Keeps.refl _ _
    | ((with_reducible apply Keeps.after (kvstgIssue_keeps _ _ _)); case hv => decide))
theorem execAttn_keeps (a : Agent) (w : Word) (s : State) : Keeps.Out 255248 s (execAttn a w s) := by
  unfold execAttn
  repeat' (first | apply Keeps.Out.next | exact Keeps.Out.fault | apply Keeps.Out.ite)
  repeat' (first
    | with_reducible exact Keeps.refl _ _
    | ((with_reducible apply Keeps.after (attnIssue_keeps _ _ _)); case hv => decide))

/-! ### Machine/Kv.lean -/

theorem execSwapWriteDone_keeps (p : Fin 64) (sid : BitVec 32) (s : State) : Keeps.Out 8192 s (execSwapWriteDone p sid s) := by
  unfold execSwapWriteDone
  repeat' (first | apply Keeps.Out.next | exact Keeps.Out.fault | apply Keeps.Out.ite)
  repeat' (first
    | with_reducible exact Keeps.refl _ _
    | ((with_reducible apply Keeps.after (swapWriteDone_keeps _ _ _)); case hv => decide))
theorem execSwapReadDone_keeps (p : Fin 64) (sid : BitVec 32) (tagOk : Bool) (s : State) : Keeps.Out 223000 s (execSwapReadDone p sid tagOk s) := by
  unfold execSwapReadDone
  repeat' (first | apply Keeps.Out.next | exact Keeps.Out.fault | apply Keeps.Out.ite)
  repeat' (first
    | with_reducible exact Keeps.refl _ _
    | ((with_reducible apply Keeps.after (swapReadDone_keeps _ _ _ _)); case hv => decide))

/-! ### Machine/Scalar.lean -/

theorem execAdd_keeps (a : Agent) (w : Word) (s : State) : Keeps.Out 245760 s (execAdd a w s) := by
  unfold execAdd
  repeat' (first | apply Keeps.Out.next | exact Keeps.Out.fault | apply Keeps.Out.ite)
  repeat' (first
    | with_reducible exact Keeps.refl _ _
    | ((with_reducible apply Keeps.after (aluOp_keeps _ _ _ _)); case hv => decide)
    | ((with_reducible apply Keeps.after_issue); (case hv => decide))
    | intro _)
theorem execSub_keeps (a : Agent) (w : Word) (s : State) : Keeps.Out 245760 s (execSub a w s) := by
  unfold execSub
  repeat' (first | apply Keeps.Out.next | exact Keeps.Out.fault | apply Keeps.Out.ite)
  repeat' (first
    | with_reducible exact Keeps.refl _ _
    | ((with_reducible apply Keeps.after (aluOp_keeps _ _ _ _)); case hv => decide)
    | ((with_reducible apply Keeps.after_issue); (case hv => decide))
    | intro _)
theorem execAnd_keeps (a : Agent) (w : Word) (s : State) : Keeps.Out 245760 s (execAnd a w s) := by
  unfold execAnd
  repeat' (first | apply Keeps.Out.next | exact Keeps.Out.fault | apply Keeps.Out.ite)
  repeat' (first
    | with_reducible exact Keeps.refl _ _
    | ((with_reducible apply Keeps.after (aluOp_keeps _ _ _ _)); case hv => decide)
    | ((with_reducible apply Keeps.after_issue); (case hv => decide))
    | intro _)
theorem execOr_keeps (a : Agent) (w : Word) (s : State) : Keeps.Out 245760 s (execOr a w s) := by
  unfold execOr
  repeat' (first | apply Keeps.Out.next | exact Keeps.Out.fault | apply Keeps.Out.ite)
  repeat' (first
    | with_reducible exact Keeps.refl _ _
    | ((with_reducible apply Keeps.after (aluOp_keeps _ _ _ _)); case hv => decide)
    | ((with_reducible apply Keeps.after_issue); (case hv => decide))
    | intro _)
theorem execXor_keeps (a : Agent) (w : Word) (s : State) : Keeps.Out 245760 s (execXor a w s) := by
  unfold execXor
  repeat' (first | apply Keeps.Out.next | exact Keeps.Out.fault | apply Keeps.Out.ite)
  repeat' (first
    | with_reducible exact Keeps.refl _ _
    | ((with_reducible apply Keeps.after (aluOp_keeps _ _ _ _)); case hv => decide)
    | ((with_reducible apply Keeps.after_issue); (case hv => decide))
    | intro _)
theorem execShl_keeps (a : Agent) (w : Word) (s : State) : Keeps.Out 245760 s (execShl a w s) := by
  unfold execShl
  repeat' (first | apply Keeps.Out.next | exact Keeps.Out.fault | apply Keeps.Out.ite)
  repeat' (first
    | with_reducible exact Keeps.refl _ _
    | ((with_reducible apply Keeps.after (aluOp_keeps _ _ _ _)); case hv => decide)
    | ((with_reducible apply Keeps.after_issue); (case hv => decide))
    | intro _)
theorem execShr_keeps (a : Agent) (w : Word) (s : State) : Keeps.Out 245760 s (execShr a w s) := by
  unfold execShr
  repeat' (first | apply Keeps.Out.next | exact Keeps.Out.fault | apply Keeps.Out.ite)
  repeat' (first
    | with_reducible exact Keeps.refl _ _
    | ((with_reducible apply Keeps.after (aluOp_keeps _ _ _ _)); case hv => decide)
    | ((with_reducible apply Keeps.after_issue); (case hv => decide))
    | intro _)
theorem execSar_keeps (a : Agent) (w : Word) (s : State) : Keeps.Out 245760 s (execSar a w s) := by
  unfold execSar
  repeat' (first | apply Keeps.Out.next | exact Keeps.Out.fault | apply Keeps.Out.ite)
  repeat' (first
    | with_reducible exact Keeps.refl _ _
    | ((with_reducible apply Keeps.after (aluOp_keeps _ _ _ _)); case hv => decide)
    | ((with_reducible apply Keeps.after_issue); (case hv => decide))
    | intro _)
theorem execCmp_keeps (a : Agent) (w : Word) (s : State) : Keeps.Out 245760 s (execCmp a w s) := by
  unfold execCmp
  repeat' (first | apply Keeps.Out.next | exact Keeps.Out.fault | apply Keeps.Out.ite)
  repeat' (first
    | with_reducible exact Keeps.refl _ _
    | ((with_reducible apply Keeps.after (cmpOp_keeps _ _ _)); case hv => decide)
    | ((with_reducible apply Keeps.after_issue); (case hv => decide))
    | intro _)
theorem execSel_keeps (a : Agent) (w : Word) (s : State) : Keeps.Out 245760 s (execSel a w s) := by
  unfold execSel
  repeat' (first | apply Keeps.Out.next | exact Keeps.Out.fault | apply Keeps.Out.ite)
  repeat' (first
    | with_reducible exact Keeps.refl _ _
    | ((with_reducible apply Keeps.after (selOp_keeps _ _ _)); case hv => decide)
    | ((with_reducible apply Keeps.after_issue); (case hv => decide))
    | intro _)
theorem execMuls_keeps (a : Agent) (w : Word) (s : State) : Keeps.Out 245760 s (execMuls a w s) := by
  unfold execMuls
  repeat' (first | apply Keeps.Out.next | exact Keeps.Out.fault | apply Keeps.Out.ite)
  repeat' (first
    | with_reducible exact Keeps.refl _ _
    | ((with_reducible apply Keeps.after (aluOp_keeps _ _ _ _)); case hv => decide)
    | ((with_reducible apply Keeps.after_issue); (case hv => decide))
    | intro _)
theorem execMovi_keeps (a : Agent) (w : Word) (s : State) : Keeps.Out 245760 s (execMovi a w s) := by
  unfold execMovi
  repeat' (first | apply Keeps.Out.next | exact Keeps.Out.fault | apply Keeps.Out.ite)
  repeat' (first
    | with_reducible exact Keeps.refl _ _
    | ((with_reducible apply Keeps.after (moviOp_keeps _ _ _)); case hv => decide)
    | ((with_reducible apply Keeps.after_issue); (case hv => decide))
    | intro _)
theorem execMovhi_keeps (a : Agent) (w : Word) (s : State) : Keeps.Out 245760 s (execMovhi a w s) := by
  unfold execMovhi
  repeat' (first | apply Keeps.Out.next | exact Keeps.Out.fault | apply Keeps.Out.ite)
  repeat' (first
    | with_reducible exact Keeps.refl _ _
    | ((with_reducible apply Keeps.after (movhiOp_keeps _ _ _)); case hv => decide)
    | ((with_reducible apply Keeps.after_issue); (case hv => decide))
    | intro _)
theorem execLd_keeps (a : Agent) (w : Word) (s : State) : Keeps.Out 255248 s (execLd a w s) := by
  unfold execLd
  repeat' (first | apply Keeps.Out.next | exact Keeps.Out.fault | apply Keeps.Out.ite)
  repeat' (first
    | with_reducible exact Keeps.refl _ _
    | ((with_reducible apply Keeps.after (ldOp_keeps _ _ _)); case hv => decide)
    | ((with_reducible apply Keeps.after_issue); (case hv => decide))
    | intro _)
theorem execSt_keeps (a : Agent) (w : Word) (s : State) : Keeps.Out 255248 s (execSt a w s) := by
  unfold execSt
  repeat' (first | apply Keeps.Out.next | exact Keeps.Out.fault | apply Keeps.Out.ite)
  repeat' (first
    | with_reducible exact Keeps.refl _ _
    | ((with_reducible apply Keeps.after (stOp_keeps _ _ _)); case hv => decide)
    | ((with_reducible apply Keeps.after_issue); (case hv => decide))
    | intro _)
theorem execMve_keeps (a : Agent) (w : Word) (s : State) : Keeps.Out 245760 s (execMve a w s) := by
  unfold execMve
  repeat' (first | apply Keeps.Out.next | exact Keeps.Out.fault | apply Keeps.Out.ite)
  repeat' (first
    | with_reducible exact Keeps.refl _ _
    | ((with_reducible apply Keeps.after (mveOp_keeps _ _ _)); case hv => decide)
    | ((with_reducible apply Keeps.after_issue); (case hv => decide))
    | intro _)
theorem execRdst_keeps (a : Agent) (w : Word) (s : State) : Keeps.Out 245760 s (execRdst a w s) := by
  unfold execRdst
  repeat' (first | apply Keeps.Out.next | exact Keeps.Out.fault | apply Keeps.Out.ite)
  repeat' (first
    | with_reducible exact Keeps.refl _ _
    | ((with_reducible apply Keeps.after (rdstOp_keeps _ _ _)); case hv => decide)
    | ((with_reducible apply Keeps.after_issue); (case hv => decide))
    | intro _)
theorem execRdtick_keeps (a : Agent) (w : Word) (s : State) : Keeps.Out 245760 s (execRdtick a w s) := by
  unfold execRdtick
  repeat' (first | apply Keeps.Out.next | exact Keeps.Out.fault | apply Keeps.Out.ite)
  repeat' (first
    | with_reducible exact Keeps.refl _ _
    | ((with_reducible apply Keeps.after (rdtickOp_keeps _ _ _)); case hv => decide)
    | ((with_reducible apply Keeps.after_issue); (case hv => decide))
    | intro _)
theorem execDld_keeps (a : Agent) (w : Word) (s : State) : Keeps.Out 255248 s (execDld a w s) := by
  unfold execDld
  repeat' (first | apply Keeps.Out.next | exact Keeps.Out.fault | apply Keeps.Out.ite)
  repeat' (first
    | with_reducible exact Keeps.refl _ _
    | ((with_reducible apply Keeps.after (dldOp_keeps _ _ _)); case hv => decide)
    | ((with_reducible apply Keeps.after_issue); (case hv => decide))
    | intro _)
theorem execDldm_keeps (a : Agent) (w : Word) (s : State) : Keeps.Out 255248 s (execDldm a w s) := by
  unfold execDldm
  repeat' (first | apply Keeps.Out.next | exact Keeps.Out.fault | apply Keeps.Out.ite)
  repeat' (first
    | with_reducible exact Keeps.refl _ _
    | ((with_reducible apply Keeps.after (dldmOp_keeps _ _ _)); case hv => decide)
    | ((with_reducible apply Keeps.after_issue); (case hv => decide))
    | intro _)
theorem execDstr_keeps (a : Agent) (w : Word) (s : State) : Keeps.Out 255248 s (execDstr a w s) := by
  unfold execDstr
  repeat' (first | apply Keeps.Out.next | exact Keeps.Out.fault | apply Keeps.Out.ite)
  repeat' (first
    | with_reducible exact Keeps.refl _ _
    | ((with_reducible apply Keeps.after (dstrOp_keeps _ _ _)); case hv => decide)
    | ((with_reducible apply Keeps.after_issue); (case hv => decide))
    | intro _)
theorem execDset_keeps (a : Agent) (w : Word) (s : State) : Keeps.Out 245760 s (execDset a w s) := by
  unfold execDset
  repeat' (first | apply Keeps.Out.next | exact Keeps.Out.fault | apply Keeps.Out.ite)
  repeat' (first
    | with_reducible exact Keeps.refl _ _
    | ((with_reducible apply Keeps.after (descUpdate_keeps _ _ _ _)); case hv => decide)
    | ((with_reducible apply Keeps.after_issue); (case hv => decide))
    | intro _)
theorem execDadd_keeps (a : Agent) (w : Word) (s : State) : Keeps.Out 245760 s (execDadd a w s) := by
  unfold execDadd
  repeat' (first | apply Keeps.Out.next | exact Keeps.Out.fault | apply Keeps.Out.ite)
  repeat' (first
    | with_reducible exact Keeps.refl _ _
    | ((with_reducible apply Keeps.after (descUpdate_keeps _ _ _ _)); case hv => decide)
    | ((with_reducible apply Keeps.after_issue); (case hv => decide))
    | intro _)
theorem execDget_keeps (a : Agent) (w : Word) (s : State) : Keeps.Out 245760 s (execDget a w s) := by
  unfold execDget
  repeat' (first | apply Keeps.Out.next | exact Keeps.Out.fault | apply Keeps.Out.ite)
  repeat' (first
    | with_reducible exact Keeps.refl _ _
    | ((with_reducible apply Keeps.after (dgetOp_keeps _ _ _)); case hv => decide)
    | ((with_reducible apply Keeps.after_issue); (case hv => decide))
    | intro _)

/-! ### Machine/Control.lean -/

theorem execBr_keeps (a : Agent) (w : Word) (s : State) : Keeps.Out 245760 s (execBr a w s) := by
  unfold execBr
  repeat' (first | apply Keeps.Out.next | exact Keeps.Out.fault | apply Keeps.Out.ite)
  repeat' (first
    | with_reducible exact Keeps.refl _ _
    | ((with_reducible apply Keeps.after_issue); (case hv => decide))
    | ((with_reducible apply Keeps.after (brOp_keeps _ _ _)); case hv => decide)
    | intro _)
theorem execBrp_keeps (a : Agent) (w : Word) (s : State) : Keeps.Out 245760 s (execBrp a w s) := by
  unfold execBrp
  repeat' (first | apply Keeps.Out.next | exact Keeps.Out.fault | apply Keeps.Out.ite)
  repeat' (first
    | with_reducible exact Keeps.refl _ _
    | ((with_reducible apply Keeps.after_issue); (case hv => decide))
    | ((with_reducible apply Keeps.after (brCond_keeps _ _ _ _)); case hv => decide)
    | intro _)
theorem execBrn_keeps (a : Agent) (w : Word) (s : State) : Keeps.Out 245760 s (execBrn a w s) := by
  unfold execBrn
  repeat' (first | apply Keeps.Out.next | exact Keeps.Out.fault | apply Keeps.Out.ite)
  repeat' (first
    | with_reducible exact Keeps.refl _ _
    | ((with_reducible apply Keeps.after_issue); (case hv => decide))
    | ((with_reducible apply Keeps.after (brCond_keeps _ _ _ _)); case hv => decide)
    | intro _)
theorem execLoop_keeps (a : Agent) (w : Word) (s : State) : Keeps.Out 245760 s (execLoop a w s) := by
  unfold execLoop
  repeat' (first | apply Keeps.Out.next | exact Keeps.Out.fault | apply Keeps.Out.ite)
  repeat' (first
    | with_reducible exact Keeps.refl _ _
    | ((with_reducible apply Keeps.after_issue); (case hv => decide))
    | ((with_reducible apply Keeps.after (loopOp_keeps _ _ _)); case hv => decide)
    | intro _)
theorem execLoopi_keeps (a : Agent) (w : Word) (s : State) : Keeps.Out 245760 s (execLoopi a w s) := by
  unfold execLoopi
  repeat' (first | apply Keeps.Out.next | exact Keeps.Out.fault | apply Keeps.Out.ite)
  repeat' (first
    | with_reducible exact Keeps.refl _ _
    | ((with_reducible apply Keeps.after_issue); (case hv => decide))
    | ((with_reducible apply Keeps.after (loopiOp_keeps _ _ _)); case hv => decide)
    | intro _)
theorem execWaite_keeps (a : Agent) (w : Word) (s : State) : Keeps.Out 245760 s (execWaite a w s) := by
  unfold execWaite
  repeat' (first | apply Keeps.Out.next | exact Keeps.Out.fault | apply Keeps.Out.ite)
  repeat' (first
    | with_reducible exact Keeps.refl _ _
    | ((with_reducible apply Keeps.after_issue); (case hv => decide))
    | ((with_reducible apply Keeps.after (waiteOp_keeps _ _ _)); case hv => decide)
    | intro _)
theorem execWaiteResume_keeps (a : Agent) (s : State) : Keeps.Out 49152 s (execWaiteResume a s) := by
  unfold execWaiteResume
  repeat' (first | apply Keeps.Out.next | exact Keeps.Out.fault | apply Keeps.Out.ite)
  repeat' (first
    | with_reducible exact Keeps.refl _ _
    | ((with_reducible apply Keeps.after (State.resume_keeps _ _)); case hv => decide)
    | split)
theorem execEvset_keeps (a : Agent) (w : Word) (s : State) : Keeps.Out 245760 s (execEvset a w s) := by
  unfold execEvset
  repeat' (first | apply Keeps.Out.next | exact Keeps.Out.fault | apply Keeps.Out.ite)
  repeat' (first
    | with_reducible exact Keeps.refl _ _
    | ((with_reducible apply Keeps.after_issue); (case hv => decide))
    | ((with_reducible apply Keeps.after (evsetOp_keeps _ _ _)); case hv => decide)
    | intro _)
theorem execEndSeq_keeps (a : Agent) (w : Word) (s : State) : Keeps.Out 245760 s (execEndSeq a w s) := by
  unfold execEndSeq
  repeat' (first | apply Keeps.Out.next | exact Keeps.Out.fault | apply Keeps.Out.ite)
  repeat' (first
    | with_reducible exact Keeps.refl _ _
    | ((with_reducible apply Keeps.after_issue); (case hv => decide))
    | ((with_reducible apply Keeps.after (endOp_keeps _ _ _)); case hv => decide)
    | intro _)
theorem execNop_keeps (a : Agent) (w : Word) (s : State) : Keeps.Out 245760 s (execNop a w s) := by
  unfold execNop
  repeat' (first | apply Keeps.Out.next | exact Keeps.Out.fault | apply Keeps.Out.ite)
  repeat' (first
    | with_reducible exact Keeps.refl _ _
    | ((with_reducible apply Keeps.after_issue); (case hv => decide))
    | ((with_reducible apply Keeps.after (nopOp_keeps _ _ _)); case hv => decide)
    | intro _)
theorem execFence_keeps (a : Agent) (w : Word) (s : State) : Keeps.Out 245760 s (execFence a w s) := by
  unfold execFence
  repeat' (first | apply Keeps.Out.next | exact Keeps.Out.fault | apply Keeps.Out.ite)
  repeat' (first
    | with_reducible exact Keeps.refl _ _
    | ((with_reducible apply Keeps.after_issue); (case hv => decide))
    | ((with_reducible apply Keeps.after (fenceOp_keeps _ _ _)); case hv => decide)
    | intro _)
theorem execFenceResume_keeps (a : Agent) (s : State) : Keeps.Out 49152 s (execFenceResume a s) := by
  unfold execFenceResume
  repeat' (first | apply Keeps.Out.next | exact Keeps.Out.fault | apply Keeps.Out.ite)
  repeat' (first
    | with_reducible exact Keeps.refl _ _
    | ((with_reducible apply Keeps.after (State.resume_keeps _ _)); case hv => decide)
    | split)
theorem execBar_keeps (a : Agent) (w : Word) (s : State) : Keeps.Out 245760 s (execBar a w s) := by
  unfold execBar
  repeat' (first | apply Keeps.Out.next | exact Keeps.Out.fault | apply Keeps.Out.ite)
  repeat' (first
    | with_reducible exact Keeps.refl _ _
    | ((with_reducible apply Keeps.after_issue); (case hv => decide))
    | ((with_reducible apply Keeps.after (barOp_keeps _ _ _)); case hv => decide)
    | intro _)
theorem execBarRelease_keeps (t : TaskId) (s : State) : Keeps.Out 49152 s (execBarRelease t s) := by
  unfold execBarRelease
  repeat' (first | apply Keeps.Out.next | exact Keeps.Out.fault | apply Keeps.Out.ite)
  repeat' (first
    | with_reducible exact Keeps.refl _ _
    | ((with_reducible apply Keeps.after (resumeAll_keeps _ _)); case hv => decide)
    | split)
theorem execPhase_keeps (a : Agent) (w : Word) (s : State) : Keeps.Out 245760 s (execPhase a w s) := by
  unfold execPhase
  repeat' (first | apply Keeps.Out.next | exact Keeps.Out.fault | apply Keeps.Out.ite)
  repeat' (first
    | with_reducible exact Keeps.refl _ _
    | ((with_reducible apply Keeps.after_issue); (case hv => decide))
    | ((with_reducible apply Keeps.after (phaseOp_keeps _ _ _)); case hv => decide)
    | intro _)
theorem execWaitt_keeps (a : Agent) (w : Word) (s : State) : Keeps.Out 245760 s (execWaitt a w s) := by
  unfold execWaitt
  repeat' (first | apply Keeps.Out.next | exact Keeps.Out.fault | apply Keeps.Out.ite)
  repeat' (first
    | with_reducible exact Keeps.refl _ _
    | ((with_reducible apply Keeps.after_issue); (case hv => decide))
    | ((with_reducible apply Keeps.after (waittOp_keeps _ _ _)); case hv => decide)
    | intro _)
theorem execWaittResume_keeps (a : Agent) (s : State) : Keeps.Out 49152 s (execWaittResume a s) := by
  unfold execWaittResume
  repeat' (first | apply Keeps.Out.next | exact Keeps.Out.fault | apply Keeps.Out.ite)
  repeat' (first
    | with_reducible exact Keeps.refl _ _
    | ((with_reducible apply Keeps.after (State.resume_keeps _ _)); case hv => decide)
    | split)
theorem execWaitTimeout_keeps (c : Fin 768) (s : State) : Keeps.Out 212992 s (execWaitTimeout c s) := by
  unfold execWaitTimeout
  repeat' (first | apply Keeps.Out.next | exact Keeps.Out.fault | apply Keeps.Out.ite)
  repeat' (first
    | with_reducible exact Keeps.refl _ _
    | ((with_reducible apply Keeps.after (State.taskStop_keeps _ _ _ _)); case hv => decide)
    | split)

/-! ### Machine/Vector.lean -/

theorem execVewAdd_keeps (a : Agent) (w : Word) (s : State) : Keeps.Out 253952 s (execVewAdd a w s) := by
  unfold execVewAdd
  repeat' (first | apply Keeps.Out.next | exact Keeps.Out.fault | apply Keeps.Out.ite)
  repeat' (first
    | with_reducible exact Keeps.refl _ _
    | ((with_reducible apply Keeps.after (vewIssue_keeps _ _ _ _ _)); case hv => decide))
theorem execVewSub_keeps (a : Agent) (w : Word) (s : State) : Keeps.Out 253952 s (execVewSub a w s) := by
  unfold execVewSub
  repeat' (first | apply Keeps.Out.next | exact Keeps.Out.fault | apply Keeps.Out.ite)
  repeat' (first
    | with_reducible exact Keeps.refl _ _
    | ((with_reducible apply Keeps.after (vewIssue_keeps _ _ _ _ _)); case hv => decide))
theorem execVewMax_keeps (a : Agent) (w : Word) (s : State) : Keeps.Out 253952 s (execVewMax a w s) := by
  unfold execVewMax
  repeat' (first | apply Keeps.Out.next | exact Keeps.Out.fault | apply Keeps.Out.ite)
  repeat' (first
    | with_reducible exact Keeps.refl _ _
    | ((with_reducible apply Keeps.after (vewIssue_keeps _ _ _ _ _)); case hv => decide))
theorem execVewMin_keeps (a : Agent) (w : Word) (s : State) : Keeps.Out 253952 s (execVewMin a w s) := by
  unfold execVewMin
  repeat' (first | apply Keeps.Out.next | exact Keeps.Out.fault | apply Keeps.Out.ite)
  repeat' (first
    | with_reducible exact Keeps.refl _ _
    | ((with_reducible apply Keeps.after (vewIssue_keeps _ _ _ _ _)); case hv => decide))
theorem execVewAbs_keeps (a : Agent) (w : Word) (s : State) : Keeps.Out 253952 s (execVewAbs a w s) := by
  unfold execVewAbs
  repeat' (first | apply Keeps.Out.next | exact Keeps.Out.fault | apply Keeps.Out.ite)
  repeat' (first
    | with_reducible exact Keeps.refl _ _
    | ((with_reducible apply Keeps.after (vewIssue_keeps _ _ _ _ _)); case hv => decide))
theorem execVewNeg_keeps (a : Agent) (w : Word) (s : State) : Keeps.Out 253952 s (execVewNeg a w s) := by
  unfold execVewNeg
  repeat' (first | apply Keeps.Out.next | exact Keeps.Out.fault | apply Keeps.Out.ite)
  repeat' (first
    | with_reducible exact Keeps.refl _ _
    | ((with_reducible apply Keeps.after (vewIssue_keeps _ _ _ _ _)); case hv => decide))
theorem execVewMul_keeps (a : Agent) (w : Word) (s : State) : Keeps.Out 253952 s (execVewMul a w s) := by
  unfold execVewMul
  repeat' (first | apply Keeps.Out.next | exact Keeps.Out.fault | apply Keeps.Out.ite)
  repeat' (first
    | with_reducible exact Keeps.refl _ _
    | ((with_reducible apply Keeps.after (vewIssue_keeps _ _ _ _ _)); case hv => decide))
theorem execVewDiv_keeps (a : Agent) (w : Word) (s : State) : Keeps.Out 253952 s (execVewDiv a w s) := by
  unfold execVewDiv
  repeat' (first | apply Keeps.Out.next | exact Keeps.Out.fault | apply Keeps.Out.ite)
  repeat' (first
    | with_reducible exact Keeps.refl _ _
    | ((with_reducible apply Keeps.after (vewIssue_keeps _ _ _ _ _)); case hv => decide))
theorem execVewMuladd_keeps (a : Agent) (w : Word) (s : State) : Keeps.Out 253952 s (execVewMuladd a w s) := by
  unfold execVewMuladd
  repeat' (first | apply Keeps.Out.next | exact Keeps.Out.fault | apply Keeps.Out.ite)
  repeat' (first
    | with_reducible exact Keeps.refl _ _
    | ((with_reducible apply Keeps.after (vewIssue_keeps _ _ _ _ _)); case hv => decide))
theorem execVewSqrt_keeps (a : Agent) (w : Word) (s : State) : Keeps.Out 253952 s (execVewSqrt a w s) := by
  unfold execVewSqrt
  repeat' (first | apply Keeps.Out.next | exact Keeps.Out.fault | apply Keeps.Out.ite)
  repeat' (first
    | with_reducible exact Keeps.refl _ _
    | ((with_reducible apply Keeps.after (vewIssue_keeps _ _ _ _ _)); case hv => decide))
theorem execVewRsqrt_keeps (a : Agent) (w : Word) (s : State) : Keeps.Out 253952 s (execVewRsqrt a w s) := by
  unfold execVewRsqrt
  repeat' (first | apply Keeps.Out.next | exact Keeps.Out.fault | apply Keeps.Out.ite)
  repeat' (first
    | with_reducible exact Keeps.refl _ _
    | ((with_reducible apply Keeps.after (vewIssue_keeps _ _ _ _ _)); case hv => decide))
theorem execVewExp2_keeps (a : Agent) (w : Word) (s : State) : Keeps.Out 253952 s (execVewExp2 a w s) := by
  unfold execVewExp2
  repeat' (first | apply Keeps.Out.next | exact Keeps.Out.fault | apply Keeps.Out.ite)
  repeat' (first
    | with_reducible exact Keeps.refl _ _
    | ((with_reducible apply Keeps.after (vewIssue_keeps _ _ _ _ _)); case hv => decide))
theorem execVewExp_keeps (a : Agent) (w : Word) (s : State) : Keeps.Out 253952 s (execVewExp a w s) := by
  unfold execVewExp
  repeat' (first | apply Keeps.Out.next | exact Keeps.Out.fault | apply Keeps.Out.ite)
  repeat' (first
    | with_reducible exact Keeps.refl _ _
    | ((with_reducible apply Keeps.after (vewIssue_keeps _ _ _ _ _)); case hv => decide))
theorem execVewLog2_keeps (a : Agent) (w : Word) (s : State) : Keeps.Out 253952 s (execVewLog2 a w s) := by
  unfold execVewLog2
  repeat' (first | apply Keeps.Out.next | exact Keeps.Out.fault | apply Keeps.Out.ite)
  repeat' (first
    | with_reducible exact Keeps.refl _ _
    | ((with_reducible apply Keeps.after (vewIssue_keeps _ _ _ _ _)); case hv => decide))
theorem execVewLog_keeps (a : Agent) (w : Word) (s : State) : Keeps.Out 253952 s (execVewLog a w s) := by
  unfold execVewLog
  repeat' (first | apply Keeps.Out.next | exact Keeps.Out.fault | apply Keeps.Out.ite)
  repeat' (first
    | with_reducible exact Keeps.refl _ _
    | ((with_reducible apply Keeps.after (vewIssue_keeps _ _ _ _ _)); case hv => decide))
theorem execVewPow_keeps (a : Agent) (w : Word) (s : State) : Keeps.Out 253952 s (execVewPow a w s) := by
  unfold execVewPow
  repeat' (first | apply Keeps.Out.next | exact Keeps.Out.fault | apply Keeps.Out.ite)
  repeat' (first
    | with_reducible exact Keeps.refl _ _
    | ((with_reducible apply Keeps.after (vewIssue_keeps _ _ _ _ _)); case hv => decide))
theorem execVewSigm_keeps (a : Agent) (w : Word) (s : State) : Keeps.Out 253952 s (execVewSigm a w s) := by
  unfold execVewSigm
  repeat' (first | apply Keeps.Out.next | exact Keeps.Out.fault | apply Keeps.Out.ite)
  repeat' (first
    | with_reducible exact Keeps.refl _ _
    | ((with_reducible apply Keeps.after (vewIssue_keeps _ _ _ _ _)); case hv => decide))
theorem execVewSilu_keeps (a : Agent) (w : Word) (s : State) : Keeps.Out 253952 s (execVewSilu a w s) := by
  unfold execVewSilu
  repeat' (first | apply Keeps.Out.next | exact Keeps.Out.fault | apply Keeps.Out.ite)
  repeat' (first
    | with_reducible exact Keeps.refl _ _
    | ((with_reducible apply Keeps.after (vewIssue_keeps _ _ _ _ _)); case hv => decide))
theorem execVredSum_keeps (a : Agent) (w : Word) (s : State) : Keeps.Out 253952 s (execVredSum a w s) := by
  unfold execVredSum
  repeat' (first | apply Keeps.Out.next | exact Keeps.Out.fault | apply Keeps.Out.ite)
  repeat' (first
    | with_reducible exact Keeps.refl _ _
    | ((with_reducible apply Keeps.after (vredIssue_keeps _ _ _ _ _)); case hv => decide))
theorem execVredMax_keeps (a : Agent) (w : Word) (s : State) : Keeps.Out 253952 s (execVredMax a w s) := by
  unfold execVredMax
  repeat' (first | apply Keeps.Out.next | exact Keeps.Out.fault | apply Keeps.Out.ite)
  repeat' (first
    | with_reducible exact Keeps.refl _ _
    | ((with_reducible apply Keeps.after (vredIssue_keeps _ _ _ _ _)); case hv => decide))
theorem execVredMin_keeps (a : Agent) (w : Word) (s : State) : Keeps.Out 253952 s (execVredMin a w s) := by
  unfold execVredMin
  repeat' (first | apply Keeps.Out.next | exact Keeps.Out.fault | apply Keeps.Out.ite)
  repeat' (first
    | with_reducible exact Keeps.refl _ _
    | ((with_reducible apply Keeps.after (vredIssue_keeps _ _ _ _ _)); case hv => decide))
theorem execVargMax_keeps (a : Agent) (w : Word) (s : State) : Keeps.Out 253952 s (execVargMax a w s) := by
  unfold execVargMax
  repeat' (first | apply Keeps.Out.next | exact Keeps.Out.fault | apply Keeps.Out.ite)
  repeat' (first
    | with_reducible exact Keeps.refl _ _
    | ((with_reducible apply Keeps.after (vargIssue_keeps _ _ _ _ _)); case hv => decide))
theorem execVargMin_keeps (a : Agent) (w : Word) (s : State) : Keeps.Out 253952 s (execVargMin a w s) := by
  unfold execVargMin
  repeat' (first | apply Keeps.Out.next | exact Keeps.Out.fault | apply Keeps.Out.ite)
  repeat' (first
    | with_reducible exact Keeps.refl _ _
    | ((with_reducible apply Keeps.after (vargIssue_keeps _ _ _ _ _)); case hv => decide))
theorem execVcvt_keeps (a : Agent) (w : Word) (s : State) : Keeps.Out 253952 s (execVcvt a w s) := by
  unfold execVcvt
  repeat' (first | apply Keeps.Out.next | exact Keeps.Out.fault | apply Keeps.Out.ite)
  repeat' (first
    | with_reducible exact Keeps.refl _ _
    | ((with_reducible apply Keeps.after (vcvtIssue_keeps _ _ _ _)); case hv => decide))

/-! ### Machine/Collective.lean -/

theorem execCollSetup_keeps (n : Fin 39) (m : SetupMsg) (s : State) : Keeps.Out 225048 s (execCollSetup n m s) := by
  unfold execCollSetup
  repeat' (first | apply Keeps.Out.next | exact Keeps.Out.fault | apply Keeps.Out.ite)
  repeat' (first
    | with_reducible exact Keeps.refl _ _
    | ((with_reducible apply Keeps.after (State.collArrive_keeps _ _ _ _)); case hv => decide))
theorem execCollContribution_keeps (n : Fin 39) (m : Segment) (s : State) : Keeps.Out 225048 s (execCollContribution n m s) := by
  unfold execCollContribution
  repeat' (first | apply Keeps.Out.next | exact Keeps.Out.fault | apply Keeps.Out.ite)
  repeat' (first
    | with_reducible exact Keeps.refl _ _
    | ((with_reducible apply Keeps.after (State.collArrive_keeps _ _ _ _)); case hv => decide))
theorem execCollResult_keeps (n : Fin 39) (m : Segment) (s : State) : Keeps.Out 225048 s (execCollResult n m s) := by
  unfold execCollResult
  repeat' (first | apply Keeps.Out.next | exact Keeps.Out.fault | apply Keeps.Out.ite)
  repeat' (first
    | with_reducible exact Keeps.refl _ _
    | ((with_reducible apply Keeps.after (State.collArrive_keeps _ _ _ _)); case hv => decide))
theorem execCollAbort_keeps (n : Fin 39) (m : Segment) (status : BitVec 16) (s : State) : Keeps.Out 225048 s (execCollAbort n m status s) := by
  unfold execCollAbort
  repeat' (first | apply Keeps.Out.next | exact Keeps.Out.fault | apply Keeps.Out.ite)
  repeat' (first
    | with_reducible exact Keeps.refl _ _
    | ((with_reducible apply Keeps.after (State.collArrive_keeps _ _ _ _)); case hv => decide))
theorem execCred_keeps (a : Agent) (w : Word) (s : State) : Keeps.Out 255768 s (execCred a w s) := by
  unfold execCred
  repeat' (first | apply Keeps.Out.next | exact Keeps.Out.fault | apply Keeps.Out.ite)
  repeat' (first
    | with_reducible exact Keeps.refl _ _
    | ((with_reducible apply Keeps.after (collIssue_keeps _ _ _ _ _ _)); case hv => decide))
theorem execCbrd_keeps (a : Agent) (w : Word) (s : State) : Keeps.Out 255768 s (execCbrd a w s) := by
  unfold execCbrd
  repeat' (first | apply Keeps.Out.next | exact Keeps.Out.fault | apply Keeps.Out.ite)
  repeat' (first
    | with_reducible exact Keeps.refl _ _
    | ((with_reducible apply Keeps.after (collIssue_keeps _ _ _ _ _ _)); case hv => decide))
theorem execCgat_keeps (a : Agent) (w : Word) (s : State) : Keeps.Out 255768 s (execCgat a w s) := by
  unfold execCgat
  repeat' (first | apply Keeps.Out.next | exact Keeps.Out.fault | apply Keeps.Out.ite)
  repeat' (first
    | with_reducible exact Keeps.refl _ _
    | ((with_reducible apply Keeps.after (collIssue_keeps _ _ _ _ _ _)); case hv => decide))

/-! ### Machine/Rings.lean -/

theorem execEntrySeq_keeps (p : Fin 64) (n : Fin 4) (s : State) : Keeps.Out 223000 s (execEntrySeq p n s) := by
  unfold execEntrySeq
  repeat' (first | apply Keeps.Out.next | exact Keeps.Out.fault | apply Keeps.Out.ite)
  repeat' (first
    | with_reducible exact Keeps.refl _ _
    | ((with_reducible apply Keeps.after (entrySeq_keeps _ _ _)); case hv => decide))
theorem execRingEnable_keeps (p : Fin 64) (n : Fin 4) (s : State) : Keeps.Out 225176 s (execRingEnable p n s) := by
  unfold execRingEnable
  repeat' (first | apply Keeps.Out.next | exact Keeps.Out.fault | apply Keeps.Out.ite)
  repeat' (first
    | with_reducible exact Keeps.refl _ _
    | ((with_reducible apply Keeps.after (ringEnable_keeps _ _ _)); case hv => decide))
theorem execRingDisable_keeps (p : Fin 64) (n : Fin 4) (s : State) : Keeps.Out 8320 s (execRingDisable p n s) := by
  unfold execRingDisable
  repeat' (first | apply Keeps.Out.next | exact Keeps.Out.fault | apply Keeps.Out.ite)
  repeat' (first
    | with_reducible exact Keeps.refl _ _
    | ((with_reducible apply Keeps.after (ringDisable_keeps _ _ _)); case hv => decide))
theorem execNopEntry_keeps (e : EntryId) (s : State) : Keeps.Out 141056 s (execNopEntry e s) := by
  unfold execNopEntry
  repeat' (first | apply Keeps.Out.next | exact Keeps.Out.fault | apply Keeps.Out.ite)
  repeat' (first
    | with_reducible exact Keeps.refl _ _
    | ((with_reducible apply Keeps.after (nopEntry_keeps _ _)); case hv => decide))
theorem execTask_keeps (e : EntryId) (s : State) : Keeps.Out 223000 s (execTask e s) := by
  unfold execTask
  repeat' (first | apply Keeps.Out.next | exact Keeps.Out.fault | apply Keeps.Out.ite)
  repeat' (first
    | with_reducible exact Keeps.refl _ _
    | ((with_reducible apply Keeps.after (State.tryTask_keeps _ _ _)); case hv => decide)
    | split)
theorem execTaskStart_keeps (e : EntryId) (s : State) : Keeps.Out 223000 s (execTaskStart e s) := by
  unfold execTaskStart
  repeat' (first | apply Keeps.Out.next | exact Keeps.Out.fault | apply Keeps.Out.ite)
  repeat' (first
    | with_reducible exact Keeps.refl _ _
    | ((with_reducible apply Keeps.after (State.tryTask_keeps _ _ _)); case hv => decide)
    | split)
theorem execStep_keeps (e : EntryId) (s : State) : Keeps.Out 255762 s (execStep e s) := by
  unfold execStep
  repeat' (first | apply Keeps.Out.next | exact Keeps.Out.fault | apply Keeps.Out.ite)
  repeat' (first
    | with_reducible exact Keeps.refl _ _
    | ((with_reducible apply Keeps.after (stepEntry_keeps _ _)); case hv => decide))
theorem execSeqAdmit_keeps (e : EntryId) (s : State) : Keeps.Out 223000 s (execSeqAdmit e s) := by
  unfold execSeqAdmit
  repeat' (first | apply Keeps.Out.next | exact Keeps.Out.fault | apply Keeps.Out.ite)
  repeat' (first
    | with_reducible exact Keeps.refl _ _
    | ((with_reducible apply Keeps.after (seqAdmit_keeps _ _)); case hv => decide))
theorem execSeqEnd_keeps (e : EntryId) (s : State) : Keeps.Out 141072 s (execSeqEnd e s) := by
  unfold execSeqEnd
  repeat' (first | apply Keeps.Out.next | exact Keeps.Out.fault | apply Keeps.Out.ite)
  repeat' (first
    | with_reducible exact Keeps.refl _ _
    | ((with_reducible apply Keeps.after (seqEnd_keeps _ _)); case hv => decide))

/-! ### Machine/Reshard.lean -/

theorem execReshard_keeps (e : EntryId) (s : State) : Keeps.Out 225048 s (execReshard e s) := by
  unfold execReshard
  repeat' (first | apply Keeps.Out.next | exact Keeps.Out.fault | apply Keeps.Out.ite)
  repeat' (first
    | with_reducible exact Keeps.refl _ _
    | ((with_reducible apply Keeps.after (reshard_keeps _ _)); case hv => decide))
theorem execReshardRecordDone_keeps (p : Fin 64) (s : State) : Keeps.Out 225048 s (execReshardRecordDone p s) := by
  unfold execReshardRecordDone
  repeat' (first | apply Keeps.Out.next | exact Keeps.Out.fault | apply Keeps.Out.ite)
  repeat' (first
    | with_reducible exact Keeps.refl _ _
    | ((with_reducible apply Keeps.after (reshardRecordDone_keeps _ _)); case hv => decide))

/-! ### Machine/HostLoss.lean -/

theorem execHeartbeat_keeps (s : State) : Keeps.Out 512 s (execHeartbeat s) := by
  unfold execHeartbeat
  repeat' (first | apply Keeps.Out.next | exact Keeps.Out.fault | apply Keeps.Out.ite)
  repeat' (first
    | with_reducible exact Keeps.refl _ _
    | ((with_reducible apply Keeps.after (heartbeat_keeps _)); case hv => decide))
theorem execPartitionHeartbeat_keeps (p : Fin 64) (s : State) : Keeps.Out 8192 s (execPartitionHeartbeat p s) := by
  unfold execPartitionHeartbeat
  repeat' (first | apply Keeps.Out.next | exact Keeps.Out.fault | apply Keeps.Out.ite)
  repeat' (first
    | with_reducible exact Keeps.refl _ _
    | ((with_reducible apply Keeps.after (partitionHeartbeat_keeps _ _)); case hv => decide))
theorem execHeartbeatExpiry_keeps (s : State) : Keeps.Out 257946 s (execHeartbeatExpiry s) := by
  unfold execHeartbeatExpiry
  repeat' (first | apply Keeps.Out.next | exact Keeps.Out.fault | apply Keeps.Out.ite)
  repeat' (first
    | with_reducible exact Keeps.refl _ _
    | with_reducible apply Keeps.ite
    | ((with_reducible apply Keeps.after (State.enterLost_keeps _ _)); case hv => decide))
theorem execPartitionHbExpiry_keeps (p : Fin 64) (s : State) : Keeps.Out 257946 s (execPartitionHbExpiry p s) := by
  unfold execPartitionHbExpiry
  repeat' (first | apply Keeps.Out.next | exact Keeps.Out.fault | apply Keeps.Out.ite)
  repeat' (first
    | with_reducible exact Keeps.refl _ _
    | with_reducible apply Keeps.ite
    | ((with_reducible apply Keeps.after (State.enterLost_keeps _ _)); case hv => decide))
theorem execDetach_keeps (x : Option (Fin 64)) (s : State) : Keeps.Out 225178 s (execDetach x s) := by
  unfold execDetach
  repeat' (first | apply Keeps.Out.next | exact Keeps.Out.fault | apply Keeps.Out.ite)
  repeat' (first
    | with_reducible exact Keeps.refl _ _
    | ((with_reducible apply Keeps.after (detach_keeps _ _)); case hv => decide))
theorem execDetachParkTimeout_keeps (x : Option (Fin 64)) (s : State) : Keeps.Out 225050 s (execDetachParkTimeout x s) := by
  unfold execDetachParkTimeout
  repeat' (first | apply Keeps.Out.next | exact Keeps.Out.fault | apply Keeps.Out.ite)
  repeat' (first
    | with_reducible exact Keeps.refl _ _
    | with_reducible apply Keeps.ite
    | ((with_reducible apply Keeps.after (State.detachDone_keeps _ _)); case hv => decide))
theorem execAttach_keeps (x : Option (Fin 64)) (s : State) : Keeps.Out 255890 s (execAttach x s) := by
  unfold execAttach
  repeat' (first | apply Keeps.Out.next | exact Keeps.Out.fault | apply Keeps.Out.ite)
  repeat' (first
    | with_reducible exact Keeps.refl _ _
    | ((with_reducible apply Keeps.after (attach_keeps _ _)); case hv => decide))
theorem execRetainExpiry_keeps (x : Option (Fin 64)) (s : State) : Keeps.Out 225050 s (execRetainExpiry x s) := by
  unfold execRetainExpiry
  repeat' (first | apply Keeps.Out.next | exact Keeps.Out.fault | apply Keeps.Out.ite)
  repeat' (first
    | with_reducible exact Keeps.refl _ _
    | with_reducible apply Keeps.ite
    | ((with_reducible apply Keeps.after (State.retainScope_keeps _ _)); case hv => decide))
theorem execRelease_keeps (p : Fin 64) (s : State) : Keeps.Out 157072 s (execRelease p s) := by
  unfold execRelease
  repeat' (first | apply Keeps.Out.next | exact Keeps.Out.fault | apply Keeps.Out.ite)
  repeat' (first
    | with_reducible exact Keeps.refl _ _
    | ((with_reducible apply Keeps.after (releasePart_keeps _ _)); case hv => decide))
theorem execVfFlr_keeps (k : Fin 64) (s : State) : Keeps.Out 225178 s (execVfFlr k s) := by
  unfold execVfFlr
  repeat' (first | apply Keeps.Out.next | exact Keeps.Out.fault | apply Keeps.Out.ite)
  repeat' (first
    | with_reducible exact Keeps.refl _ _
    | ((with_reducible apply Keeps.after (vfFlrNow_keeps _ _)); case hv => decide)
    | (with_reducible apply Keeps.after_orWait (by decide))
    | intro _)
theorem execPfFlr_keeps (s : State) : Keeps.Out 225178 s (execPfFlr s) := by
  unfold execPfFlr
  repeat' (first | apply Keeps.Out.next | exact Keeps.Out.fault | apply Keeps.Out.ite)
  repeat' (first
    | with_reducible exact Keeps.refl _ _
    | ((with_reducible apply Keeps.after (pfFlrNow_keeps _)); case hv => decide)
    | (with_reducible apply Keeps.after_orWait (by decide))
    | intro _)

/-! ### Machine/Meridian.lean -/

theorem execBeacon_keeps (n : Fin 39) (b : BeaconMsg) (s : State) : Keeps.Out 138500 s (execBeacon n b s) := by
  unfold execBeacon
  repeat' (first | apply Keeps.Out.next | exact Keeps.Out.fault | apply Keeps.Out.ite)
  repeat' (first
    | with_reducible exact Keeps.refl _ _
    | ((with_reducible apply Keeps.after (beacon_keeps _ _ _)); case hv => decide))
theorem execBeaconSend_keeps (n : Fin 39) (s : State) : Keeps.Out 133120 s (execBeaconSend n s) := by
  unfold execBeaconSend
  repeat' (first | apply Keeps.Out.next | exact Keeps.Out.fault | apply Keeps.Out.ite)
  repeat' (first
    | with_reducible exact Keeps.refl _ _
    | ((with_reducible apply Keeps.after (beaconSend_keeps _ _)); case hv => decide))

/-! ### Machine/Links.lean -/

theorem execLaneTrained_keeps (n : Fin 39) (lanes : BitVec 4) (s : State) : Keeps.Out 2048 s (execLaneTrained n lanes s) := by
  unfold execLaneTrained
  repeat' (first | apply Keeps.Out.next | exact Keeps.Out.fault | apply Keeps.Out.ite)
  repeat' (first
    | with_reducible exact Keeps.refl _ _
    | ((with_reducible apply Keeps.after (laneTrained_keeps _ _ _)); case hv => decide))
theorem execTrainingFlit_keeps (n : Fin 39) (i : Ident) (s : State) : Keeps.Out 228608 s (execTrainingFlit n i s) := by
  unfold execTrainingFlit
  repeat' (first | apply Keeps.Out.next | exact Keeps.Out.fault | apply Keeps.Out.ite)
  repeat' (first
    | with_reducible exact Keeps.refl _ _
    | ((with_reducible apply Keeps.after (trainingFlit_keeps _ _ _)); case hv => decide))
theorem execTrainingFlitSend_keeps (n : Fin 39) (s : State) : Keeps.Out 2048 s (execTrainingFlitSend n s) := by
  unfold execTrainingFlitSend
  repeat' (first | apply Keeps.Out.next | exact Keeps.Out.fault | apply Keeps.Out.ite)
  repeat' (first
    | with_reducible exact Keeps.refl _ _
    | ((with_reducible apply Keeps.after (trainingFlitSend_keeps _ _)); case hv => decide))
theorem execIdentityTimeout_keeps (n : Fin 39) (s : State) : Keeps.Out 228608 s (execIdentityTimeout n s) := by
  unfold execIdentityTimeout
  repeat' (first | apply Keeps.Out.next | exact Keeps.Out.fault | apply Keeps.Out.ite)
  repeat' (first
    | with_reducible exact Keeps.refl _ _
    | with_reducible apply Keeps.ite
    | ((with_reducible apply Keeps.after (State.portLost_keeps _ _)); case hv => decide))
theorem execLaneSignalLoss_keeps (n : Fin 39) (s : State) : Keeps.Out 228608 s (execLaneSignalLoss n s) := by
  unfold execLaneSignalLoss
  repeat' (first | apply Keeps.Out.next | exact Keeps.Out.fault | apply Keeps.Out.ite)
  repeat' (first
    | with_reducible exact Keeps.refl _ _
    | ((with_reducible apply Keeps.after (laneSignalLoss_keeps _ _)); case hv => decide))
theorem execPortSilenceTimeout_keeps (n : Fin 39) (s : State) : Keeps.Out 228608 s (execPortSilenceTimeout n s) := by
  unfold execPortSilenceTimeout
  repeat' (first | apply Keeps.Out.next | exact Keeps.Out.fault | apply Keeps.Out.ite)
  repeat' (first
    | with_reducible exact Keeps.refl _ _
    | ((with_reducible apply Keeps.after (portSilence_keeps _ _)); case hv => decide))
theorem execDarkNotice_keeps (n : Fin 39) (s : State) : Keeps.Out 2048 s (execDarkNotice n s) := by
  unfold execDarkNotice
  repeat' (first | apply Keeps.Out.next | exact Keeps.Out.fault | apply Keeps.Out.ite)
  repeat' (first
    | with_reducible exact Keeps.refl _ _
    | with_reducible apply Keeps.ite
    | ((with_reducible apply Keeps.after (State.modPo_keeps _ _ _)); case hv => decide))
theorem execLaneLightDetect_keeps (n : Fin 39) (s : State) : Keeps.Out 138496 s (execLaneLightDetect n s) := by
  unfold execLaneLightDetect
  repeat' (first | apply Keeps.Out.next | exact Keeps.Out.fault | apply Keeps.Out.ite)
  repeat' (first
    | with_reducible exact Keeps.refl _ _
    | with_reducible apply Keeps.ite
    | ((with_reducible apply Keeps.after (State.beginTraining_keeps _ _)); case hv => decide))
theorem execWithdrawalMessage_keeps (n : Fin 39) (s : State) : Keeps.Out 228608 s (execWithdrawalMessage n s) := by
  unfold execWithdrawalMessage
  repeat' (first | apply Keeps.Out.next | exact Keeps.Out.fault | apply Keeps.Out.ite)
  repeat' (first
    | with_reducible exact Keeps.refl _ _
    | with_reducible apply Keeps.ite
    | ((with_reducible apply Keeps.after (State.drainCheck_keeps _ _)); case hv => decide)
    | ((with_reducible apply Keeps.after (State.modPo_keeps _ _ _)); case hv => decide))
theorem execRetrain_keeps (n : Fin 39) (s : State) : Keeps.Out 138624 s (execRetrain n s) := by
  unfold execRetrain
  repeat' (first | apply Keeps.Out.next | exact Keeps.Out.fault | apply Keeps.Out.ite)
  repeat' (first
    | with_reducible exact Keeps.refl _ _
    | ((with_reducible apply Keeps.after (retrain_keeps _ _)); case hv => decide))
theorem execChipAssign_keeps (chip : BitVec 14) (s : State) : Keeps.Out 138624 s (execChipAssign chip s) := by
  unfold execChipAssign
  repeat' (first | apply Keeps.Out.next | exact Keeps.Out.fault | apply Keeps.Out.ite)
  repeat' (first
    | with_reducible exact Keeps.refl _ _
    | ((with_reducible apply Keeps.after (chipAssign_keeps _ _)); case hv => decide))
theorem execAdopt_keeps (ports : BitVec 39) (s : State) : Keeps.Out 138624 s (execAdopt ports s) := by
  unfold execAdopt
  repeat' (first | apply Keeps.Out.next | exact Keeps.Out.fault | apply Keeps.Out.ite)
  repeat' (first
    | with_reducible exact Keeps.refl _ _
    | ((with_reducible apply Keeps.after (adopt_keeps _ _)); case hv => decide))
theorem execLitLanesChange_keeps (value : BitVec 32) (s : State) : Keeps.Out 228736 s (execLitLanesChange value s) := by
  unfold execLitLanesChange
  repeat' (first | apply Keeps.Out.next | exact Keeps.Out.fault | apply Keeps.Out.ite)
  repeat' (first
    | with_reducible exact Keeps.refl _ _
    | ((with_reducible apply Keeps.after (litLanesChange_keeps _ _)); case hv => decide))
theorem execLaneChangeDone_keeps (s : State) : Keeps.Out 228608 s (execLaneChangeDone s) := by
  unfold execLaneChangeDone
  repeat' (first | apply Keeps.Out.next | exact Keeps.Out.fault | apply Keeps.Out.ite)
  repeat' (first
    | with_reducible exact Keeps.refl _ _
    | ((with_reducible apply Keeps.after (laneChangeDone_keeps _)); case hv => decide))

/-! ### Machine/Flash.lean -/

theorem execConfigWrite_keeps (s : State) : Keeps.Out 140688 s (execConfigWrite s) := by
  unfold execConfigWrite
  repeat' (first | apply Keeps.Out.next | exact Keeps.Out.fault | apply Keeps.Out.ite)
  repeat' (first
    | with_reducible exact Keeps.refl _ _
    | ((with_reducible apply Keeps.after (configWrite_keeps _)); case hv => decide))
theorem execFieldRewrite_keeps (s : State) : Keeps.Out 140560 s (execFieldRewrite s) := by
  unfold execFieldRewrite
  repeat' (first | apply Keeps.Out.next | exact Keeps.Out.fault | apply Keeps.Out.ite)
  repeat' (first
    | with_reducible exact Keeps.refl _ _
    | with_reducible apply Keeps.ite
    | ((with_reducible apply Keeps.after (State.fieldStart_keeps _)); case hv => decide))
theorem execImageWriteDone_keeps (s : State) : Keeps.Out 140592 s (execImageWriteDone s) := by
  unfold execImageWriteDone
  repeat' (first | apply Keeps.Out.next | exact Keeps.Out.fault | apply Keeps.Out.ite)
  repeat' (first
    | with_reducible exact Keeps.refl _ _
    | ((with_reducible apply Keeps.after (imageWriteDone_keeps _)); case hv => decide))
theorem execFwWrite_keeps (slot : Bool) (s : State) : Keeps.Out 140720 s (execFwWrite slot s) := by
  unfold execFwWrite
  repeat' (first | apply Keeps.Out.next | exact Keeps.Out.fault | apply Keeps.Out.ite)
  repeat' (first
    | with_reducible exact Keeps.refl _ _
    | ((with_reducible apply Keeps.after (fwWrite_keeps _ _)); case hv => decide))

/-! ### Machine/Boundary.lean -/

theorem execTaskFail_keeps (t : TaskId) (s : State) : Keeps.Out 225050 s (execTaskFail t s) := by
  unfold execTaskFail
  repeat' (first | apply Keeps.Out.next | exact Keeps.Out.fault | apply Keeps.Out.ite)
  repeat' (first
    | with_reducible exact Keeps.refl _ _
    | ((with_reducible apply Keeps.after (taskFail_keeps _ _)); case hv => decide))
theorem execTaskEnd_keeps (t : TaskId) (s : State) : Keeps.Out 225050 s (execTaskEnd t s) := by
  unfold execTaskEnd
  repeat' (first | apply Keeps.Out.next | exact Keeps.Out.fault | apply Keeps.Out.ite)
  repeat' (first
    | with_reducible exact Keeps.refl _ _
    | ((with_reducible apply Keeps.after (taskEnd_keeps _ _)); case hv => decide))
theorem execPhaseBoundary_keeps (t : TaskId) (s : State) : Keeps.Out 257822 s (execPhaseBoundary t s) := by
  unfold execPhaseBoundary
  try dsimp only
  repeat' (first | apply Keeps.Out.next | exact Keeps.Out.fault | apply Keeps.Out.ite)
  repeat' (first
    | with_reducible exact Keeps.refl _ _
    | assumption
    | with_reducible apply Keeps.ite
    | ((with_reducible apply Keeps.after (phaseBoundary_keeps _ _)); case hv => decide)
    | ((with_reducible apply Keeps.after_setClk); (case hv => decide); (case h => (first | exact clkOk_done _ rfl rfl rfl | exact clkOk_start _ rfl rfl rfl | (unfold ClkOk; dsimp only; exact fun h => h) | skip; unfold ClkOk; dsimp only; first | with_reducible exact fun h => h | with_reducible exact clkOk_done _ rfl rfl rfl | exact clkOk_start _ rfl rfl rfl | exact fun h => h)))
    | with_reducible apply Keeps.ite_fst
    | with_reducible apply Keeps.ite_snd
    | intro _
    | split
    | with_reducible apply Keeps.of_pair (by assumption)
    | with_reducible apply Keeps.of_pair2 (by assumption)
    | dsimp only)

/-! ### Machine/Power.lean -/

theorem execDrainComplete_keeps (g : Fin 64) (s : State) : Keeps.Out 1026 s (execDrainComplete g s) := by
  unfold execDrainComplete
  repeat' (first | apply Keeps.Out.next | exact Keeps.Out.fault | apply Keeps.Out.ite)
  repeat' (first
    | with_reducible exact Keeps.refl _ _
    | with_reducible apply Keeps.ite
    | ((with_reducible apply Keeps.after (drainComplete_keeps _ _)); case hv => decide))
theorem execDrainTimeout_keeps (g : Fin 64) (s : State) : Keeps.Out 1026 s (execDrainTimeout g s) := by
  unfold execDrainTimeout
  repeat' (first | apply Keeps.Out.next | exact Keeps.Out.fault | apply Keeps.Out.ite)
  repeat' (first
    | with_reducible exact Keeps.refl _ _
    | with_reducible apply Keeps.ite
    | ((with_reducible apply Keeps.after (drainTimeout_keeps _ _)); case hv => decide))
theorem execGroupFillDone_keeps (g : Fin 64) (s : State) : Keeps.Out 1026 s (execGroupFillDone g s) := by
  unfold execGroupFillDone
  repeat' (first | apply Keeps.Out.next | exact Keeps.Out.fault | apply Keeps.Out.ite)
  repeat' (first
    | with_reducible exact Keeps.refl _ _
    | with_reducible apply Keeps.ite
    | ((with_reducible apply Keeps.after (groupFillDone_keeps _ _)); case hv => decide))
theorem execDeviceQuiesced_keeps (s : State) : Keeps.Out 2 s (execDeviceQuiesced s) := by
  unfold execDeviceQuiesced
  repeat' (first | apply Keeps.Out.next | exact Keeps.Out.fault | apply Keeps.Out.ite)
  repeat' (first
    | with_reducible exact Keeps.refl _ _
    | ((with_reducible apply Keeps.after (deviceQuiesced_keeps _)); case hv => decide))
theorem execStateParkTimeout_keeps (s : State) : Keeps.Out 255762 s (execStateParkTimeout s) := by
  unfold execStateParkTimeout
  repeat' (first | apply Keeps.Out.next | exact Keeps.Out.fault | apply Keeps.Out.ite)
  repeat' (first
    | with_reducible exact Keeps.refl _ _
    | ((with_reducible apply Keeps.after (stateParkTimeout_keeps _)); case hv => decide))
theorem execOrderlyRemovalEnd_keeps (s : State) : Keeps.Out 131070 s (execOrderlyRemovalEnd s) := by
  unfold execOrderlyRemovalEnd
  repeat' (first | apply Keeps.Out.next | exact Keeps.Out.fault | apply Keeps.Out.ite)
  repeat' (first
    | with_reducible exact Keeps.refl _ _
    | with_reducible apply Keeps.ite
    | ((with_reducible apply Keeps.after (State.railsOff_keeps _)); case hv => decide))
theorem execDroopDetect_keeps (c : Fin 768) (s : State) : Keeps.Out 148742 s (execDroopDetect c s) := by
  unfold execDroopDetect
  try dsimp only
  repeat' (first | apply Keeps.Out.next | exact Keeps.Out.fault | apply Keeps.Out.ite)
  repeat' (first
    | with_reducible exact Keeps.refl _ _
    | assumption
    | with_reducible apply Keeps.ite
    | ((with_reducible apply Keeps.after (droopDetect_keeps _ _)); case hv => decide)
    | ((with_reducible apply Keeps.after_setClk); (case hv => decide); (case h => (first | exact clkOk_done _ rfl rfl rfl | exact clkOk_start _ rfl rfl rfl | (unfold ClkOk; dsimp only; exact fun h => h) | skip; unfold ClkOk; dsimp only; first | with_reducible exact fun h => h | with_reducible exact clkOk_done _ rfl rfl rfl | exact clkOk_start _ rfl rfl rfl | exact fun h => h)))
    | with_reducible apply Keeps.ite_fst
    | with_reducible apply Keeps.ite_snd
    | intro _
    | split
    | with_reducible apply Keeps.of_pair (by assumption)
    | with_reducible apply Keeps.of_pair2 (by assumption)
    | dsimp only)
theorem execDroopRecover_keeps (c : Fin 768) (s : State) : Keeps.Out 16386 s (execDroopRecover c s) := by
  unfold execDroopRecover
  repeat' (first | apply Keeps.Out.next | exact Keeps.Out.fault | apply Keeps.Out.ite)
  repeat' (first
    | with_reducible exact Keeps.refl _ _
    | ((with_reducible apply Keeps.after (droopRecover_keeps _ _)); case hv => decide))
theorem execDroopEmergency_keeps (s : State) : Keeps.Out 2 s (execDroopEmergency s) := by
  unfold execDroopEmergency
  repeat' (first | apply Keeps.Out.next | exact Keeps.Out.fault | apply Keeps.Out.ite)
  repeat' (first
    | with_reducible exact Keeps.refl _ _
    | with_reducible apply Keeps.ite
    | ((with_reducible apply Keeps.after_setPwr); (case hv => decide); (case h => (unfold PwrOk; dsimp only; first | with_reducible exact fun h => h | with_reducible exact fun _ => dev_ok _ | exact fun _ => by decide | exact fun h => h))))
theorem execDeviceQuiesce_keeps (s : State) : Keeps.Out 228630 s (execDeviceQuiesce s) := by
  unfold execDeviceQuiesce
  repeat' (first | apply Keeps.Out.next | exact Keeps.Out.fault | apply Keeps.Out.ite)
  repeat' (first
    | with_reducible exact Keeps.refl _ _
    | ((with_reducible apply Keeps.after (pwrCmd_keeps _ _)); case hv => decide))
theorem execDeviceOn_keeps (s : State) : Keeps.Out 228630 s (execDeviceOn s) := by
  unfold execDeviceOn
  repeat' (first | apply Keeps.Out.next | exact Keeps.Out.fault | apply Keeps.Out.ite)
  repeat' (first
    | with_reducible exact Keeps.refl _ _
    | ((with_reducible apply Keeps.after (pwrCmd_keeps _ _)); case hv => decide))
theorem execDeviceLow_keeps (s : State) : Keeps.Out 228630 s (execDeviceLow s) := by
  unfold execDeviceLow
  repeat' (first | apply Keeps.Out.next | exact Keeps.Out.fault | apply Keeps.Out.ite)
  repeat' (first
    | with_reducible exact Keeps.refl _ _
    | ((with_reducible apply Keeps.after (pwrCmd_keeps _ _)); case hv => decide))
theorem execDeviceOff_keeps (s : State) : Keeps.Out 228630 s (execDeviceOff s) := by
  unfold execDeviceOff
  repeat' (first | apply Keeps.Out.next | exact Keeps.Out.fault | apply Keeps.Out.ite)
  repeat' (first
    | with_reducible exact Keeps.refl _ _
    | ((with_reducible apply Keeps.after (pwrCmd_keeps _ _)); case hv => decide))
theorem execClusterRun_keeps (first : BitVec 10) (count : BitVec 11) (s : State) : Keeps.Out 228630 s (execClusterRun first count s) := by
  unfold execClusterRun
  repeat' (first | apply Keeps.Out.next | exact Keeps.Out.fault | apply Keeps.Out.ite)
  repeat' (first
    | with_reducible exact Keeps.refl _ _
    | ((with_reducible apply Keeps.after (pwrCmd_keeps _ _)); case hv => decide))
theorem execClusterGate_keeps (first : BitVec 10) (count : BitVec 11) (s : State) : Keeps.Out 228630 s (execClusterGate first count s) := by
  unfold execClusterGate
  repeat' (first | apply Keeps.Out.next | exact Keeps.Out.fault | apply Keeps.Out.ite)
  repeat' (first
    | with_reducible exact Keeps.refl _ _
    | ((with_reducible apply Keeps.after (pwrCmd_keeps _ _)); case hv => decide))
theorem execClusterRetain_keeps (first : BitVec 10) (count : BitVec 11) (s : State) : Keeps.Out 228630 s (execClusterRetain first count s) := by
  unfold execClusterRetain
  repeat' (first | apply Keeps.Out.next | exact Keeps.Out.fault | apply Keeps.Out.ite)
  repeat' (first
    | with_reducible exact Keeps.refl _ _
    | ((with_reducible apply Keeps.after (pwrCmd_keeps _ _)); case hv => decide))
theorem execClusterOff_keeps (first : BitVec 10) (count : BitVec 11) (s : State) : Keeps.Out 228630 s (execClusterOff first count s) := by
  unfold execClusterOff
  repeat' (first | apply Keeps.Out.next | exact Keeps.Out.fault | apply Keeps.Out.ite)
  repeat' (first
    | with_reducible exact Keeps.refl _ _
    | ((with_reducible apply Keeps.after (pwrCmd_keeps _ _)); case hv => decide))
theorem execSegmentOn_keeps (first : BitVec 10) (count : BitVec 11) (mask : BitVec 4) (s : State) : Keeps.Out 228630 s (execSegmentOn first count mask s) := by
  unfold execSegmentOn
  repeat' (first | apply Keeps.Out.next | exact Keeps.Out.fault | apply Keeps.Out.ite)
  repeat' (first
    | with_reducible exact Keeps.refl _ _
    | ((with_reducible apply Keeps.after (pwrCmd_keeps _ _)); case hv => decide))
theorem execSegmentOff_keeps (first : BitVec 10) (count : BitVec 11) (mask : BitVec 4) (s : State) : Keeps.Out 228630 s (execSegmentOff first count mask s) := by
  unfold execSegmentOff
  repeat' (first | apply Keeps.Out.next | exact Keeps.Out.fault | apply Keeps.Out.ite)
  repeat' (first
    | with_reducible exact Keeps.refl _ _
    | ((with_reducible apply Keeps.after (pwrCmd_keeps _ _)); case hv => decide))
theorem execVaultGroupActive_keeps (first : BitVec 10) (count : BitVec 11) (s : State) : Keeps.Out 228630 s (execVaultGroupActive first count s) := by
  unfold execVaultGroupActive
  repeat' (first | apply Keeps.Out.next | exact Keeps.Out.fault | apply Keeps.Out.ite)
  repeat' (first
    | with_reducible exact Keeps.refl _ _
    | ((with_reducible apply Keeps.after (pwrCmd_keeps _ _)); case hv => decide))
theorem execVaultGroupSelfRefresh_keeps (first : BitVec 10) (count : BitVec 11) (s : State) : Keeps.Out 228630 s (execVaultGroupSelfRefresh first count s) := by
  unfold execVaultGroupSelfRefresh
  repeat' (first | apply Keeps.Out.next | exact Keeps.Out.fault | apply Keeps.Out.ite)
  repeat' (first
    | with_reducible exact Keeps.refl _ _
    | ((with_reducible apply Keeps.after (pwrCmd_keeps _ _)); case hv => decide))
theorem execVaultGroupOff_keeps (first : BitVec 10) (count : BitVec 11) (s : State) : Keeps.Out 228630 s (execVaultGroupOff first count s) := by
  unfold execVaultGroupOff
  repeat' (first | apply Keeps.Out.next | exact Keeps.Out.fault | apply Keeps.Out.ite)
  repeat' (first
    | with_reducible exact Keeps.refl _ _
    | ((with_reducible apply Keeps.after (pwrCmd_keeps _ _)); case hv => decide))
theorem execGearChange_keeps (g : BitVec 4) (s : State) : Keeps.Out 228630 s (execGearChange g s) := by
  unfold execGearChange
  repeat' (first | apply Keeps.Out.next | exact Keeps.Out.fault | apply Keeps.Out.ite)
  repeat' (first
    | with_reducible exact Keeps.refl _ _
    | ((with_reducible apply Keeps.after (pwrCmd_keeps _ _)); case hv => decide))
theorem execUnitTransitionDone_keeps (s : State) : Keeps.Out 261918 s (execUnitTransitionDone s) := by
  unfold execUnitTransitionDone
  repeat' (first | apply Keeps.Out.next | exact Keeps.Out.fault | apply Keeps.Out.ite)
  repeat' (first
    | with_reducible exact Keeps.refl _ _
    | with_reducible apply Keeps.ite
    | ((with_reducible apply Keeps.after (unitTransitionDone_keeps _)); case hv => decide))
theorem execPwrCapWrite_keeps (value : BitVec 32) (s : State) : Keeps.Out 2 s (execPwrCapWrite value s) := by
  unfold execPwrCapWrite
  repeat' (first | apply Keeps.Out.next | exact Keeps.Out.fault | apply Keeps.Out.ite)
  repeat' (first
    | with_reducible exact Keeps.refl _ _
    | ((with_reducible apply Keeps.after (pwrCapWrite_keeps _ _)); case hv => decide))
theorem execCapControlPeriod_keeps (inputMw clusterMw : Nat) (partMj : List (Fin 64 × Nat)) (unattrMj : Nat) (s : State) : Keeps.Out 222466 s (execCapControlPeriod inputMw clusterMw partMj unattrMj s) := by
  unfold execCapControlPeriod
  repeat' (first | apply Keeps.Out.next | exact Keeps.Out.fault | apply Keeps.Out.ite)
  repeat' (first
    | with_reducible exact Keeps.refl _ _
    | ((with_reducible apply Keeps.after (capPeriod_keeps _ _ _ _ _)); case hv => decide))
theorem execThermalSample_keeps (readings : List (Fin 256 × BitVec 16)) (s : State) : Keeps.Out 148738 s (execThermalSample readings s) := by
  unfold execThermalSample
  repeat' (first | apply Keeps.Out.next | exact Keeps.Out.fault | apply Keeps.Out.ite)
  repeat' (first
    | with_reducible exact Keeps.refl _ _
    | ((with_reducible apply Keeps.after (thermalSample_keeps _ _)); case hv => decide))
theorem execThermalStageLeave_keeps (s : State) : Keeps.Out 148738 s (execThermalStageLeave s) := by
  unfold execThermalStageLeave
  repeat' (first | apply Keeps.Out.next | exact Keeps.Out.fault | apply Keeps.Out.ite)
  repeat' (first
    | with_reducible exact Keeps.refl _ _
    | ((with_reducible apply Keeps.after (thermalStageLeave_keeps _)); case hv => decide))
theorem execThermalTrip_keeps (sensor : Fin 256) (s : State) : Keeps.Out 262142 s (execThermalTrip sensor s) := by
  unfold execThermalTrip
  repeat' (first | apply Keeps.Out.next | exact Keeps.Out.fault | apply Keeps.Out.ite)
  repeat' (first
    | with_reducible exact Keeps.refl _ _
    | ((with_reducible apply Keeps.after (thermalTrip_keeps _ _)); case hv => decide))

/-! ### Machine/Guard.lean -/

theorem execSubmit_keeps (length : BitVec 15) (enrolN : Bool) (s : State) : Keeps.Out 132546 s (execSubmit length enrolN s) := by
  unfold execSubmit
  repeat' (first | apply Keeps.Out.next | exact Keeps.Out.fault | apply Keeps.Out.ite)
  repeat' (first
    | with_reducible exact Keeps.refl _ _
    | ((with_reducible apply Keeps.after (State.strap_keeps _ _)); case hv => decide)
    | ((with_reducible apply Keeps.after (submit_keeps _ _)); case hv => decide))
theorem execGuardStateWritten_keeps (s : State) : Keeps.Out 255858 s (execGuardStateWritten s) := by
  unfold execGuardStateWritten
  repeat' (first | apply Keeps.Out.next | exact Keeps.Out.fault | apply Keeps.Out.ite)
  repeat' (first
    | with_reducible exact Keeps.refl _ _
    | ((with_reducible apply Keeps.after (guardStateWritten_keeps _)); case hv => decide))
theorem execGuardQuiesced_keeps (enrolN : Bool) (s : State) : Keeps.Out 262010 s (execGuardQuiesced enrolN s) := by
  unfold execGuardQuiesced
  repeat' (first | apply Keeps.Out.next | exact Keeps.Out.fault | apply Keeps.Out.ite)
  repeat' (first
    | with_reducible exact Keeps.refl _ _
    | ((with_reducible apply Keeps.after (guardQuiesced_keeps _)); case hv => decide)
    | ((with_reducible apply Keeps.after (State.strap_keeps _ _)); case hv => decide))
theorem execGuardQuiesceTimeout_keeps (s : State) : Keeps.Out 255858 s (execGuardQuiesceTimeout s) := by
  unfold execGuardQuiesceTimeout
  repeat' (first | apply Keeps.Out.next | exact Keeps.Out.fault | apply Keeps.Out.ite)
  repeat' (first
    | with_reducible exact Keeps.refl _ _
    | ((with_reducible apply Keeps.after (guardQuiesceTimeout_keeps _)); case hv => decide))
theorem execGuardCommit_keeps (s : State) : Keeps.Out 255858 s (execGuardCommit s) := by
  unfold execGuardCommit
  repeat' (first | apply Keeps.Out.next | exact Keeps.Out.fault | apply Keeps.Out.ite)
  repeat' (first
    | with_reducible exact Keeps.refl _ _
    | ((with_reducible apply Keeps.after (guardCommit_keeps _)); case hv => decide))
theorem execAttest_keeps (part : BitVec 8) (s : State) : Keeps.Out 132544 s (execAttest part s) := by
  unfold execAttest
  repeat' (first | apply Keeps.Out.next | exact Keeps.Out.fault | apply Keeps.Out.ite)
  repeat' (first
    | with_reducible exact Keeps.refl _ _
    | ((with_reducible apply Keeps.after (attest_keeps _ _)); case hv => decide))

/-! ### Machine/Activation.lean -/

theorem execActivate_keeps (slot persist : Bool) (s : State) : Keeps.Out 132480 s (execActivate slot persist s) := by
  unfold execActivate
  repeat' (first | apply Keeps.Out.next | exact Keeps.Out.fault | apply Keeps.Out.ite)
  repeat' (first
    | with_reducible exact Keeps.refl _ _
    | ((with_reducible apply Keeps.after (activate_keeps _ _ _)); case hv => decide))
theorem execCancel_keeps (s : State) : Keeps.Out 257946 s (execCancel s) := by
  unfold execCancel
  repeat' (first | apply Keeps.Out.next | exact Keeps.Out.fault | apply Keeps.Out.ite)
  repeat' (first
    | with_reducible exact Keeps.refl _ _
    | ((with_reducible apply Keeps.after (cancel_keeps _)); case hv => decide))
theorem execActivationParkStart_keeps (s : State) : Keeps.Out 132480 s (execActivationParkStart s) := by
  unfold execActivationParkStart
  repeat' (first | apply Keeps.Out.next | exact Keeps.Out.fault | apply Keeps.Out.ite)
  repeat' (first
    | with_reducible exact Keeps.refl _ _
    | ((with_reducible apply Keeps.after (activationParkStart_keeps _)); case hv => decide))
theorem execDeferTimeout_keeps (s : State) : Keeps.Out 257946 s (execDeferTimeout s) := by
  unfold execDeferTimeout
  repeat' (first | apply Keeps.Out.next | exact Keeps.Out.fault | apply Keeps.Out.ite)
  repeat' (first
    | with_reducible exact Keeps.refl _ _
    | ((with_reducible apply Keeps.after (deferTimeout_keeps _)); case hv => decide))
theorem execActParkTimeout_keeps (s : State) : Keeps.Out 257946 s (execActParkTimeout s) := by
  unfold execActParkTimeout
  repeat' (first | apply Keeps.Out.next | exact Keeps.Out.fault | apply Keeps.Out.ite)
  repeat' (first
    | with_reducible exact Keeps.refl _ _
    | ((with_reducible apply Keeps.after (actParkTimeout_keeps _)); case hv => decide))
theorem execFirmwareSwitch_keeps (s : State) : Keeps.Out 257946 s (execFirmwareSwitch s) := by
  unfold execFirmwareSwitch
  repeat' (first | apply Keeps.Out.next | exact Keeps.Out.fault | apply Keeps.Out.ite)
  repeat' (first
    | with_reducible exact Keeps.refl _ _
    | ((with_reducible apply Keeps.after (firmwareSwitch_keeps _)); case hv => decide))
theorem execActivationDone_keeps (s : State) : Keeps.Out 262142 s (execActivationDone s) := by
  unfold execActivationDone
  repeat' (first | apply Keeps.Out.next | exact Keeps.Out.fault | apply Keeps.Out.ite)
  repeat' (first
    | with_reducible exact Keeps.refl _ _
    | ((with_reducible apply Keeps.after (activationDone_keeps _)); case hv => decide))
theorem execActFallback_keeps (s : State) : Keeps.Out 262110 s (execActFallback s) := by
  unfold execActFallback
  repeat' (first | apply Keeps.Out.next | exact Keeps.Out.fault | apply Keeps.Out.ite)
  repeat' (first
    | with_reducible exact Keeps.refl _ _
    | ((with_reducible apply Keeps.after (actFallback_keeps _)); case hv => decide))
theorem execTraceMark_keeps (point : BitVec 8) (data : BitVec 56) (s : State) : Keeps.Out 132352 s (execTraceMark point data s) := by
  unfold execTraceMark
  repeat' (first | apply Keeps.Out.next | exact Keeps.Out.fault | apply Keeps.Out.ite)
  repeat' (first
    | with_reducible exact Keeps.refl _ _
    | ((with_reducible apply Keeps.after (traceMark_keeps _ _ _)); case hv => decide))
theorem execTraceEnable_keeps (s : State) : Keeps.Out 132352 s (execTraceEnable s) := by
  unfold execTraceEnable
  repeat' (first | apply Keeps.Out.next | exact Keeps.Out.fault | apply Keeps.Out.ite)
  repeat' (first
    | with_reducible exact Keeps.refl _ _
    | ((with_reducible apply Keeps.after (traceEnable_keeps _)); case hv => decide))
theorem execEpochRecord_keeps (s : State) : Keeps.Out 132352 s (execEpochRecord s) := by
  unfold execEpochRecord
  repeat' (first | apply Keeps.Out.next | exact Keeps.Out.fault | apply Keeps.Out.ite)
  repeat' (first
    | with_reducible exact Keeps.refl _ _
    | with_reducible apply Keeps.ite
    | ((with_reducible apply Keeps.after (State.traceEpoch_keeps _)); case hv => decide))
theorem execClearLost_keeps (s : State) : Keeps.Out 256 s (execClearLost s) := by
  unfold execClearLost
  repeat' (first | apply Keeps.Out.next | exact Keeps.Out.fault | apply Keeps.Out.ite)
  repeat' (first
    | with_reducible exact Keeps.refl _ _
    | ((with_reducible apply Keeps.after (clearLost_keeps _)); case hv => decide))
theorem execSpadStatusClear_keeps (c : Fin 768) (s : State) : Keeps.Out 16384 s (execSpadStatusClear c s) := by
  unfold execSpadStatusClear
  repeat' (first | apply Keeps.Out.next | exact Keeps.Out.fault | apply Keeps.Out.ite)
  repeat' (first
    | with_reducible exact Keeps.refl _ _
    | with_reducible apply Keeps.ite
    | ((with_reducible apply Keeps.after_modCl); (case hv => decide); (case h => (intro h; repeat' (first | with_reducible exact h | with_reducible rfl | with_reducible exact mwf_wrBytes _ _ _ h | with_reducible exact Cluster.spadWr_wf _ _ _ h | with_reducible exact Cluster.zeroSeg_wf _ _ h | with_reducible exact Cluster.zeroSegs_wf _ _ h | simp only [Cluster.setCore_spad, Cluster.setUnit_spad, Cluster.spadPoisonSet_spad, Cluster.taintHeads_spad] | split | dsimp only | exact h | exact Cluster.zeroSegs_wf _ _ h)))))
theorem execVecStatusClear_keeps (c : Fin 768) (s : State) : Keeps.Out 16384 s (execVecStatusClear c s) := by
  unfold execVecStatusClear
  repeat' (first | apply Keeps.Out.next | exact Keeps.Out.fault | apply Keeps.Out.ite)
  repeat' (first
    | with_reducible exact Keeps.refl _ _
    | with_reducible apply Keeps.ite
    | ((with_reducible apply Keeps.after_modCl); (case hv => decide); (case h => (intro h; repeat' (first | with_reducible exact h | with_reducible rfl | with_reducible exact mwf_wrBytes _ _ _ h | with_reducible exact Cluster.spadWr_wf _ _ _ h | with_reducible exact Cluster.zeroSeg_wf _ _ h | with_reducible exact Cluster.zeroSegs_wf _ _ h | simp only [Cluster.setCore_spad, Cluster.setUnit_spad, Cluster.spadPoisonSet_spad, Cluster.taintHeads_spad] | split | dsimp only | exact h | exact Cluster.zeroSegs_wf _ _ h)))))
theorem execXcStatusClear_keeps (c : Fin 768) (s : State) : Keeps.Out 16384 s (execXcStatusClear c s) := by
  unfold execXcStatusClear
  repeat' (first | apply Keeps.Out.next | exact Keeps.Out.fault | apply Keeps.Out.ite)
  repeat' (first
    | with_reducible exact Keeps.refl _ _
    | with_reducible apply Keeps.ite
    | ((with_reducible apply Keeps.after_modCl); (case hv => decide); (case h => (intro h; repeat' (first | with_reducible exact h | with_reducible rfl | with_reducible exact mwf_wrBytes _ _ _ h | with_reducible exact Cluster.spadWr_wf _ _ _ h | with_reducible exact Cluster.zeroSeg_wf _ _ h | with_reducible exact Cluster.zeroSegs_wf _ _ h | simp only [Cluster.setCore_spad, Cluster.setUnit_spad, Cluster.spadPoisonSet_spad, Cluster.taintHeads_spad] | split | dsimp only | exact h | exact Cluster.zeroSegs_wf _ _ h)))))
theorem execSparseStatusClear_keeps (c : Fin 768) (s : State) : Keeps.Out 16384 s (execSparseStatusClear c s) := by
  unfold execSparseStatusClear
  repeat' (first | apply Keeps.Out.next | exact Keeps.Out.fault | apply Keeps.Out.ite)
  repeat' (first
    | with_reducible exact Keeps.refl _ _
    | with_reducible apply Keeps.ite
    | ((with_reducible apply Keeps.after_modCl); (case hv => decide); (case h => (intro h; repeat' (first | with_reducible exact h | with_reducible rfl | with_reducible exact mwf_wrBytes _ _ _ h | with_reducible exact Cluster.spadWr_wf _ _ _ h | with_reducible exact Cluster.zeroSeg_wf _ _ h | with_reducible exact Cluster.zeroSegs_wf _ _ h | simp only [Cluster.setCore_spad, Cluster.setUnit_spad, Cluster.spadPoisonSet_spad, Cluster.taintHeads_spad] | split | dsimp only | exact h | exact Cluster.zeroSegs_wf _ _ h)))))

/-! ### Machine/Dram.lean -/

theorem execBurstRead_keeps (addr : BitVec 37) (n : Nat) (s : State) : Keeps.Out 140560 s (execBurstRead addr n s) := by
  unfold execBurstRead
  repeat' (first | apply Keeps.Out.next | exact Keeps.Out.fault | apply Keeps.Out.ite)
  repeat' (first
    | with_reducible exact Keeps.refl _ _
    | ((with_reducible apply Keeps.after (burstRead_keeps _ _ _)); case hv => decide))
theorem execBurstWrite_keeps (addr : BitVec 37) (data : List Byte) (s : State) : Keeps.Out 140560 s (execBurstWrite addr data s) := by
  unfold execBurstWrite
  repeat' (first | apply Keeps.Out.next | exact Keeps.Out.fault | apply Keeps.Out.ite)
  repeat' (first
    | with_reducible exact Keeps.refl _ _
    | ((with_reducible apply Keeps.after (burstWrite_keeps _ _ _)); case hv => decide))
theorem execNarrowRead_keeps (addr : BitVec 37) (len : Nat) (s : State) : Keeps.Out 140560 s (execNarrowRead addr len s) := by
  unfold execNarrowRead
  repeat' (first | apply Keeps.Out.next | exact Keeps.Out.fault | apply Keeps.Out.ite)
  repeat' (first
    | with_reducible exact Keeps.refl _ _
    | ((with_reducible apply Keeps.after (narrowRead_keeps _ _ _)); case hv => decide))
theorem execNarrowWrite_keeps (addr : BitVec 37) (data : List Byte) (s : State) : Keeps.Out 140560 s (execNarrowWrite addr data s) := by
  unfold execNarrowWrite
  repeat' (first | apply Keeps.Out.next | exact Keeps.Out.fault | apply Keeps.Out.ite)
  repeat' (first
    | with_reducible exact Keeps.refl _ _
    | ((with_reducible apply Keeps.after (narrowWrite_keeps _ _ _)); case hv => decide))
theorem execMemoryAtomic_keeps (addr : BitVec 37) (aop atype : BitVec 2) (data : List Byte) (poisoned : Bool) (s : State) : Keeps.Out 140560 s (execMemoryAtomic addr aop atype data poisoned s) := by
  unfold execMemoryAtomic
  repeat' (first | apply Keeps.Out.next | exact Keeps.Out.fault | apply Keeps.Out.ite)
  repeat' (first
    | with_reducible exact Keeps.refl _ _
    | ((with_reducible apply Keeps.after (memoryAtomic_keeps _ _ _ _ _ _)); case hv => decide))
theorem execPooledBag_keeps (p : Fin 64) (table : BitVec 256) (slots : List (Option Nat)) (outFmt : BitVec 8) (s : State) : Keeps.Out 140560 s (execPooledBag p table slots outFmt s) := by
  unfold execPooledBag
  repeat' (first | apply Keeps.Out.next | exact Keeps.Out.fault | apply Keeps.Out.ite)
  repeat' (first
    | with_reducible exact Keeps.refl _ _
    | ((with_reducible apply Keeps.after (pooledBag_keeps _ _ _ _ _)); case hv => decide))
theorem execRefresh_keeps (v : Fin 512) (die : Fin 8) (bank : Fin 16) (s : State) : Keeps.Out 1024 s (execRefresh v die bank s) := by
  unfold execRefresh
  repeat' (first | apply Keeps.Out.next | exact Keeps.Out.fault | apply Keeps.Out.ite)
  repeat' (first
    | with_reducible exact Keeps.refl _ _
    | ((with_reducible apply Keeps.after (refresh_keeps _ _ _ _)); case hv => decide))
theorem execPatrolScrub_keeps (g : Fin 64) (s : State) : Keeps.Out 140560 s (execPatrolScrub g s) := by
  unfold execPatrolScrub
  repeat' (first | apply Keeps.Out.next | exact Keeps.Out.fault | apply Keeps.Out.ite)
  repeat' (first
    | with_reducible exact Keeps.refl _ _
    | ((with_reducible apply Keeps.after (patrolScrub_keeps _ _)); case hv => decide))
theorem execErrorEntryExpire_keeps (v : Fin 512) (idx : Nat) (s : State) : Keeps.Out 1024 s (execErrorEntryExpire v idx s) := by
  unfold execErrorEntryExpire
  repeat' (first | apply Keeps.Out.next | exact Keeps.Out.fault | apply Keeps.Out.ite)
  repeat' (first
    | with_reducible exact Keeps.refl _ _
    | ((with_reducible apply Keeps.after (errorEntryExpire_keeps _ _ _)); case hv => decide))
theorem execScratchpadScrub_keeps (c : Fin 768) (s : State) : Keeps.Out 16640 s (execScratchpadScrub c s) := by
  unfold execScratchpadScrub
  repeat' (first | apply Keeps.Out.next | exact Keeps.Out.fault | apply Keeps.Out.ite)
  repeat' (first
    | with_reducible exact Keeps.refl _ _
    | ((with_reducible apply Keeps.after (scratchpadScrub_keeps _ _)); case hv => decide))

/-! ### Machine/PowerUp.lean -/

theorem execBladeMate_keeps (s : State) : Keeps.Out 2 s (execBladeMate s) := by
  unfold execBladeMate
  repeat' (first | apply Keeps.Out.next | exact Keeps.Out.fault | apply Keeps.Out.ite)
  repeat' (first
    | with_reducible exact Keeps.refl _ _
    | ((with_reducible apply Keeps.after (bladeMate_keeps _)); case hv => decide))
theorem execEnableLow_keeps (s : State) : Keeps.Out 131070 s (execEnableLow s) := by
  unfold execEnableLow
  repeat' (first | apply Keeps.Out.next | exact Keeps.Out.fault | apply Keeps.Out.ite)
  repeat' (first
    | with_reducible exact Keeps.refl _ _
    | ((with_reducible apply Keeps.after (enableLow_keeps _)); case hv => decide))
theorem execInputUndervoltage_keeps (s : State) : Keeps.Out 262142 s (execInputUndervoltage s) := by
  unfold execInputUndervoltage
  repeat' (first | apply Keeps.Out.next | exact Keeps.Out.fault | apply Keeps.Out.ite)
  repeat' (first
    | with_reducible exact Keeps.refl _ _
    | ((with_reducible apply Keeps.after (inputUndervoltage_keeps _)); case hv => decide))
theorem execInputOvervoltage_keeps (s : State) : Keeps.Out 262142 s (execInputOvervoltage s) := by
  unfold execInputOvervoltage
  repeat' (first | apply Keeps.Out.next | exact Keeps.Out.fault | apply Keeps.Out.ite)
  repeat' (first
    | with_reducible exact Keeps.refl _ _
    | ((with_reducible apply Keeps.after (inputOvervoltage_keeps _)); case hv => decide))
theorem execRefclkLoss_keeps (s : State) : Keeps.Out 131070 s (execRefclkLoss s) := by
  unfold execRefclkLoss
  repeat' (first | apply Keeps.Out.next | exact Keeps.Out.fault | apply Keeps.Out.ite)
  repeat' (first
    | with_reducible exact Keeps.refl _ _
    | ((with_reducible apply Keeps.after (State.cut_keeps _)); case hv => decide)
    | ((with_reducible apply Keeps.after (State.setPins_keeps _ _)); case hv => decide))
theorem execPllLockLoss_keeps (s : State) : Keeps.Out 131070 s (execPllLockLoss s) := by
  unfold execPllLockLoss
  repeat' (first | apply Keeps.Out.next | exact Keeps.Out.fault | apply Keeps.Out.ite)
  repeat' (first
    | with_reducible exact Keeps.refl _ _
    | ((with_reducible apply Keeps.after (State.cut_keeps _)); case hv => decide))
theorem execSurpriseRemoval_keeps (s : State) : Keeps.Out 131070 s (execSurpriseRemoval s) := by
  unfold execSurpriseRemoval
  repeat' (first | apply Keeps.Out.next | exact Keeps.Out.fault | apply Keeps.Out.ite)
  repeat' (first
    | with_reducible exact Keeps.refl _ _
    | ((with_reducible apply Keeps.after (surpriseRemoval_keeps _)); case hv => decide))
theorem execPowerUp_keeps (env : BootEnv) (s : State) : Keeps.Out 262142 s (execPowerUp env s) := by
  unfold execPowerUp
  repeat' (first | apply Keeps.Out.next | exact Keeps.Out.fault | apply Keeps.Out.ite)
  repeat' (first
    | with_reducible exact Keeps.refl _ _
    | ((with_reducible apply Keeps.after (powerUp_keeps _ _)); case hv => decide))
theorem execBootComplete_keeps (s : State) : Keeps.Out 138498 s (execBootComplete s) := by
  unfold execBootComplete
  repeat' (first | apply Keeps.Out.next | exact Keeps.Out.fault | apply Keeps.Out.ite)
  repeat' (first
    | with_reducible exact Keeps.refl _ _
    | ((with_reducible apply Keeps.after (bootComplete_keeps _)); case hv => decide))
theorem execSlotWriteDone_keeps (ok : Bool) (s : State) : Keeps.Out 159738 s (execSlotWriteDone ok s) := by
  unfold execSlotWriteDone
  repeat' (first | apply Keeps.Out.next | exact Keeps.Out.fault | apply Keeps.Out.ite)
  repeat' (first
    | with_reducible exact Keeps.refl _ _
    | ((with_reducible apply Keeps.after (slotWriteDone_keeps _ _)); case hv => decide))

/-! ### Machine/Errors.lean -/

theorem execUnitInternalError_keeps (c : Fin 768) (s : State) : Keeps.Out 225048 s (execUnitInternalError c s) := by
  unfold execUnitInternalError
  repeat' (first | apply Keeps.Out.next | exact Keeps.Out.fault | apply Keeps.Out.ite)
  repeat' (first
    | with_reducible exact Keeps.refl _ _
    | ((with_reducible apply Keeps.after (unitInternalError_keeps _ _)); case hv => decide))
theorem execHostRequestError_keeps (p : Fin 64) (s : State) : Keeps.Out 225048 s (execHostRequestError p s) := by
  unfold execHostRequestError
  repeat' (first | apply Keeps.Out.next | exact Keeps.Out.fault | apply Keeps.Out.ite)
  repeat' (first
    | with_reducible exact Keeps.refl _ _
    | ((with_reducible apply Keeps.after (hostRequestError_keeps _ _)); case hv => decide))
theorem execFatalError_keeps (status unit index : BitVec 16) (akind : BitVec 8) (addr : Word) (s : State) : Keeps.Out 151304 s (execFatalError status unit index akind addr s) := by
  unfold execFatalError
  repeat' (first | apply Keeps.Out.next | exact Keeps.Out.fault | apply Keeps.Out.ite)
  repeat' (first
    | with_reducible exact Keeps.refl _ _
    | ((with_reducible apply Keeps.after (fatalError_keeps _ _ _ _ _ _)); case hv => decide))
theorem execWatchdogExpiry_keeps (k : Fin 8) (s : State) : Keeps.Out 151304 s (execWatchdogExpiry k s) := by
  unfold execWatchdogExpiry
  repeat' (first | apply Keeps.Out.next | exact Keeps.Out.fault | apply Keeps.Out.ite)
  repeat' (first
    | with_reducible exact Keeps.refl _ _
    | ((with_reducible apply Keeps.after (watchdogExpiry_keeps _ _)); case hv => decide))
theorem execCorrectedRecord_keeps (status unit index : BitVec 16) (part akind : BitVec 8) (addr : Word) (count : BitVec 32) (s : State) : Keeps.Out 256 s (execCorrectedRecord status unit index part akind addr count s) := by
  unfold execCorrectedRecord
  repeat' (first | apply Keeps.Out.next | exact Keeps.Out.fault | apply Keeps.Out.ite)
  repeat' (first
    | with_reducible exact Keeps.refl _ _
    | ((with_reducible apply Keeps.after (correctedRecord_keeps _ _ _ _ _ _ _ _)); case hv => decide))

/-! ### Machine/HostPort.lean -/

theorem execConventionalReset_keeps (s : State) : Keeps.Out 257946 s (execConventionalReset s) := by
  unfold execConventionalReset
  repeat' (first | apply Keeps.Out.next | exact Keeps.Out.fault | apply Keeps.Out.ite)
  repeat' (first
    | with_reducible exact Keeps.refl _ _
    | ((with_reducible apply Keeps.after (State.pcieReset_keeps _)); case hv => decide)
    | ((with_reducible apply Keeps.after_setPwr); (case hv => decide); (case h => (unfold PwrOk; dsimp only; first | with_reducible exact fun h => h | with_reducible exact fun _ => dev_ok _ | exact fun _ => by decide | exact fun h => h))))
theorem execHotReset_keeps (s : State) : Keeps.Out 257946 s (execHotReset s) := by
  unfold execHotReset
  repeat' (first | apply Keeps.Out.next | exact Keeps.Out.fault | apply Keeps.Out.ite)
  repeat' (first
    | with_reducible exact Keeps.refl _ _
    | ((with_reducible apply Keeps.after (State.pcieReset_keeps _)); case hv => decide))
theorem execPerstDeassert_keeps (s : State) : Keeps.Out 514 s (execPerstDeassert s) := by
  unfold execPerstDeassert
  repeat' (first | apply Keeps.Out.next | exact Keeps.Out.fault | apply Keeps.Out.ite)
  repeat' (first
    | with_reducible exact Keeps.refl _ _
    | ((with_reducible apply Keeps.after (State.setHif_keeps _ _)); case hv => decide)
    | ((with_reducible apply Keeps.after_setPwr); (case hv => decide); (case h => (unfold PwrOk; dsimp only; first | with_reducible exact fun h => h | with_reducible exact fun _ => dev_ok _ | exact fun _ => by decide | exact fun h => h))))
theorem execPcieLinkUp_keeps (gtPerS10 width : Nat) (s : State) : Keeps.Out 512 s (execPcieLinkUp gtPerS10 width s) := by
  unfold execPcieLinkUp
  repeat' (first | apply Keeps.Out.next | exact Keeps.Out.fault | apply Keeps.Out.ite)
  repeat' (first
    | with_reducible exact Keeps.refl _ _
    | with_reducible apply Keeps.ite
    | ((with_reducible apply Keeps.after (State.setHif_keeps _ _)); case hv => decide))
theorem execPcieLinkDown_keeps (s : State) : Keeps.Out 257946 s (execPcieLinkDown s) := by
  unfold execPcieLinkDown
  repeat' (first | apply Keeps.Out.next | exact Keeps.Out.fault | apply Keeps.Out.ite)
  repeat' (first
    | with_reducible exact Keeps.refl _ _
    | with_reducible apply Keeps.ite
    | ((with_reducible apply Keeps.after (State.enterLost_keeps _ _)); case hv => decide)
    | ((with_reducible apply Keeps.after (State.setHif_keeps _ _)); case hv => decide))
theorem execD3hotEntry_keeps (fn : Fin 65) (s : State) : Keeps.Out 512 s (execD3hotEntry fn s) := by
  unfold execD3hotEntry
  repeat' (first | apply Keeps.Out.next | exact Keeps.Out.fault | apply Keeps.Out.ite)
  repeat' (first
    | with_reducible exact Keeps.refl _ _
    | ((with_reducible apply Keeps.after (State.setHif_keeps _ _)); case hv => decide))
theorem execD0Return_keeps (fn : Fin 65) (s : State) : Keeps.Out 512 s (execD0Return fn s) := by
  unfold execD0Return
  repeat' (first | apply Keeps.Out.next | exact Keeps.Out.fault | apply Keeps.Out.ite)
  repeat' (first
    | with_reducible exact Keeps.refl _ _
    | ((with_reducible apply Keeps.after (State.setHif_keeps _ _)); case hv => decide))
theorem execConfigRequest_keeps (q : CfgReq) (s : State) : Keeps.Out 512 s (execConfigRequest q s) := by
  unfold execConfigRequest
  repeat' (first | apply Keeps.Out.next | exact Keeps.Out.fault | apply Keeps.Out.ite)
  repeat' (first
    | with_reducible exact Keeps.refl _ _
    | ((with_reducible apply Keeps.after (configRequest_keeps _ _)); case hv => decide))
theorem execApertureRead_keeps (fn : Fin 65) (off : BitVec 37) (len : Nat) (s : State) : Keeps.Out 141072 s (execApertureRead fn off len s) := by
  unfold execApertureRead
  repeat' (first | apply Keeps.Out.next | exact Keeps.Out.fault | apply Keeps.Out.ite)
  repeat' (first
    | with_reducible exact Keeps.refl _ _
    | ((with_reducible apply Keeps.after (apertureRead_keeps _ _ _ _)); case hv => decide))
theorem execApertureWrite_keeps (fn : Fin 65) (off : BitVec 37) (data : List Byte) (ep : Bool) (s : State) : Keeps.Out 141072 s (execApertureWrite fn off data ep s) := by
  unfold execApertureWrite
  repeat' (first | apply Keeps.Out.next | exact Keeps.Out.fault | apply Keeps.Out.ite)
  repeat' (first
    | with_reducible exact Keeps.refl _ _
    | ((with_reducible apply Keeps.after (apertureWrite_keeps _ _ _ _ _)); case hv => decide))

/-! ### Machine/Pass.lean -/

theorem execSchedulingPass_keeps (host : List (Nat × Byte)) (s : State) : Keeps.Out 257946 s (execSchedulingPass host s) := by
  unfold execSchedulingPass
  repeat' (first | apply Keeps.Out.next | exact Keeps.Out.fault | apply Keeps.Out.ite)
  repeat' (first
    | with_reducible exact Keeps.refl _ _
    | ((with_reducible apply Keeps.after (schedulingPass_keeps _ _)); case hv => decide))

/-! ### Machine/System.lean -/

theorem execWinw_keeps (a : Agent) (w : Word) (s : State) : Keeps.Out 245760 s (execWinw a w s) := by
  unfold execWinw
  repeat' (first | apply Keeps.Out.next | exact Keeps.Out.fault | apply Keeps.Out.ite)
  repeat' (first
    | with_reducible exact Keeps.refl _ _
    | ((with_reducible apply Keeps.after_issue); (case hv => decide))
    | ((with_reducible apply Keeps.after (winwOp_keeps _ _ _)); case hv => decide)
    | intro _)
theorem execTstart_keeps (a : Agent) (w : Word) (s : State) : Keeps.Out 255768 s (execTstart a w s) := by
  unfold execTstart
  repeat' (first | apply Keeps.Out.next | exact Keeps.Out.fault | apply Keeps.Out.ite)
  repeat' (first
    | with_reducible exact Keeps.refl _ _
    | ((with_reducible apply Keeps.after_issue); (case hv => decide))
    | ((with_reducible apply Keeps.after (tstartOp_keeps _ _ _)); case hv => decide)
    | intro _)
theorem execTpark_keeps (a : Agent) (w : Word) (s : State) : Keeps.Out 245760 s (execTpark a w s) := by
  unfold execTpark
  repeat' (first | apply Keeps.Out.next | exact Keeps.Out.fault | apply Keeps.Out.ite)
  repeat' (first
    | with_reducible exact Keeps.refl _ _
    | ((with_reducible apply Keeps.after_issue); (case hv => decide))
    | ((with_reducible apply Keeps.after (tparkOp_keeps _ _ _)); case hv => decide)
    | intro _)
theorem execTresume_keeps (a : Agent) (w : Word) (s : State) : Keeps.Out 255762 s (execTresume a w s) := by
  unfold execTresume
  repeat' (first | apply Keeps.Out.next | exact Keeps.Out.fault | apply Keeps.Out.ite)
  repeat' (first
    | with_reducible exact Keeps.refl _ _
    | ((with_reducible apply Keeps.after_issue); (case hv => decide))
    | ((with_reducible apply Keeps.after (tresumeOp_keeps _ _ _)); case hv => decide)
    | intro _)

/-! ### Machine/Regs.lean -/

theorem execRegisterRead_keeps (fn : Fin 65) (off : BitVec 26) (size : Nat) (s : State) : Keeps.Out 512 s (execRegisterRead fn off size s) := by
  unfold execRegisterRead
  repeat' (first | apply Keeps.Out.next | exact Keeps.Out.fault | apply Keeps.Out.ite)
  repeat' (first
    | with_reducible exact Keeps.refl _ _
    | ((with_reducible apply Keeps.after (windowRead_keeps _ _ _ _)); case hv => decide))
theorem execRegisterWrite_keeps (fn : Fin 65) (off : BitVec 26) (size value : Nat) (s : State) : Keeps.Out 262142 s (execRegisterWrite fn off size value s) := by
  unfold execRegisterWrite
  repeat' (first | apply Keeps.Out.next | exact Keeps.Out.fault | apply Keeps.Out.ite)
  repeat' (first
    | with_reducible exact Keeps.refl _ _
    | ((with_reducible apply Keeps.after (windowWrite_keeps _ _ _ _ _)); case hv => decide))
theorem execMrd_keeps (a : Agent) (w : Word) (s : State) : Keeps.Out 245760 s (execMrd a w s) := by
  unfold execMrd
  repeat' (first | apply Keeps.Out.next | exact Keeps.Out.fault | apply Keeps.Out.ite)
  repeat' (first
    | with_reducible exact Keeps.refl _ _
    | ((with_reducible apply Keeps.after_issue); (case hv => decide))
    | ((with_reducible apply Keeps.after (mrdOp_keeps _ _ _)); case hv => decide)
    | intro _)
theorem execMwr_keeps (a : Agent) (w : Word) (s : State) : Keeps.Out 262142 s (execMwr a w s) := by
  unfold execMwr
  repeat' (first | apply Keeps.Out.next | exact Keeps.Out.fault | apply Keeps.Out.ite)
  repeat' (first
    | with_reducible exact Keeps.refl _ _
    | ((with_reducible apply Keeps.after_issue); (case hv => decide))
    | ((with_reducible apply Keeps.after (mwrOp_keeps _ _ _)); case hv => decide)
    | intro _)

/-! ### Machine/Remote.lean -/

theorem execRead_keeps (n : Fin 39) (k : Packet) (s : State) : Keeps.Out 262142 s (execRead n k s) := by
  unfold execRead
  repeat' (first | apply Keeps.Out.next | exact Keeps.Out.fault | apply Keeps.Out.ite)
  repeat' (first
    | with_reducible exact Keeps.refl _ _
    | ((with_reducible apply Keeps.after (State.arrive_keeps _ _ _)); case hv => decide))
theorem execWrite_keeps (n : Fin 39) (k : Packet) (s : State) : Keeps.Out 262142 s (execWrite n k s) := by
  unfold execWrite
  repeat' (first | apply Keeps.Out.next | exact Keeps.Out.fault | apply Keeps.Out.ite)
  repeat' (first
    | with_reducible exact Keeps.refl _ _
    | ((with_reducible apply Keeps.after (State.arrive_keeps _ _ _)); case hv => decide))
theorem execAtomic_keeps (n : Fin 39) (k : Packet) (s : State) : Keeps.Out 262142 s (execAtomic n k s) := by
  unfold execAtomic
  repeat' (first | apply Keeps.Out.next | exact Keeps.Out.fault | apply Keeps.Out.ite)
  repeat' (first
    | with_reducible exact Keeps.refl _ _
    | ((with_reducible apply Keeps.after (State.arrive_keeps _ _ _)); case hv => decide))
theorem execGather_keeps (n : Fin 39) (k : Packet) (s : State) : Keeps.Out 262142 s (execGather n k s) := by
  unfold execGather
  repeat' (first | apply Keeps.Out.next | exact Keeps.Out.fault | apply Keeps.Out.ite)
  repeat' (first
    | with_reducible exact Keeps.refl _ _
    | ((with_reducible apply Keeps.after (State.arrive_keeps _ _ _)); case hv => decide))
theorem execReadResp_keeps (n : Fin 39) (k : Packet) (s : State) : Keeps.Out 262142 s (execReadResp n k s) := by
  unfold execReadResp
  repeat' (first | apply Keeps.Out.next | exact Keeps.Out.fault | apply Keeps.Out.ite)
  repeat' (first
    | with_reducible exact Keeps.refl _ _
    | ((with_reducible apply Keeps.after (State.arrive_keeps _ _ _)); case hv => decide))
theorem execAck_keeps (n : Fin 39) (k : Packet) (s : State) : Keeps.Out 262142 s (execAck n k s) := by
  unfold execAck
  repeat' (first | apply Keeps.Out.next | exact Keeps.Out.fault | apply Keeps.Out.ite)
  repeat' (first
    | with_reducible exact Keeps.refl _ _
    | ((with_reducible apply Keeps.after (State.arrive_keeps _ _ _)); case hv => decide))
theorem execGatherResp_keeps (n : Fin 39) (k : Packet) (s : State) : Keeps.Out 262142 s (execGatherResp n k s) := by
  unfold execGatherResp
  repeat' (first | apply Keeps.Out.next | exact Keeps.Out.fault | apply Keeps.Out.ite)
  repeat' (first
    | with_reducible exact Keeps.refl _ _
    | ((with_reducible apply Keeps.after (State.arrive_keeps _ _ _)); case hv => decide))
theorem execDataFlit_keeps (n : Fin 39) (f : RawFlit) (s : State) : Keeps.Out 262142 s (execDataFlit n f s) := by
  unfold execDataFlit
  repeat' (first | apply Keeps.Out.next | exact Keeps.Out.fault | apply Keeps.Out.ite)
  repeat' (first
    | with_reducible exact Keeps.refl _ _
    | ((with_reducible apply Keeps.after (flitIn_keeps _ _ _)); case hv => decide))
theorem execIdleFlit_keeps (n : Fin 39) (f : RawFlit) (s : State) : Keeps.Out 262142 s (execIdleFlit n f s) := by
  unfold execIdleFlit
  repeat' (first | apply Keeps.Out.next | exact Keeps.Out.fault | apply Keeps.Out.ite)
  repeat' (first
    | with_reducible exact Keeps.refl _ _
    | ((with_reducible apply Keeps.after (flitIn_keeps _ _ _)); case hv => decide))
theorem execSys_keeps (n : Fin 39) (src : BitVec 14) (m : SysMsg) (s : State) : Keeps.Out 225048 s (execSys n src m s) := by
  unfold execSys
  repeat' (first | apply Keeps.Out.next | exact Keeps.Out.fault | apply Keeps.Out.ite)
  repeat' (first
    | with_reducible exact Keeps.refl _ _
    | ((with_reducible apply Keeps.after (systemMessage_keeps _ _ _ _)); case hv => decide))
theorem execRequestTimeout_keeps (tag : BitVec 16) (s : State) : Keeps.Out 225048 s (execRequestTimeout tag s) := by
  unfold execRequestTimeout
  repeat' (first | apply Keeps.Out.next | exact Keeps.Out.fault | apply Keeps.Out.ite)
  repeat' (first
    | with_reducible exact Keeps.refl _ _
    | ((with_reducible apply Keeps.after (State.goOn_keeps _)); case hv => decide)
    | ((with_reducible apply Keeps.after (requestTimeout_keeps _ _)); case hv => decide))
theorem execFailureNotice_keeps (chip : BitVec 14) (s : State) : Keeps.Out 225048 s (execFailureNotice chip s) := by
  unfold execFailureNotice
  repeat' (first | apply Keeps.Out.next | exact Keeps.Out.fault | apply Keeps.Out.ite)
  repeat' (first
    | with_reducible exact Keeps.refl _ _
    | ((with_reducible apply Keeps.after (State.goOn_keeps _)); case hv => decide)
    | ((with_reducible apply Keeps.after (failureNotice_keeps _ _)); case hv => decide))

/-! ### Machine/Scratch.lean -/

theorem execSfill_keeps (a : Agent) (w : Word) (s : State) : Keeps.Out 245760 s (execSfill a w s) := by
  unfold execSfill
  repeat' (first | apply Keeps.Out.next | exact Keeps.Out.fault | apply Keeps.Out.ite)
  repeat' (first
    | with_reducible exact Keeps.refl _ _
    | ((with_reducible apply Keeps.after (spadIssue_keeps _ _ _ _ _)); case hv => decide))
theorem execScopy_keeps (a : Agent) (w : Word) (s : State) : Keeps.Out 245760 s (execScopy a w s) := by
  unfold execScopy
  repeat' (first | apply Keeps.Out.next | exact Keeps.Out.fault | apply Keeps.Out.ite)
  repeat' (first
    | with_reducible exact Keeps.refl _ _
    | ((with_reducible apply Keeps.after (spadIssue_keeps _ _ _ _ _)); case hv => decide))

/-! ### Machine/Stream.lean -/

theorem execRngsClaim_keeps (a : Agent) (w : Word) (s : State) : Keeps.Out 253952 s (execRngsClaim a w s) := by
  unfold execRngsClaim
  repeat' (first | apply Keeps.Out.next | exact Keeps.Out.fault | apply Keeps.Out.ite)
  repeat' (first
    | with_reducible exact Keeps.refl _ _
    | ((with_reducible apply Keeps.after (rngsClaimOp_keeps _ _ _)); case hv => decide)
    | ((with_reducible apply Keeps.after_issue); (case hv => decide))
    | intro _)
theorem execRngsRel_keeps (a : Agent) (w : Word) (s : State) : Keeps.Out 253952 s (execRngsRel a w s) := by
  unfold execRngsRel
  repeat' (first | apply Keeps.Out.next | exact Keeps.Out.fault | apply Keeps.Out.ite)
  repeat' (first
    | with_reducible exact Keeps.refl _ _
    | ((with_reducible apply Keeps.after (rngsRelOp_keeps _ _ _)); case hv => decide)
    | ((with_reducible apply Keeps.after_issue); (case hv => decide))
    | intro _)
theorem execRngsReleaseDone_keeps (c : Fin 768) (s : State) : Keeps.Out 57344 s (execRngsReleaseDone c s) := by
  unfold execRngsReleaseDone
  repeat' (first | apply Keeps.Out.next | exact Keeps.Out.fault | apply Keeps.Out.ite)
  repeat' (first
    | with_reducible exact Keeps.refl _ _
    | ((with_reducible apply Keeps.after (State.claimDrop_keeps _ _ _)); case hv => decide)
    | ((with_reducible apply Keeps.after (State.resume_keeps _ _)); case hv => decide)
    | split)

/-! ### Machine/Training.lean -/

theorem execPrune_keeps (a : Agent) (w : Word) (s : State) : Keeps.Out 245760 s (execPrune a w s) := by
  unfold execPrune
  repeat' (first | apply Keeps.Out.next | exact Keeps.Out.fault | apply Keeps.Out.ite)
  repeat' (first
    | with_reducible exact Keeps.refl _ _
    | ((with_reducible apply Keeps.after (pruneIssue_keeps _ _ _)); case hv => decide))

/-! ### Machine/Units.lean -/

theorem execTensorComplete_keeps (c : Fin 768) (u : Fin 7) (s : State) : Keeps.Out 225048 s (execTensorComplete c u s) := by
  unfold execTensorComplete
  repeat' (first | apply Keeps.Out.next | exact Keeps.Out.fault | apply Keeps.Out.ite)
  repeat' (first
    | with_reducible exact Keeps.refl _ _
    | ((with_reducible apply Keeps.after (tensorComplete_keeps _ _ _)); case hv => decide))
theorem execUnitQueueResume_keeps (c : Fin 768) (s : State) : Keeps.Out 255768 s (execUnitQueueResume c s) := by
  unfold execUnitQueueResume
  repeat' (first | apply Keeps.Out.next | exact Keeps.Out.fault | apply Keeps.Out.ite)
  repeat' (first
    | with_reducible exact Keeps.refl _ _
    | with_reducible apply Keeps.ite
    | ((with_reducible apply Keeps.after (issueTensor_keeps _ _ _)); case hv => decide)
    | ((with_reducible apply Keeps.after_modCl); (case hv => decide); (case h => (intro h; repeat' (first | with_reducible exact h | with_reducible rfl | with_reducible exact mwf_wrBytes _ _ _ h | with_reducible exact Cluster.spadWr_wf _ _ _ h | with_reducible exact Cluster.zeroSeg_wf _ _ h | with_reducible exact Cluster.zeroSegs_wf _ _ h | simp only [Cluster.setCore_spad, Cluster.setUnit_spad, Cluster.spadPoisonSet_spad, Cluster.taintHeads_spad] | split | dsimp only | exact h | exact Cluster.zeroSegs_wf _ _ h))))
    | split)

end Sys2Proof.Machine
end

