-- ==== Sys2Proof/Tests/Slice0.lean ====
section
/-! SUPPORT. Tests: words and examples of the spec, ill-formed terms that the check refuses, and for every statement with
hypotheses a state and operands that meet them together. -/

namespace Sys2Proof.Machine

/-! ### Helpers -/

def tid : TaskId := { part := 0, hnd := 5 }
/-- A running task on cluster 0 (its phase 3 declared). -/
def tk : Task :=
  { id := tid, ring := 0, seq := 0, clusters := [0], prog := 0, len := 1, start := 0, args := 0, seed := 7, tag := 0, phases := 8, phasesAt := 0,
    stepped := false, irq := false, ref := false, keep := false, st := .running, parkReq := false, fault := none, phase := none,
    step := none, steps := [], esc := 0, escStep := 0, energy := 0, energyStep := 0, stepDone := none, batches := [] }
/-- The power state of a module in service. -/
def pwrUp : Pwr := { Pwr.reset with rails := true, boot := .ready }
/-- A device in service: rails up, boot complete. -/
def live0 : State := State.reset.setPwr pwrUp
/-- Cluster 0 of partition 0 runs a program with descriptors and scalars. -/
def mkC (prog : List Word) (ds : List (Nat × BitVec 256)) (ss : List (Nat × Word)) : State :=
  (live0.setTasks [tk]).setCl 0 { Cluster.reset with
    owned := true, task := some tid, win := [(0, 0x800000007FFF0000)],
    seq := { Seq.reset with run := .running, prog := prog, d := ds, s := ss } }
def a0 : Agent := .seq 0
def k0 : Agent := .core 0
/-- A word of CLASS x 64 + OP and further bits. -/
def wd (code bits : Nat) : Word := BitVec.ofNat 64 (code * 2 ^ 52 + bits)
/-- DST, SRCA and SRCB fields. -/
def rrr (d a b : Nat) : Nat := d * 2 ^ 46 + a * 2 ^ 41 + b * 2 ^ 36
def done (o : Host.Outcome State Fault Refusal) : State := match o with | .next t => t | _ => State.reset

/-! ### The queue, the frame and the invariants -/

theorem wit_front : ({ State.reset with pending := [.heartbeat, .cancel] } : State).pending = .heartbeat :: [.cancel] := by decide
theorem wit_idle : State.reset.pending = [] := by decide
theorem wit_frame : exec .heartbeat live0 = .next (live0.setHif { live0.hif with hbArmed := true }) := by rfl
theorem wit_takes : step { live0 with pending := [.heartbeat] } = .next (live0.setHif { live0.hif with hbArmed := true }) := by rfl
/-- A canonical and legal state in which a step answers a next state. -/
theorem wit_canon : (Memory.wf live0.mem.dram && Memory.wf live0.mem.hostMem && Memory.wf live0.mem.ctrlSram) = true ∧ live0.clusters = []
    ∧ ∃ t, step live0 = .next t := ⟨by decide, by decide, _, rfl⟩
theorem wit_legal : live0.pwr.dev ≠ 3 ∧ live0.clk.gear.toNat ≤ 2 ∧ live0.clk.was.toNat ≤ 2 ∧ live0.clk.goal.toNat ≤ 2 ∧ live0.mer.root = false
    ∧ live0.mer.depthOver = false ∧ live0.mer.depth = 0 := by decide

/-! ### The scalar class -/

/-- add s4, s1, -3. -/
theorem wit_add : let w := wd 0x000 (rrr 4 1 0 + 2 ^ 35 + 0xFFFFFFFD)
    let s := mkC [w] [] [(1, 10)]
    Issues 0x000 [fDst, fA, (35, 35), (31, 0)] a0 w s ∧ (done (exec (.add a0 w) s)).regS a0 4 = 7 := by decide
/-- Boundary: s0 as destination; both operands registers. -/
theorem wit_add_s0 : let w := wd 0x000 (rrr 0 1 2)
    let s := mkC [w] [] [(1, 10), (2, 5)]
    Issues 0x000 [fDst, fA, fB, (35, 35)] a0 w s ∧ (done (exec (.add a0 w) s)).regS a0 0 = 0 := by decide
theorem test_muls_signed : let w := wd 0x00A (rrr 3 1 2)
    (done (exec (.muls a0 w) (mkC [w] [] [(1, 5), (2, 0x1FFFFFFFE)]))).regS a0 3 = 0xFFFFFFFFFFFFFFF6 := by decide
theorem test_sar : let w := wd 0x007 (rrr 3 1 2)
    (done (exec (.sar a0 w) (mkC [w] [] [(1, 0x8000000000000000), (2, 68)]))).regS a0 3 = 0xF800000000000000 := by decide
theorem wit_cmp : let w := wd 0x008 (rrr 7 1 2 + 2 * 2 ^ 32)
    let s := mkC [w] [] [(1, 0xFFFFFFFFFFFFFFFF), (2, 0)]
    Issues 0x008 [fDst, fA, fB, (35, 35), (34, 32)] a0 w s ∧ wDst w ≤ 7 ∧ (done (exec (.cmp a0 w) s)).regP a0 7 = true := by decide
theorem wit_cmp_illegal : let w := wd 0x008 (rrr 8 1 2 + 4 * 2 ^ 32)
    let s := mkC [w] [] [(1, 1), (2, 2)]
    Issues 0x008 [fDst, fA, fB, (35, 35), (34, 32)] a0 w s ∧ 7 < wDst w := by decide
theorem wit_sel : let w := wd 0x009 (rrr 4 1 2)
    let s := mkC [w] [] [(1, 1), (2, 2)]
    Issues 0x009 [fDst, fA, fB, (34, 32)] a0 w s ∧ (done (exec (.sel a0 w) s)).regS a0 4 = 2 := by decide
theorem wit_movi : let w := wd 0x00B (rrr 4 0 0 + 0xFFFFFFFFF)
    let s := mkC [w] [] []
    Issues 0x00B [fDst, (35, 0)] a0 w s ∧ (done (exec (.movi a0 w) s)).regS a0 4 = 0xFFFFFFFFFFFFFFFF := by decide
theorem wit_movhi : let w := wd 0x00C (rrr 4 0 0 + 0xFFFFFFF)
    let s := mkC [w] [] [(4, 0x123456789)]
    Issues 0x00C [fDst, (27, 0)] a0 w s ∧ (done (exec (.movhi a0 w) s)).regS a0 4 = 0xFFFFFFF123456789 := by decide
theorem wit_mve : let w := wd 0x012 (rrr 4 15 0)
    let s := (mkC [w] [] []).setE a0 15 0xFFFF
    Issues 0x012 [fDst, fA] a0 w s ∧ wA w ≤ 15 ∧ (done (exec (.mve a0 w) s)).regS a0 4 = 0xFFFF := by decide
theorem wit_rdtick : let w := wd 0x014 (rrr 4 0 0)
    Issues 0x014 [fDst] a0 w (mkC [w] [] []) := by decide
theorem wit_rdst : let w := wd 0x013 (rrr 4 0 0)
    let s := (mkC [w] [] []).setStatus a0 9
    Issues 0x013 [fDst] a0 w s ∧ (done (exec (.rdst a0 w) s)).regS a0 4 = 9 := by decide
/-- A load from scratchpad, and one by a control core from control SRAM at the top of its 4 MiB. -/
theorem wit_ld : let w := wd 0x010 (rrr 4 1 0)
    let s := mkC [w] [] [(1, 0x3FFF70)]
    Issues 0x010 ([fDst, fA] ++ fMem) a0 w s ∧ spBad w = false ∧ (scalarLoc s a0 w (s.regS a0 1) 8 8).toOption = some (.spad 0x3FFF70)
    ∧ scalarPoison s a0 8 (.spad 0x3FFF70) = none := by decide
theorem wit_ld_sram : let w := wd 0x010 (rrr 4 1 0 + 2 * 2 ^ 34)
    let s := live0.setS k0 1 0x3FFFF8
    Issues 0x010 ([fDst, fA] ++ fMem) k0 w s ∧ spBad w = false ∧ (scalarLoc s k0 w (s.regS k0 1) 8 8).toOption = some (.sram 0x3FFFF8) := by decide
theorem wit_dldm : let w := wd 0x019 (rrr 14 15 1)
    let s := mkC [w] [] [(1, 64)]
    Issues 0x019 ([fDst, fA, fB] ++ fMem) a0 w s ∧ (scalarLoc s a0 w (s.regS a0 1) 32 64).toOption = some (.spad 64) := by decide
theorem wit_dld : let w := wd 0x018 (rrr 15 1 0)
    let s := mkC [w] [] [(1, 64)]
    Issues 0x018 ([fDst, fA] ++ fMem) a0 w s ∧ (scalarLoc s a0 w (s.regS a0 1) 32 32).toOption = some (.spad 64) := by decide
theorem wit_st : let w := wd 0x011 (rrr 0 1 2 + 0xFFFFFFF8)
    let s := mkC [w] [] [(1, 16), (2, 0x1122334455667788)]
    Issues 0x011 ([fA, fB] ++ fMem) a0 w s ∧ spBad w = false ∧ (scalarLoc s a0 w (s.regS a0 1) 8 8).toOption = some (.spad 8)
    ∧ ((done (exec (.st a0 w) s)).cl 0).spadRd 8 2 = [0x88, 0x77] := by decide
/-- A partition store: partition 0 has its GiB 0 at GiB 3 of the device. -/
def withDram (s : State) : State := (s.modPt 0 fun P => { P with defined := true, extents := [(0, BitVec.ofNat 64 (2 ^ 63 + 3 * 2 ^ 10))] })
theorem wit_st_dram : let w := wd 0x011 (rrr 0 1 2 + 2 ^ 34)
    let s := withDram (mkC [w] [] [(1, 264), (2, 7)])
    Issues 0x011 ([fA, fB] ++ fMem) a0 w s ∧ spBad w = false ∧ (scalarLoc s a0 w (s.regS a0 1) 8 8).toOption = some (.dram 0 264)
    ∧ (done (exec (.st a0 w) s)).cell (.dram (3 * 2 ^ 30 + 264)) = 7 := by decide
theorem wit_dstr : let w := wd 0x01A (rrr 0 1 15)
    let s := mkC [w] [(15, 77)] [(1, 32)]
    Issues 0x01A ([fA, fB] ++ fMem) a0 w s ∧ wB w ≤ 15 ∧ (scalarLoc s a0 w (s.regS a0 1) 32 32).toOption = some (.spad 32) := by decide
/-- R155's example: dadd d8, s4, field=offset with s4 = 3072. -/
theorem wit_dadd : let w := wd 0x01C (rrr 8 4 0)
    let s := mkC [w] [(8, BitVec.ofNat 256 (0xFFFFFF * 2 ^ 16))] [(4, 3072)]
    Issues 0x01C [fDst, fA, (35, 32)] a0 w s ∧ fieldBits 0 0 = some (39, 16)
    ∧ dfld ((done (exec (.dadd a0 w) s)).regD a0 8) 39 16 = 3071 := by decide
theorem wit_dset_chip : let w := wd 0x01B (rrr 8 4 0 + 12 * 2 ^ 32)
    let s := mkC [w] [(8, 0)] [(4, 1)]
    Issues 0x01B [fDst, fA, (35, 32)] a0 w s ∧ fieldBits (fld w 35 32) (dfld (s.regD a0 8) 13 12) = none := by decide
theorem wit_dset : let w := wd 0x01B (rrr 8 4 0 + 10 * 2 ^ 32)
    let s := mkC [w] [(8, 0)] [(4, 0x131)]
    Issues 0x01B [fDst, fA, (35, 32)] a0 w s ∧ ((done (exec (.dset a0 w) s)).regD a0 8) = 0x31 := by decide
theorem wit_dget : let w := wd 0x01D (rrr 4 8 0 + 5 * 2 ^ 32)
    let s := mkC [w] [(8, BitVec.ofNat 256 (0xFFFFFE * 2 ^ 112))] []
    Issues 0x01D [fDst, fA, (35, 32)] a0 w s ∧ (done (exec (.dget a0 w) s)).regS a0 4 = 0xFFFFFFFFFFFFFFFE := by decide
theorem wit_dget_none : let w := wd 0x01D (rrr 4 8 0 + 9 * 2 ^ 32)
    let s := mkC [w] [(8, 0x2000)] []
    Issues 0x01D [fDst, fA, (35, 32)] a0 w s ∧ fieldBits (fld w 35 32) (dfld (s.regD a0 8) 13 12) = none := by decide

/-! ### Faults and control -/

theorem wit_illegal : let w := wd 0x00D 0
    (mkC [w] [] []).ready a0 w = true ∧ (instrRows.all fun x => decide (classOp w ≠ x.1)) = true := by decide
theorem wit_illegal_top : let w := wd 0xFFF 0
    (mkC [w] [] []).ready a0 w = true ∧ (instrRows.all fun x => decide (classOp w ≠ x.1)) = true := by decide
theorem wit_privilege : let w := wd 0xFC5 (rrr 0 1 2)
    Issues 0xFC5 [fA, fB] a0 w (mkC [w] [] []) := by decide
theorem wit_wrong_core : live0.ready k0 (wd 0x100 0) = true ∧ classOp (wd 0x100 0) = 0x100 := by decide
theorem wit_fault : (mkC [0] [] []).taskOn 0 = some tk ∧ tk.fault = none ∧ 0 ∈ tk.clusters ∧ tk.clusters.Nodup := by decide
/-- br -1 at index 1, in a loop over 1 to 1 inside a loop over 0 to 1. -/
theorem wit_br : let w := wd 0x040 0xFFFFFFFF
    let s := (mkC [0, w] [] []).setPc a0 1 [⟨1, 1, 3⟩, ⟨0, 1, 2⟩]
    Issues 0x040 [(31, 0)] a0 w s ∧ ((done (exec (.br a0 w) s)).pcOf a0, (done (exec (.br a0 w) s)).loopsOf a0) = (0, [⟨0, 1, 2⟩]) := by decide
theorem wit_br_range : let w := wd 0x040 1
    Issues 0x040 [(31, 0)] a0 w (mkC [w] [] []) ∧ outOfProgram (mkC [w] [] []) a0 1 = true := by decide
theorem wit_brp : let w := wd 0x041 0
    let s := (mkC [w] [] []).setP a0 0 true
    Issues 0x041 [(34, 32), (31, 0)] a0 w s ∧ s.regP a0 (fld w 34 32) = true ∧ outOfProgram s a0 0 = false := by decide
theorem wit_brn_not : let w := wd 0x042 (7 * 2 ^ 32)
    let s := (mkC [w] [] []).setP a0 7 true
    Issues 0x042 [(34, 32), (31, 0)] a0 w s ∧ s.regP a0 (fld w 34 32) = true := by decide
theorem wit_loop : let w := wd 0x043 (rrr 0 1 0 + 1)
    let s := mkC [w, 0] [] [(1, 5)]
    Issues 0x043 [fA, (19, 0)] a0 w s ∧ (done (exec (.loop a0 w) s)).loopsOf a0 = [⟨1, 1, 4⟩] := by decide
theorem wit_loop_skip : let w := wd 0x043 (rrr 0 1 0 + 1)
    let s := mkC [w, 0] [] []
    Issues 0x043 [fA, (19, 0)] a0 w s ∧ (done (exec (.loop a0 w) s)).pcOf a0 = 2 := by decide
theorem wit_loop_depth : let w := wd 0x044 (84 * 2 ^ 20 + 1)
    let s := (mkC [w, 0] [] []).setPc a0 0 [⟨0, 1, 3⟩, ⟨0, 1, 2⟩, ⟨0, 1, 2⟩, ⟨0, 1, 2⟩]
    Issues 0x044 [(35, 0)] a0 w s ∧ fld w 19 0 = 1 ∧ fld w 35 20 = 84 ∧ 4 ≤ (s.loopsOf a0).length := by decide
theorem wit_loop_body0 : let w := wd 0x044 (2 ^ 20)
    Issues 0x044 [(35, 0)] a0 w (mkC [w] [] []) ∧ fld w 19 0 = 0 := by decide
theorem wit_nop_loop : let w := wd 0x047 0
    let s := (mkC [0, w] [] []).setPc a0 1 [⟨0, 1, 1⟩]
    Issues 0x047 [] a0 w s ∧ (done (exec (.nop a0 w) s)).pcOf a0 = 0 := by decide
theorem wit_end : let w := wd 0x046 0
    Issues 0x046 [] a0 w (mkC [w] [] []) := by decide
theorem wit_waite : let w := wd 0x045 (rrr 0 15 0 + 2 ^ 35 + 0xFFFF)
    let s := mkC [w] [] []
    Issues 0x045 (waitFlds w fA) a0 w s ∧ wA w ≤ 15 ∧ (done (exec (.waite a0 w) s)).pcOf a0 = 1 := by decide
theorem wit_waite_stall : let w := wd 0x045 (rrr 0 15 0 + 2 ^ 35 + 0x8000)
    let s := mkC [w] [] []
    Issues 0x045 (waitFlds w fA) a0 w s ∧ (done (exec (.waite a0 w) s)).stallOf a0 = some (.waite 15 0x8000) := by decide
theorem wit_waite_resume : let s := (mkC [0] [] []).stall a0 (.waite 3 0xFFFF)
    s.stallOf a0 = some (.waite 3 0xFFFF) ∧ s.awake a0 = true := by decide
theorem wit_evset : let w := wd 0x084 (rrr 15 0 2)
    let s := mkC [w] [] [(2, 0x1FFFE)]
    Issues 0x084 (waitFlds w fDst) a0 w s ∧ (done (exec (.evset a0 w) s)).regE a0 15 = 0xFFFE := by decide
/-- A job in the matrix queue of cluster 0. -/
def withJob (s : State) (u : Nat) : State := s.enqueue 0 { mkJob .tmm 0 [] [] with op := if u = 0 then .tmm else .sfill }
theorem wit_fence : let w := wd 0x080 1
    let s := withJob (mkC [w] [] []) 0
    Issues 0x080 [(6, 0)] a0 w s ∧ (done (exec (.fence a0 w) s)).stallOf a0 = some (.fence 1 1) := by decide
theorem wit_fence_other : let w := wd 0x080 1
    let s := withJob (mkC [w] [] []) 2
    Issues 0x080 [(6, 0)] a0 w s ∧ (done (exec (.fence a0 w) s)).pcOf a0 = 1 := by decide
theorem wit_fence_resume : let s := (mkC [0] [] []).stall a0 (.fence 0 1)
    s.stallOf a0 = some (.fence 0 1) ∧ s.awake a0 = true ∧ ((s.cl 0).units = []) := by decide
theorem wit_bar : let w := wd 0x081 0
    Issues 0x081 [] a0 w (mkC [w] [] []) := by decide
theorem wit_bar_release : let s := (mkC [0, 0] [] []).stall a0 .bar
    s.findTask tid = some tk ∧ s.live = true ∧ (s.cl 0).seq.run = .stalled .bar ∧ (done (exec (.barRelease tid) s)).pcOf a0 = 1 := by decide
theorem wit_phase : let w := wd 0x082 3
    let s := mkC [w] [] []
    Issues 0x082 [(7, 0)] a0 w s ∧ s.taskOn 0 = some tk ∧ tk.phases.getLsbD 3 = true := by decide
theorem wit_phase_no : let w := wd 0x082 255
    Issues 0x082 [(7, 0)] a0 w (mkC [w] [] []) ∧ tk.phases.getLsbD 255 = false := by decide
theorem wit_boundary : let s := (mkC [0, 0] [] []).stall a0 (.phase 3)
    s.findTask tid = some tk ∧ s.nightwatch = true ∧ tk.st = .running ∧ s.allRun tk = true ∧ s.mustPark tk = false
    ∧ (s.cl 0).seq.run = .stalled (.phase 3) ∧ s.appendsDiffer 0 tk.batches = false := by decide
/-- A task of two clusters that stand at different phases. -/
def tk2 : Task := { tk with clusters := [0, 1] }
def mkC2 : State := (((mkC [0, 0] [] []).setTasks [tk2]).setCl 1 ((mkC [0, 0] [] []).cl 0)).stall a0 (.phase 3) |>.stall (.seq 1) (.phase 4)
theorem wit_mismatch : mkC2.findTask tid = some tk2 ∧ mkC2.nightwatch = true ∧ mkC2.allRun tk2 = true ∧ tk2.clusters.Nodup
    ∧ (mkC2.cl 0).seq.run = .stalled (.phase 3) ∧ (mkC2.cl 1).seq.run = .stalled (.phase 4) := by decide
theorem wit_waitt : let w := wd 0x083 (rrr 7 1 0)
    let s := mkC [w] [] []
    Issues 0x083 [fDst, fA] a0 w s ∧ wDst w ≤ 7 ∧ (done (exec (.waitt a0 w) s)).stallOf a0 = some (.waitt 0) := by decide
theorem wit_waitt_passed : let w := wd 0x083 (rrr 7 1 0)
    let s := (mkC [w] [] []).setClk { (mkC [w] [] []).clk with merTick := 1 }
    Issues 0x083 [fDst, fA] a0 w s ∧ (done (exec (.waitt a0 w) s)).regP a0 7 = true := by decide
theorem wit_waitt_resume : let s := (mkC [0] [] []).stall a0 (.waitt 0)
    s.stallOf a0 = some (.waitt 0) ∧ s.awake a0 = true := by decide
theorem wit_timeout : let s := (mkC [0] [] []).stall a0 .bar
    (s.cl 0).seq.run = .stalled .bar ∧ s.taskOn 0 = some tk ∧ s.live = true ∧ (s.pt 0).waitLimit ≠ 0 ∧ s.hif.hostLost = false
    ∧ (s.pt 0).hostLost = false := by decide

/-! ### Tensor instructions, units and streams -/

/-- sfill of s4 bytes... window 1: a in s1, pattern in s2, n in s3; event counter 3. -/
def fillW : Word := wd 0x180 (rrr 1 2 3 + 2 ^ 35 + 3 * 2 ^ 31)
def fillS (n : Nat) : State := mkC [fillW] [] [(1, 5), (2, 0x8877665544332211), (3, BitVec.ofNat 64 n)]
theorem wit_tensor_issue : (fillS 4).ready a0 fillW = true ∧ classOp fillW = 0x180
    ∧ firstFault (tensorChecks (fillS 4) 0 fillW (spadForm false 0x180 a0 fillW (fillS 4)).os (spadForm false 0x180 a0 fillW (fillS 4)).chk) = none
    ∧ (spadForm false 0x180 a0 fillW (fillS 4)).empty = false ∧ ((fillS 4).cl 0).unit 2 = [] := by decide
/-- An empty fill behind another job: it queues; with an empty queue it completes at once (R167's sfill of n = 0). -/
theorem wit_tensor_empty : (spadForm false 0x180 a0 fillW (fillS 0)).empty = true
    ∧ ((withJob (fillS 0) 2).cl 0).unit 2 ≠ [] ∧ (withJob (fillS 0) 2).ready a0 fillW = true
    ∧ wEvent fillW = some 3 ∧ (done (exec (.sfill a0 fillW) (fillS 0))).regE a0 3 = 1 := by decide
/-- A word with bit 26 set, which no field of SFILL takes. -/
theorem wit_tensor_fault : let w := fillW ||| 0x4000000
    let s := mkC [w] [] []
    s.ready a0 w = true ∧ classOp w = 0x180
    ∧ firstFault (tensorChecks s 0 w (spadForm false 0x180 a0 w s).os (spadForm false 0x180 a0 w s).chk) = some stIllegalInstr := by decide
/-- Sixteen jobs wait. -/
def full (s : State) : State := (List.range 16).foldl (fun s _ => withJob s 2) s
theorem wit_tensor_full : 16 ≤ (((full (fillS 4)).cl 0).unit 2).length ∧ (full (fillS 4)).ready a0 fillW = true := by decide
theorem wit_queue_resume : let s := (fillS 4).stall a0 (.unitFull 2)
    s.stallOf a0 = some (.unitFull 2) ∧ s.awake a0 = true ∧ ((s.cl 0).unit 2).length < 16 ∧ classOp fillW = 0x180
    ∧ (s.cl 0).seq.prog[(s.cl 0).seq.pc]? = some fillW := by decide
/-- A dmov to host memory while the host is lost stalls. -/
theorem wit_tensor_hold : let w := wd 0x1C0 (rrr 0 1 0)
    let h : BitVec 256 := BitVec.ofNat 256 (0x20 + 1 * 2 ^ 12 + 2 ^ 54 + 2 ^ 96 + 2 ^ 112)
    let l : BitVec 256 := BitVec.ofNat 256 (0x20 + 2 ^ 96 + 2 ^ 112)
    let s0 := (mkC [w] [(0, h), (1, l)] []).modPt 0 fun P => { P with hostWin := [(4, 0xFFF)] }
    let s := s0.setHif { s0.hif with hostLost := true }
    s.ready a0 w = true ∧ (dmovForm a0 w s).chk.hold = true ∧ (dmovForm a0 w s).empty = false := by decide
def fillQ (n : Nat) : State := done (exec (.sfill a0 fillW) (fillS n))
theorem wit_completes : (fillQ 4).live = true ∧ ((fillQ 4).cl 0).cstate = .run ∧ (((fillQ 4).cl 0).unit 2).length = 1
    ∧ ((fillQ 4).taskOn 0).isSome = true
    ∧ ((done (exec (.tensorComplete 0 2) (fillQ 4))).cl 0).spadRd 4 6 = [0, 0x66, 0x77, 0x88, 0x11, 0]
    ∧ (done (exec (.tensorComplete 0 2) (fillQ 4))).regE a0 3 = 1 := by decide
/-- A copy of 4 bytes from 0 to 2, overlapping. -/
def copyW : Word := wd 0x181 (rrr 1 2 3)
def copyS : State := (mkC [copyW] [] [(1, 2), (3, 4)]).modCl 0 fun x => { x with spad := [(0, 1), (1, 2), (2, 3), (3, 4)] }
theorem test_scopy_overlap : ((done (exec (.tensorComplete 0 2) (done (exec (.scopy a0 copyW) copyS)))).cl 0).spadRd 0 7 = [1, 2, 1, 2, 3, 4, 0] := by
  decide
/-- The example of R44: 1,000 at X = 10, then -300 at Y = 12. -/
theorem test_acc_example : let e : AccEntry := { q := 1000, tag := mkTag false false 2 true 10 }
    let r := (accAdd e (-300) 12 2).1
    (r.val, tagX r.tag, tagSat r.tag) = (-200, 10, false) := by decide
theorem test_acc_shift_out : let e : AccEntry := { q := 0x7FFFFFFF, tag := mkTag false false 2 true 11 }
    let r := (accAdd e 5 10 3).1
    (r.val, tagX r.tag, tagSat r.tag, tagMix r.tag, tagFmt r.tag) = (2 ^ 31 - 1, 10, true, true, 3) := by decide
/-- A bank that is due, and one that drains. -/
def bankS (st : BankState) (due : Bool) : State := (withJob (mkC [0] [] []) 0).modCl 0 fun x =>
  x.setCore 5 { MCore.reset with bank0 := { Bank.reset with st := st, due := due } }
theorem wit_drain : (((bankS .active true).cl 0).mcore 5).bank0.due = true ∧ (bankS .active true).live = true := by decide
theorem wit_drain_end : (((bankS .draining false).cl 0).mcore 5).bank 0 = { Bank.reset with st := .draining } ∧ (bankS .draining false).live = true
    ∧ ((((bankS .draining false).cl 0).unit 0).find? fun j => decide (j.id = 0)).isSome = true := by decide
/-- tmm d9, d8, d7, ev = e1 (chapter 8) on 1 x 1 x 1 operands: A16 activations, ternary weights, PS16 output. -/
def tmmW : Word := 0x1002507880000000
def matS : State := mkC [tmmW]
  [(9, BitVec.ofNat 256 (0x21 + 2 ^ 96 + 2 ^ 112)), (8, BitVec.ofNat 256 (0x01 + 4096 * 2 ^ 16 + 2 ^ 96 + 2 ^ 112)),
   (7, BitVec.ofNat 256 (0x13 + 4096 * 2 ^ 16 + 2 ^ 96 + 2 ^ 112))] []
theorem test_tmm_word : classOp tmmW = 0x100 ∧ wDst tmmW = 9 ∧ wA tmmW = 8 ∧ wB tmmW = 7 ∧ wEvent tmmW = some 1 := by decide
theorem wit_tmm : matS.ready a0 tmmW = true
    ∧ firstFault (tensorChecks matS 0 tmmW (mForm false 0x100 a0 tmmW matS).os (mForm false 0x100 a0 tmmW matS).chk) = none
    ∧ (mForm false 0x100 a0 tmmW matS).empty = false := by decide
def matQ : State := done (exec (.tmm a0 tmmW) matS)
theorem wit_tile : (((matQ.cl 0).unit 0).find? fun j => decide (mget 0 j.coreDone 0 < tilesOn j.tiles 0)).isSome = true
    ∧ pickBank ((matQ.cl 0).mcore 0) 0 false = some 0 ∧ matQ.issueHeld 0 = false ∧ (((matQ.cl 0).mcore 0).bank 0).st = .free := by decide
theorem test_tile_end : ((((done (exec (.tileEnd 0 0) matQ)).cl 0).mcore 0).bank 0).st = .active := by decide
/-- The one tile has drained into the output buffer of its core. -/
def matB : State := done (exec (.bankDrainEnd 0 0 0) (done (exec (.bankDrain 0 0 0) (done (exec (.tileEnd 0 0) matQ)))))
theorem wit_mdone : ((matB.cl 0).mcore 0).buf.isSome = true ∧ (((emptyBufs 0 matB).cl 0).unit 0).all mDone = true := by decide
theorem wit_waiting : let s := (withJob (mkC [0] [] []) 0).modCl 0 fun x => x.setUnit 0 ((x.unit 0).map fun j => { j with waiting := true })
    (((s.cl 0).unit 0).find? (·.waiting)).isSome = true ∧ s.live = true := by decide
theorem wit_waiting_kv : let s := (mkC [0] [] []).modCl 0 fun x => x.setUnit 4 [{ mkJob .kvapp 0 [0, 0] [0] with waiting := true }]
    (((s.cl 0).unit 4).find? (·.waiting)).isSome = true := by decide
/-- rngs.claim.e s12, s13, s14, permit (chapter 8). -/
def claimW (permit : Nat) : Word := wd 0x280 (2 ^ 51 + rrr 12 13 14 + permit * 2 ^ 35)
def claimS (permit : Nat) : State := mkC [claimW permit] [] [(13, 0x80000000), (14, 0xFFFFFFFF)]
theorem wit_claim : (claimS 1).taskOn 0 = some tk ∧ Issues 0x280 [fDst, fA, fB, (35, 35)] a0 (claimW 1) (claimS 1)
    ∧ wE (claimW 1) = true ∧ ((claimS 1).pt 0).claims.length < 256 ∧ (done (exec (.rngsClaim a0 (claimW 1)) (claimS 1))).regS a0 12 = 1 := by decide
/-- The same range held by another handle: an alias without permit. -/
def heldS (permit : Nat) (h : Word) : State := (claimS permit).modPt 0 fun P => { P with nextHandle := 2, claims :=
  [{ seed := 7, lo := 0xFFFFFFFF, hi := 0xFFFFFFFF, task := tid, handle := h, permit := false }] }
theorem wit_claim_alias : ((done (exec (.rngsClaim a0 (claimW 0)) (heldS 0 1))).cl 0).seq.run = .faulted
    ∧ (heldS 0 1).taskOn 0 = some tk ∧ Issues 0x280 [fDst, fA, fB, (35, 35)] a0 (claimW 0) (heldS 0 1) := by decide
def aClaim : Claim := { seed := 0, lo := 0, hi := 0, task := tid, handle := 9, permit := false }
set_option maxRecDepth 4000 in
theorem wit_claim_full : let s := (claimS 1).modPt 0 fun P => { P with claims := List.replicate 256 aClaim }
    256 ≤ (s.pt 0).claims.length ∧ s.taskOn 0 = some tk := by decide
theorem wit_claim_class : let w := claimW 0
    let s := mkC [w] [] [(13, 0x80000001), (14, 0x80000000)]
    Issues 0x280 [fDst, fA, fB, (35, 35)] a0 w s ∧ wE w = true := by decide
theorem wit_claim_e : let w := wd 0x280 (rrr 12 13 14)
    Issues 0x280 [fDst, fA, fB, (35, 35)] a0 w (mkC [w] [] []) ∧ wE w = false := by decide
theorem wit_rel : let w := wd 0x281 (2 ^ 51 + rrr 0 12 0)
    let s := (mkC [w] [] [(12, 1)]).modPt 0 fun P => { P with claims := ((heldS 0 1).pt 0).claims }
    Issues 0x281 [fA] a0 w s ∧ wE w = true ∧ ((s.pt 0).claimBy tid 1).isSome = true
    ∧ ((done (exec (.rngsRel a0 w) s)).pt 0).claims = [] := by decide
theorem wit_rel_gone : let s := (mkC [0] [] []).stall a0 (.rngsRel 1)
    s.stallOf a0 = some (.rngsRel 1) ∧ (s.pt 0).claimBy tid 1 = none ∧ s.awake a0 = true ∧ s.taskOn 0 = some tk := by decide
theorem wit_rel_done : let s := ((mkC [0] [] []).modPt 0 fun P => { P with claims := ((heldS 0 1).pt 0).claims }).stall a0 (.rngsRel 1)
    s.stallOf a0 = some (.rngsRel 1) ∧ ((s.pt 0).claimBy tid 1).isSome = true ∧ s.awake a0 = true ∧ s.taskOn 0 = some tk := by decide

/-! ### What the units compute -/

/-- Positions of the bytes of a tensor. -/
def places (t : Ten) : List (Nat × Nat) := (List.range t.count).flatMap fun i => (List.range (eltBytes t.fmt)).map fun b => (i, b)
theorem mem_places (t : Ten) (i b : Nat) : (i, b) ∈ places t ↔ i < t.count ∧ b < eltBytes t.fmt := by
  simp [places]
def oneEach (s : State) (t : Ten) : Bool :=
  (places t).all fun x => (eltCell s 0 t x.1 x.2).isSome && (places t).all fun y => decide (eltCell s 0 t x.1 x.2 = eltCell s 0 t y.1 y.2 → x = y)
def apart (s : State) (a b : Ten) : Bool :=
  (places a).all fun x => (places b).all fun y => decide (eltCell s 0 a x.1 x.2 ≠ eltCell s 0 b y.1 y.2)
theorem oneEach_ok {s : State} {t : Ten} (h : oneEach s t = true) : OneEach s 0 t := by
  simp only [oneEach, List.all_eq_true, Bool.and_eq_true, decide_eq_true_eq] at h
  intro i b hi hb
  refine ⟨(h _ ((mem_places t i b).2 ⟨hi, hb⟩)).1, fun k d hk hd e => ?_⟩
  have := (h _ ((mem_places t i b).2 ⟨hi, hb⟩)).2 _ ((mem_places t k d).2 ⟨hk, hd⟩) e
  simpa using this
theorem apart_ok {s : State} {a b : Ten} (h : apart s a b = true) : Apart s 0 a b := by
  intro i x k y hi hx hk hy
  have h1 := List.all_eq_true.1 h (i, x) ((mem_places a i x).2 ⟨hi, hx⟩)
  have h2 := List.all_eq_true.1 h1 (k, y) ((mem_places b k y).2 ⟨hk, hy⟩)
  exact of_decide_eq_true h2
/-- Tensors of the formats named are plain, and their bytes are present and all different. -/
def tensorsOk (s : State) : List (Nat × Ten) → Bool
  | [] => true
  | x :: xs => decide (x.2.fmt = x.1) && !x.2.xc && ((List.range x.2.count).all fun i => decide (0 ≤ x.2.elemAt i)) && oneEach s x.2 &&
      (xs.all fun y => apart s x.2 y.2) && tensorsOk s xs
/-- The one job of a unit, on given scratchpad bytes. -/
def unitS (s : State) (op : TOp) (w : Word) (ds : List (BitVec 256)) (sc : List Word) (sp : List (Nat × Byte)) : State :=
  s.modCl 0 fun x => { x.setUnit op.unit [mkJob op w ds sc] with spad := sp }
def unitT (op : TOp) (ds : List (BitVec 256)) (sp : List (Nat × Byte)) : State := unitS (mkC [0] [] []) op 0 ds [] sp
def unitEnd (s : State) (u : Fin 7) : State := done (exec (.tensorComplete 0 u) s)
def unitJob (s : State) (u : Nat) : Job := ((s.cl 0).unit u).headD (mkJob .tmm 0 [] [])
/-- One dimension of e elements of a format at element offset off, in scratchpad and in partition memory. -/
def vec (f off e : Nat) : BitVec 256 := BitVec.ofNat 256 (f + off * 2 ^ 16 + e * 2 ^ 96 + 2 ^ 112)
def dramVec (f off e : Nat) : BitVec 256 := BitVec.ofNat 256 (f + 2 ^ 12 + off * 2 ^ 16 + e * 2 ^ 96 + 2 ^ 112)
def bytesAt (a n v : Nat) : List (Nat × Byte) := (List.zip (List.range n) (leBytes n v)).filterMap fun x => if x.2 = 0 then none else some (a + x.1, x.2)
/-- I32: the sum of 2^31 - 1 and 5 saturates (R100). -/
def addI : State := unitT (.vew .add) [vec 0x20 0 1, vec 0x20 4 1, vec 0x20 8 1] (bytesAt 16 4 0x7FFFFFFF ++ bytesAt 32 4 5)
theorem wit_vew_int : Oldest 0 1 addI (unitJob addI 1) [] ∧ vTap (unitJob addI 1).word = 0
    ∧ tensorsOk addI [(0x20, (unitJob addI 1).ten 0), (0x20, (unitJob addI 1).ten 1), (0x20, (unitJob addI 1).ten 2)] = true
    ∧ eltVal (unitEnd addI 1) 0 ((unitJob addI 1).ten 0) 0 = 0x7FFFFFFF := by unfold Oldest; decide
/-- FP32: 1 + 2^-24 is a tie, to even; 3 x 2 = 6. -/
def addF (o : VewOp) (x y : Nat) : State := unitT (.vew o) [vec 0x31 0 1, vec 0x31 4 1, vec 0x31 8 1] (bytesAt 16 4 x ++ bytesAt 32 4 y)
def outF (o : VewOp) (x y : Nat) : Nat := eltVal (unitEnd (addF o x y) 1) 0 ((unitJob (addF o x y) 1).ten 0) 0
theorem wit_vew_float : Oldest 0 1 (addF .add 0x3F800000 0x33800000) (unitJob (addF .add 0x3F800000 0x33800000) 1) []
    ∧ (let s := addF .add 0x3F800000 0x33800000
       tensorsOk s [(0x31, (unitJob s 1).ten 0), (0x31, (unitJob s 1).ten 1), (0x31, (unitJob s 1).ten 2)] = true)
    ∧ Normal 0x3F800000 ∧ Normal 0x33800000 ∧ InRange 0 (f32Val 0x3F800000 + f32Val 0x33800000)
    ∧ outF .add 0x3F800000 0x33800000 = 0x3F800000 := by
  unfold Oldest Normal InRange; decide +kernel
theorem test_vew_exact : outF .mul 0x40400000 0x40000000 = 0x40C00000 ∧ outF .div 0x40400000 0x40000000 = 0x3FC00000
    ∧ outF .max 0x80000000 0 = 0 ∧ outF .sqrt 0x40800000 0 = 0x40000000 ∧ outF .rsqrt 0x40800000 0 = 0x3F000000
    ∧ outF .exp2 0x40400000 0 = 0x41000000 ∧ outF .log2 0x41000000 0 = 0x40400000 ∧ outF .sub 0x3F800000 0x3F800000 = 0
    ∧ outF .pow 0x40000000 0x40400000 = 0x41000000 ∧ outF .sigm 0 0 = 0x3F000000 := by decide +kernel
/-- Conversions: 1 + 2^-8 to BF16 is a tie, to even; 3 to FP32. -/
def cvt (fd fs v : Nat) : State := unitT .vcvt [vec fd 0 1, vec fs 8 1] (bytesAt (8 * (if fs = 0x30 then 2 else 4)) 4 v)
def cvtOut (fd fs v : Nat) : Nat := eltVal (unitEnd (cvt fd fs v) 1) 0 ((unitJob (cvt fd fs v) 1).ten 0) 0
theorem wit_vcvt : (∀ x ∈ [(0x30, 0x31, 0x3F808000), (0x31, 0x30, 0x4040), (0x31, 0x20, 3)], let s := cvt x.1 x.2.1 x.2.2
      Oldest 0 1 s (unitJob s 1) [] ∧ vRnd (unitJob s 1).word = false ∧ tensorsOk s [(x.1, (unitJob s 1).ten 0), (x.2.1, (unitJob s 1).ten 1)] = true)
    ∧ Normal 0x3F808000 ∧ InRange 16 (f32Val 0x3F808000) ∧ FiniteF32 (2 ^ 16 * 0x4040)
    ∧ (cvtOut 0x30 0x31 0x3F808000, cvtOut 0x31 0x30 0x4040, cvtOut 0x31 0x20 3) = (0x3F80, 0x40400000, 0x40400000) := by
  unfold Oldest FiniteF32 Normal InRange; decide +kernel
/-- Three elements to one. -/
def redS (o : TOp) (f : Nat) (z : Nat := 0xBF800000) : State :=
  unitT o [vec f 0 1, vec f 4 3, vec 0x20 12 1] (bytesAt 16 4 0x3F800000 ++ bytesAt 20 4 z ++ bytesAt 24 4 0x3F800000)
theorem wit_vred_sum : let s := redS (.vred .sum) 0x20 0xFF800000
    Oldest 0 1 s (unitJob s 1) [] ∧ redLen ((unitJob s 1).ten 1) (vDims (unitJob s 1).word) = 3
    ∧ tensorsOk s [(0x20, (unitJob s 1).ten 0), (0x20, (unitJob s 1).ten 1)] = true
    ∧ eltVal (unitEnd s 1) 0 ((unitJob s 1).ten 0) 0 = 0x7E800000 := by unfold Oldest; decide +kernel
/-- The lower index wins (R69). -/
theorem wit_vred_max : let s := redS (.varg .max) 0x31
    Oldest 0 1 s (unitJob s 1) [] ∧ tensorsOk s [(0x31, (unitJob s 1).ten 0), (0x31, (unitJob s 1).ten 1), (0x20, (unitJob s 1).ten 2)] = true
    ∧ FiniteF32 0x3F800000 ∧ FiniteF32 0xBF800000
    ∧ (eltVal (unitEnd s 1) 0 ((unitJob s 1).ten 0) 0, eltVal (unitEnd s 1) 0 ((unitJob s 1).ten 2) 0) = (0x3F800000, 0) := by
  unfold Oldest FiniteF32 Normal; decide +kernel
theorem wit_vred_min : let s := redS (.vred .min) 0x31
    Oldest 0 1 s (unitJob s 1) [] ∧ eltVal (unitEnd s 1) 0 ((unitJob s 1).ten 0) 0 = 0xBF800000 := by unfold Oldest; decide +kernel
/-- Two dimensions. -/
def mat (f off a b : Nat) : BitVec 256 :=
  BitVec.ofNat 256 (f + 2 ^ 10 + off * 2 ^ 16 + a * 2 ^ 96 + 2 ^ 112 + b * 2 ^ 136 + a * 2 ^ 152)
/-- One block whose first row holds 1 in all places: four of them stay. -/
def pruneS : State := unitT .prune [vec 0x20 0 2, mat 0x30 64 8 8] ((List.range 8).flatMap fun i => bytesAt (128 + 2 * i) 2 0x3F80)
theorem wit_prune : let j := unitJob pruneS 6
    Oldest 0 6 pruneS j [] ∧ tensorsOk pruneS [(0x20, j.ten 0), (0x30, j.ten 1)] = true ∧ (j.ten 1).e 0 = 8 ∧ (j.ten 1).e 1 = 8
    ∧ (j.ten 1).count = 64 ∧ (j.ten 0).count = 2 ∧ eltVal pruneS 0 (j.ten 1) 63 = 0
    ∧ (eltVal (unitEnd pruneS 6) 0 (j.ten 0) 0, eltVal (unitEnd pruneS 6) 0 (j.ten 0) 1) = (0xF, 0) := by unfold Oldest; decide +kernel
/-- The tile of the matrix job above, alone, its weights and activations not zero. -/
def tileS (op : TOp) (wf : Nat) : State := ((matQ.cl 0).unit 0).foldl (fun s j => s.modCl 0 fun x =>
  { x.setUnit 0 [{ j with op := op, descs := (j.descs.take 1) ++ [vec wf 4096 1] ++ j.descs.drop 2 }] with
    spad := [(4096, 5), (8320, 1), (16512, 130)] }) matQ
theorem wit_tile_run : let s := tileS .tmm 0x01
    let j := unitJob s 0
    s.live = true ∧ (s.cl 0).spadFlaw = [] ∧ (s.cl 0).spadPoison = [] ∧ NextTile 0 0 s j 0 ∧ j.taints (s.cl 0) = [] ∧ j.op = .tmm ∧ j.esc = false
    ∧ j.split = [] ∧ mAcc j.word = false ∧ mCont j.word = false ∧ mTr j.word = false ∧ (j.ten 2).fmt = 0x13 ∧ (j.ten 2).xc = false
    ∧ (j.ten 2).space = 0 ∧ (j.ten 1).xc = false ∧ (j.ten 1).space = 0 ∧ (j.ten 1).fmt = 0x01 ∧ (j.mdim.k, j.mdim.n, j.mdim.m) = (1, 1, 1) := by
  unfold NextTile; decide
theorem wit_tile_precise : let s := tileS .tmmp 0x12
    let j := unitJob s 0
    NextTile 0 0 s j 0 ∧ j.op = .tmmp ∧ (j.ten 1).fmt = 0x12 ∧ (j.mdim.k, j.mdim.n, j.mdim.m) = (1, 1, 1) := by unfold NextTile; decide
/-- The first trit of byte 5 is -1: of the A16 mantissa 1 at exponent 130 the high pass adds 0 at 138, the low one -1 at 130. -/
theorem test_tile_entry : let e := mget AccEntry.empty (((done (exec (.tileEnd 0 0) (tileS .tmm 0x01))).cl 0).mcore 0).bank0.ents 0
    (tritOf 5 0, e.q.toInt, tagX e.tag, tagValid e.tag) = (-1, -1, 130, true) := by decide +kernel
/-- Weight 3 at exponent 127 and activation 2 at exponent 130. -/
def preciseS : State := let s := tileS .tmmp 0x12
  (s.modCl 0 fun x => { x.setUnit 0 [{ unitJob s 0 with descs := ((unitJob s 0).descs.take 1) ++ [vec 0x12 0 1] ++ (unitJob s 0).descs.drop 2 }] with
    spad := [(0, 3), (4096, 127), (8320, 2), (16512, 130)] })
theorem test_precise_entry : let e := mget AccEntry.empty (((done (exec (.tileEnd 0 0) preciseS)).cl 0).mcore 0).bank0.ents 0
    (e.q.toInt, tagX e.tag, tagValid e.tag) = (6, 130, true) := by decide +kernel
/-- An output in FP32 whose one tile has drained: 3 at exponent 130 is 24. -/
def outS : State := (mkC [0] [] []).modCl 0 fun x => x.setUnit 0
  [{ mkJob .tmm 0 [vec 0x31 0 1, vec 0x01 4096 1, vec 0x13 4096 1] [] with drained := 1, ents := [(0, { q := 3, tag := mkTag false false 3 true 130 })] }]
theorem wit_matrix_out : let j := unitJob outS 0
    Oldest 0 0 outS j [] ∧ mKeep j.word = false ∧ j.drained = j.tiles ∧ ((outS.cl 0).mcore 5).buf = none ∧ j.undef = []
    ∧ tensorsOk outS [(0x31, j.ten 0)] = true ∧ InRange 0 (3 * 2 ^ 152) ∧ eltVal (unitEnd outS 0) 0 (j.ten 0) 0 = 0x41C00000 := by
  unfold Oldest InRange; decide +kernel

/-! Data movement, attention and collectives. -/

/-- A unit's job in partition 0, which has its GiB 0 in memory; DRAM bytes as given. -/
def moveS (op : TOp) (w : Word) (ds : List (BitVec 256)) (sp dr : List (Nat × Byte)) : State :=
  let s := unitS (withDram (mkC [0] [] [])) op w ds [] sp
  s.setMem { s.mem with dram := dr.map fun x => (3 * 2 ^ 30 + x.1, x.2) }
theorem wit_mem_sound : (withDram live0).mem.flaw = [] ∧ (withDram live0).mem.poison = [] ∧ (withDram live0).mem.cipher = []
    ∧ ((List.range 64).all fun g => (withDram live0).groupOn g) = true := by decide
theorem wit_dmov : let s := moveS .dmov 0 [dramVec 0x20 0 1, vec 0x20 4 1] (bytesAt 16 4 77) []
    let j := unitJob s 3
    Oldest 0 3 s j [] ∧ tensorsOk s [(0x20, j.ten 0), (0x20, j.ten 1)] = true ∧ (j.ten 0).count = (j.ten 1).count
    ∧ eltVal (unitEnd s 3) 0 (j.ten 0) 0 = 77 := by unfold Oldest; decide +kernel
/-- AOP 1 keeps the signed minimum. -/
theorem wit_atom_unit : let s := moveS .atom (2 ^ 23) [dramVec 0x20 0 1, vec 0x20 4 1] (bytesAt 16 4 0xFFFFFFFF) (bytesAt 0 4 7)
    let j := unitJob s 3
    Oldest 0 3 s j [] ∧ aTy j.word = 0 ∧ aOp j.word = 1 ∧ aIdx j.word = false ∧ tensorsOk s [(0x20, j.ten 0), (0x20, j.ten 1)] = true
    ∧ (j.ten 0).space = 1 ∧ eltVal (unitEnd s 3) 0 (j.ten 0) 0 = 0xFFFFFFFF := by unfold Oldest; decide +kernel
/-- Rows 1 and none of a table of two rows of two elements. -/
def dmat (f off a b : Nat) : BitVec 256 :=
  BitVec.ofNat 256 (f + 2 ^ 10 + 2 ^ 12 + off * 2 ^ 16 + a * 2 ^ 96 + 2 ^ 112 + b * 2 ^ 136 + a * 2 ^ 152)
theorem wit_gath : let s := moveS .gath 0 [mat 0x20 0 2 2, vec 0x20 8 2, dmat 0x20 0 2 2] (bytesAt 32 4 1 ++ bytesAt 36 4 0xFFFFFFFF) (bytesAt 8 4 5 ++ bytesAt 12 4 6)
    let j := unitJob s 3
    Oldest 0 3 s j [] ∧ gPool j.word = false ∧ gIw j.word = false ∧ tensorsOk s [(0x20, j.ten 0), (0x20, j.ten 1), (0x20, j.ten 2)] = true
    ∧ tabRows (j.ten 2) = 2 ∧ (j.ten 2).count = 4 ∧ (j.ten 0).count = (j.ten 2).e 0 * (j.ten 1).count
    ∧ ((List.range 4).map fun i => eltVal (unitEnd s 3) 0 (j.ten 0) i) = [5, 6, 0, 0] := by unfold Oldest; decide +kernel
def aSeq : KvSeq :=
  { sid := 9, prio := 1, layout := 0x00010000, batch := 64, prompt := [], cursor := 5, groups := [], ahead := [], gmax := 1, stream := 0, st := .resident
    order := 0, slots := [], out := [], plain := [], ctr := 0, tags := [], pois := [], seals := [], lent := 0, endReq := none }
/-- A batch at 64 of one sequence in the layout P = 16, H = 1, D = 32, BF16: cursor c, page 1, its descriptor at 512, A[0] READY with its
page list at 1,024. -/
def kvMem (c : Nat) : List (Nat × Byte) :=
  bytesAt 64 4 1 ++ bytesAt 68 4 0x02200000 ++ bytesAt 72 2 1 ++ bytesAt 74 1 1 ++ bytesAt 128 4 9 ++ bytesAt 132 4 c ++ bytesAt 136 8 512 ++ bytesAt 144 2 1 ++
    bytesAt 160 8 (2 ^ 63 + 1024) ++ bytesAt 512 16 (2 ^ 104 + 2 ^ 55) ++ bytesAt 1024 4 1
def kvUnit (op : TOp) (w : Word) (ds : List (BitVec 256)) (sp : List (Nat × Byte)) (c : Nat) (pg : List (Nat × Byte)) : State :=
  let s := moveS op w ds sp (kvMem c ++ pg)
  (s.modPt 0 fun P => { P with kvSeqs := [{ aSeq with layout := 0x02200000 }] }).modCl 0 fun x =>
    x.setUnit 4 ((x.unit 4).map fun j => { j with scal := [64] })
theorem wit_kvapp : let s := kvUnit .kvapp 0 [mat 0x30 0 32 1, mat 0x30 64 32 1] (bytesAt 0 2 0x1111 ++ bytesAt 128 2 0x2222) 3 []
    let j := unitJob s 4
    ∃ b l, Oldest 0 4 s j [] ∧ kvGood s 0 (nth 0 j.scal 0) = some (b, l) ∧ b.count = 1 ∧ l.bf = true ∧ l.xc = false ∧ l.row = 32 ∧ l.used ≤ 65536
    ∧ tensorsOk s [(0x30, j.ten 0), (0x30, j.ten 1)] = true ∧ (j.ten 0).e 1 = 1 ∧ (j.ten 0).count = 32 ∧ (j.ten 1).count = 32
    ∧ (s.kvRowOf 0 b l (kLayer j.word) 0 0).2.2.k = 65536 ∧ (s.pt 0).dev 65536 = some (3 * 2 ^ 30 + 65536)
    ∧ ((unitEnd s 4).cell (.dram (3 * 2 ^ 30 + 65536 + 192)), (unitEnd s 4).cell (.dram (3 * 2 ^ 30 + 65536 + 1024 + 193))) = (0x11, 0x22) :=
  ⟨{ addr := 64, count := 1, lay := some ⟨16, 1, 32, true, false⟩, layers := 1, qrows := 1, look := 0 }, ⟨16, 1, 32, true, false⟩, by unfold Oldest; decide +kernel⟩
theorem wit_kvstg : let s := kvUnit .kvstg 0 [vec 0x00 0 4096] [] 1 (bytesAt 65536 2 0x1111 ++ bytesAt 66560 2 0x2222)
    let j := unitJob s 4
    ∃ b l, Oldest 0 4 s j [] ∧ kvGood s 0 (nth 0 j.scal 0) = some (b, l) ∧ (s.seqRec 0 b 0).cursor = 1 ∧ (s.pageDesc 0 (s.seqRec 0 b 0) (kLayer j.word) 0).valid = true
    ∧ (s.pageDesc 0 (s.seqRec 0 b 0) (kLayer j.word) 0).first = 0 ∧ (s.pageDesc 0 (s.seqRec 0 b 0) (kLayer j.word) 0).page = 65536
    ∧ (j.ten 0).space = 0 ∧ (j.ten 0).xc = false ∧ 0 ≤ (j.ten 0).span.1
    ∧ ((unitEnd s 4).cell (.spad 0 0), (unitEnd s 4).cell (.spad 0 128)) = (0x11, 0x22) :=
  ⟨{ addr := 64, count := 1, lay := some ⟨16, 1, 32, true, false⟩, layers := 1, qrows := 1, look := 0 }, ⟨16, 1, 32, true, false⟩, by unfold Oldest; decide +kernel⟩
/-- One query row over one cached position, whose key and value rows hold 1 in their first element; no new position. -/
def attnS : State := kvUnit .attn (2 ^ 4) [vec 0x31 0 32, vec 0x12 4096 32, mat 0x30 4096 64 0, vec 0x31 64 2]
  (bytesAt 4224 1 64 ++ bytesAt 8320 1 121 ++ bytesAt 256 4 0xFF800000) 1 (bytesAt 65536 2 0x3F80 ++ bytesAt 66560 2 0x3F80)
theorem wit_attn : let j := unitJob attnS 4
    ∃ b l, Oldest 0 4 attnS j [] ∧ kvGood attnS 0 (nth 0 j.scal 0) = some (b, l) ∧ kStg j.word = false
    ∧ ((attnS.pageDescs 0 l (attnS.seqRec 0 b 0) (kLayer j.word)).all (·.valid)) = true ∧ (j.ten 1).xc = false
    ∧ tensorsOk attnS [(0x31, j.ten 0), (0x31, j.ten 3)] = true ∧ (j.ten 0).space = 0 ∧ (j.ten 3).space = 0
    ∧ (j.ten 0).count = l.d * (b.qrows * l.h * (j.ten 0).e 2 * b.count) ∧ (j.ten 3).count = 2 * (b.qrows * l.h * (j.ten 0).e 2 * b.count)
    ∧ eltVal (unitEnd attnS 4) 0 (j.ten 0) 0 = 0x3F800000 :=
  ⟨{ addr := 64, count := 1, lay := some ⟨16, 1, 32, true, false⟩, layers := 1, qrows := 1, look := 0 }, ⟨16, 1, 32, true, false⟩, by unfold Oldest; decide +kernel⟩
/-- A broadcast whose one participant is this chip. -/
def collU : State := let s := unitS live0 .cbrd (4 * 2 ^ 11) [vec 0x20 0 1, vec 0x20 4 1] [0, 0x3FFF, 0x3FFF, 0, 0, 0] (bytesAt 16 4 77)
  s.modCl 0 fun x => { x with win := [(0, 0x800000007FFF0000)], coll := { x.coll with setup := [(0, 2)] } }
theorem wit_coll_unit : let j := unitJob collU 5
    let k := j.collOf collU 0
    Oldest 0 5 collU j [] ∧ tensorsOk collU [(0x20, j.ten 0), (0x20, j.ten 1)] = true ∧ j.descs.length = 2 ∧ k.recs.map (·.chip) = [k.me] ∧ k.named = k.me
    ∧ cWire j.word = 4 ∧ j.segs = [] ∧ j.ents = [] ∧ j.undef = [] ∧ collU.collMsgs k = [] ∧ collU.setupAt k = 2
    ∧ eltVal (unitEnd collU 5) 0 (j.ten 0) 0 = 77 := by unfold Oldest; decide +kernel

/-! ### Registers, the system class, the host -/

theorem wit_in_service : InService live0 ∧ windowOff live0 0 0x300000 = some 0x300000 ∧ regAt 0x300000 = some (.merTick, 8)
    ∧ windowOff live0 0 0x300004 = some 0x300004 ∧ halfAt 0x200004 = none ∧ grdArray 0x200004 = false := by decide
theorem wit_regs_listed : (settingRegs.all fun x => match regAt x.1 with | some (_, n) => n == x.2.1 | none => false) = true
    ∧ (pageRegs.all fun x => match regAt (0x43F000 + x.1) with | some (_, n) => n == x.2.1 | none => false) = true
    ∧ (readOnlyRegs.all fun o => (regAt o).isSome) = true := by decide
/-- Partition 5 mapped to virtual function 6. -/
def part5 : State := live0.modPt 5 fun P => { P with defined := true, vf := 6 }
/-- The addresses of chapter 23: PART_KV_WMARK of partition 5, also in the window of virtual function 6; ring 2's CTRL. -/
theorem test_window_addresses : part5.partOfFn 6 = some 5 ∧ (regAt 0x405308 = some (.kvWmark 5, 8))
    ∧ windowOff part5 6 0x308 = some 0x405308 ∧ windowOff part5 6 0x1050 = some 0x85450 ∧ regAt 0x85450 = some (.ringCtrl 5 2, 4)
    ∧ regAt 0x119A108 = some (.taskFault 410, 8) := by decide
theorem test_wmark_write : regRead (done (exec (.registerWrite 6 0x308 8 0x0000900000004000) part5)) (.kvWmark 5) = 0x0000900000004000
    ∧ regRead (done (exec (.registerWrite 6 0x308 8 1) part5)) (.kvWmark 4) = 0x0000800000004000 := by decide
theorem wit_mrd : Issues 0xFC4 [fDst, fA] k0 (wd 0xFC4 (rrr 4 1 0)) (live0.setS k0 1 0x300000)
    ∧ regAt ((live0.setS k0 1 0x300000).regS k0 1).toNat = some (.merTick, 8) := by decide
theorem wit_mrd_none : regAt ((live0.setS k0 1 0x500000).regS k0 1).toNat = none ∧ grdArray 0x500000 = false ∧ touchesReg 0x500000 1 = false := by
  decide
theorem wit_mwr : Issues 0xFC5 [fA, fB] k0 (wd 0xFC5 (rrr 0 1 2)) ((live0.setS k0 1 0x200020).setS k0 2 0x123456)
    ∧ regRead (done (exec (.mwr k0 (wd 0xFC5 (rrr 0 1 2))) ((live0.setS k0 1 0x200020).setS k0 2 0x123456))) .lnkTimeout = 0x3456 := by decide
theorem wit_winw : let w := wd 0xFC0 (rrr 1 2 0 + 3)
    let s := (live0.setS k0 1 767).setS k0 2 0xFFFFFFFFFFFFFFFF
    Issues 0xFC0 [fDst, fA, (1, 0)] k0 w s ∧ mget 0 ((done (exec (.winw k0 w) s)).cl 767).win 3 = 0x800000007FFF7FFF := by decide
theorem wit_winw_absent : let w := wd 0xFC0 (rrr 1 2 0)
    let s := live0.setS k0 1 768
    Issues 0xFC0 [fDst, fA, (1, 0)] k0 w s ∧ (s.regS k0 1).toNat = 768 := by decide
theorem wit_tpark : let s := (mkC [0] [] []).setS k0 1 5
    Issues 0xFC2 [fA] k0 (wd 0xFC2 (rrr 0 1 0)) s ∧ (s.tasks.find? fun T => decide (T.id.hnd = s.regS k0 1)) = some tk := by decide
def parked1 : State := (((mkC [0, 0] [] []).setTasks [{ tk with st := .parked }]).stall a0 (.phase 3)).setS k0 1 5
theorem wit_tresume : Issues 0xFC3 [fA] k0 (wd 0xFC3 (rrr 0 1 0)) parked1 ∧ parked1.allRun { tk with st := .parked } = true
    ∧ (parked1.tasks.find? fun T => decide (T.id.hnd = parked1.regS k0 1)) = some { tk with st := .parked } := by decide
def start1 : State := (withDram (mkC [0] [] [])).setS k0 1 5
theorem wit_tstart : Issues 0xFC1 [fA] k0 (wd 0xFC1 (rrr 0 1 0)) start1
    ∧ ((start1.loadProg 0 0 1 0).1.toOption).isSome = true := by decide
def armed0 : State := live0.setHif { live0.hif with hbArmed := true }
theorem wit_hb : live0.served = true ∧ live0.hif.hostLost = false ∧ live0.hif.detached = false ∧ live0.hostHeld 63 = false := by decide
theorem wit_hb_expiry : armed0.served = true ∧ armed0.hif.hbArmed = true ∧ armed0.lost none = false := by decide
theorem wit_phb : let s := live0.modPt 63 fun P => { P with phbArmed := true, phbMs := 1 }
    s.served = true ∧ (s.pt 63).phbArmed = true ∧ (s.pt 63).phbMs ≠ 0 ∧ s.hostHeld 63 = false := by decide
theorem wit_detach : live0.nightwatch = true ∧ live0.hif.retainS ≠ 0 ∧ live0.lost none = false ∧ live0.lost (some 63) = false
    ∧ live0.allParked (fun _ => true) = true ∧ (mkC [0] [] []).allParked (fun _ => true) = false := by decide
theorem wit_detach_req : (live0.setHif { live0.hif with detachReq := true }).hif.detachReq = true
    ∧ ((live0.modPt 3 fun P => { P with detachReq := true }).pt 3).detachReq = true := by decide
theorem wit_retain : let s := (mkC [0] [] []).modPt 0 fun P => { P with hostLost := true }
    s.nightwatch = true ∧ s.lost (some 0) = true := by decide
theorem wit_vf_flr : part5.nightwatch = true ∧ part5.partOfFn 6 = some 5 := by decide
theorem wit_link_up : let s := live0.setPwr { live0.pwr with pins := { live0.pwr.pins with perstN := true } }
    s.pwr.rails = true ∧ s.pwr.pins.perstN = true := by decide
/-- Both apertures: GiB 3 of the device through the physical function, partition 0 through virtual function 1. -/
def apS : State := ((withDram live0).modPt 0 fun P => { P with vf := 1 }).setHif { live0.hif with apGib := 16 }
theorem wit_aperture : apS.aperturesOn 0 = true ∧ (apertureRuns apS 0 (3 * 2 ^ 30) 4).toOption = some [(3 * 2 ^ 30, 4)] ∧ apS.devOn (3 * 2 ^ 30) 4 = true
    ∧ apS.aperturesOn 1 = true ∧ (apertureRuns apS 1 8 4).toOption = some [(3 * 2 ^ 30 + 8, 4)] ∧ apS.mem.flaw = [] := by decide
theorem wit_aperture_prot : let s := apS.modPt 0 fun P => { P with extents := [(0, BitVec.ofNat 64 (2 ^ 63 + 2 ^ 62 + 3 * 2 ^ 10))] }
    (match apertureRuns s 0 (3 * 2 ^ 30) 4 with | .error b => b | .ok _ => false) = true ∧ s.aperturesOn 0 = true := by decide

/-! ### Entries and records -/

def eid : EntryId := { part := 0, ring := 1, seq := 0x00012345 }
/-- A ring of 4,096 entries with one fetched entry. -/
def ringOf (bytes : List Byte) (st : EntrySt) : Ring :=
  { Ring.reset with en := true, size := 12, cpl := 0x10000, fetch := 0x00012346, fresh := false, entries := [{ seq := 0x00012345, bytes := bytes, st := st }] }
def withRing (s : State) (r : Ring) : State := s.modPt 0 fun P => { P.setRing 1 r with defined := true }
/-- An entry: SEQ, TYPE, FLAGS and the bytes after them. -/
def entry (typ : Byte) (rest : List Byte) : List Byte := leBytes 4 0x00012345 ++ [typ, 0, 0, 0] ++ rest ++ List.replicate (56 - rest.length) 0
set_option maxRecDepth 8000 in
/-- Chapter 16's example: SIZE = 12, entry 0x0001_2345: slot 0x345, record at CPL + 0x68A0, GEN 1; 0x0001_3345 has GEN 0. -/
theorem test_record_example : let s := withRing live0 (ringOf (entry 0 []) .fetched)
    recordAt s eid = 0x10000 + 0x68A0 ∧ mget 0 (done (exec (.nopEntry eid) s)).mem.hostMem (0x10000 + 0x68A0 + 31) = 0x80
    ∧ hostVal (done (exec (.nopEntry eid) s)) (0x10000 + 0x68A0) 4 = 0x12345 ∧ 64 + 0x345 * 64 = 0xD180 ∧ genByte 0x00013345 12 = 0 := by decide
theorem wit_record : live0.hostHeld 0 = false ∧ (live0.setHif { live0.hif with hostLost := true }).hostHeld 0 = true := by decide
theorem wit_nop : ((withRing live0 (ringOf (entry 0 []) .fetched)).entryNow eid 0 .fetched).isSome = true := by decide
set_option maxRecDepth 8000 in
theorem wit_task_end : let s := (mkC [0] [] []).modCl 0 fun x => { x with seq := { x.seq with run := .ended } }
    s.findTask tid = some tk ∧ s.nightwatch = true ∧ tk.fault = none ∧ (s.cl 0).units = [] ∧ (s.pt 0).contained = false
    ∧ (done (exec (.taskEnd tid) s)).tasks = [] := by decide
def failT : Task := { tk with fault := some { status := 0x0101, tick := 0, cluster := 0 } }
theorem wit_task_fail : let s := ((mkC [0] [] []).setTasks [failT]).modPt 0 fun P => { P with contained := true }
    s.findTask tid = some failT ∧ s.nightwatch = true ∧ runOut (s.pt 0) 0x0101 (s.cl 0) = true ∧ (s.pt 0).contained = true := by decide
/-- A TASK entry of one cluster: program at 0, LEN 1, START 0. -/
def taskE : List Byte := entry 1 (leBytes 8 0 ++ leBytes 2 1 ++ leBytes 2 0 ++ leBytes 2 0 ++ leBytes 2 1 ++ leBytes 8 77)
def taskS (st : EntrySt) : State := ((withRing (withDram live0) (ringOf taskE st)).setCl 0 { Cluster.reset with owned := true, segmask := 15, segOn := 15 })
theorem wit_task : (taskS .fetched).entryNow eid 1 .fetched = some taskE ∧ (taskS .waiting).entryNow eid 1 .waiting = some taskE
    ∧ (taskS .fetched).parkAll 0 = false ∧ taskFieldsOk taskE = true ∧ (taskS .fetched).owned 0 = [0] ∧ (taskS .fetched).unallocated 0 = false
    ∧ (((taskS .fetched).loadProg 0 0 1 0).1.toOption).isSome = true := by decide
set_option maxRecDepth 8000 in
theorem test_task_start : let t := done (exec (.task eid) (taskS .fetched))
    (t.cl 0).seq.run = .running ∧ mget 0 (t.cl 0).seq.s 3 = 77 ∧ mget 0 (t.cl 0).seq.s 2 = 1 := by decide
theorem wit_task_wait : let s := (taskS .fetched).modCl 0 fun x => { x with task := some tid }
    (s.cl 0).task ≠ none ∧ s.entryNow eid 1 .fetched = some taskE ∧ (s.cl 0).cstate = .run := by decide
theorem wit_task_state : let s := (taskS .fetched).modCl 0 fun x => { x with cstate := .gated }
    (s.cl 0).cstate ≠ .run ∧ s.entryNow eid 1 .fetched = some taskE ∧ (taskS .fetched).parkAll 0 = false := by decide
theorem wit_step : let s := withRing (mkC [0] [] []) (ringOf (entry 2 []) .fetched)
    (s.entryNow eid 2 .fetched).isSome = true ∧ tk.tag = 0 ∧ (s.tasks.find? fun t => decide (t.tag = 0)) = some tk
    ∧ (withRing live0 (ringOf (entry 2 []) .fetched)).tasks = [] := by decide
def kvS (q : KvSeq) (st : EntrySt) : State := (withRing (withDram (mkC [0] [] [])) (ringOf (entry 5 (leBytes 4 9)) st)).modPt 0 fun P => { P with kvSeqs := [q] }
theorem wit_seq_end : ((kvS aSeq .fetched).entryNow eid 5 .fetched).isSome = true ∧ ((kvS aSeq .fetched).pt 0).seqOf 9 = some aSeq
    ∧ (kvS aSeq .fetched).batchServed 0 64 = false ∧ ((kvS aSeq .fetched).setTasks [{ tk with batches := [64] }]).batchServed 0 64 = true := by decide
theorem wit_seq_admit : let s := withRing (withDram (mkC [0] [] [])) (ringOf (entry 4 (leBytes 4 9 ++ [1, 0, 0, 0] ++ leBytes 4 0x10101010 ++ leBytes 20 0)) .fetched)
    (s.entryNow eid 4 .fetched).isSome = true ∧ s.pwr.quiescing = false ∧ s.pwr.dev = 0 ∧ (s.pt 0).seqOf 9 = none ∧ ((s.structRd 0 0 0).1.toOption).isSome = true := by
  decide
theorem wit_swap : let q := { aSeq with st := .swapped, out := [3, 4] }
    (kvS q .done).live = true ∧ (kvS q .done).hostHeld 0 = false ∧ ((kvS q .done).pt 0).seqOf 9 = some q ∧ (kvS q .done).pageRetired 0 3 = false := by
  decide
set_option maxRecDepth 8000 in
theorem wit_rings : let s := withRing live0 { ringOf (entry 0 []) .fetched with badSeq := some 0x00012346 }
    let r := (s.pt 0).ring 1
    s.nightwatch = true ∧ r.en = true ∧ r.stopped = false ∧ r.loc = false ∧ fieldAt (ringSlot s r 0x00012346) 0 4 ≠ 0x12346 := by decide

/-! ### The guard and the firmware -/

/-- The head of a record: VERSION 1, KIND, LENGTH, NONCE 0, COUNT. -/
def recHead (kind len count : Nat) : List Byte := leBytes 2 1 ++ leBytes 2 kind ++ leBytes 4 len ++ leBytes 16 0 ++ leBytes 4 count ++ List.replicate 68 0
/-- A record in the guard's buffer. -/
def grdS (bs : List Byte) : State := live0.setGrd { Grd.reset with buf := wrBytes [] 0 bs }
/-- LOG_ROLL: one operation of 4 bytes between the head and 264 bytes of signatures. -/
def rollRec : List Byte := recHead 1 364 1 ++ [11, 0, 4, 0] ++ List.replicate 264 0
/-- ENROL: a KEY_SET for each party. -/
def enrolRec : List Byte := recHead 2 376 2 ++ ([9, 0] ++ leBytes 2 140 ++ List.replicate 136 0) ++ ([9, 1] ++ leBytes 2 140 ++ List.replicate 136 0)
set_option maxRecDepth 20000 in
theorem wit_roll : recordOps rollRec = some [[11, 0, 4, 0]] ∧ rollRec.length = 364 ∧ fieldAt rollRec 8 16 = live0.grd.nonce.toNat
    ∧ live0.nightwatch = true ∧ live0.grd.busy = false ∧ live0.grd.locked = false ∧ live0.grd.enrolled = false := by decide
set_option maxRecDepth 20000 in
theorem wit_enrol : (recordOps enrolRec).isSome = true ∧ fieldAt enrolRec 2 2 = 2 ∧ live0.pwr.pins.enrolN = true := by decide
set_option maxRecDepth 20000 in
/-- A record of the wrong length field is not well formed. -/
theorem test_record_length : recordOps (recHead 1 365 1 ++ [11, 0, 4, 0] ++ List.replicate 264 0) = none := by decide
/-- The lengths of chapter 15's example: 96 + 12 + 12 + 16 * 8 + 264 = 512. -/
theorem test_op_lengths : (opLen 1, opLen 3, opLen 4, opLen 9) = (some 12, some 12, some 8, some 140) ∧ 96 + 12 + 12 + 16 * 8 + 264 = 512 := by decide
def gEntry : GLog := { seq := 1, kind := 0, aborted := false, tick := 0, nonce := 0, digest := 0, chain := 0, sigOp := [], sigCu := [] }
def gNext : GuardState := { GuardState.blank with
  parts := [(5, { defined := true, vf := 6, share := 16, kvQuota := 0, extents := [(0, 0x8000000000008000)] })], clusters := [(96, 5 + 64 * 15)] }
def gJob (st : GuardStep) (kind : Nat) : State :=
  live0.setGrd { Grd.reset with busy := true, job := some { step := st, kind := kind, next := gNext, affected := [], entry := gEntry } }
set_option maxRecDepth 20000 in
theorem wit_guard_written : (gJob .writing 0).nightwatch = true ∧ (gJob .writing 0).grd.job.isSome = true
    ∧ (done (exec .guardStateWritten (gJob .writing 0))).grd.job.isSome = true
    ∧ (done (exec .guardStateWritten (gJob .writing 0))).flash.guard1 = gNext := by decide
theorem wit_guard_quiesced : (gJob .quiescing 0).allParked (fun _ => true) = true ∧ (gJob .quiescing 2).pwr.pins.enrolN = true
    ∧ (gJob .quiescing 1).nightwatch = true ∧ mget 0 gNext.clusters 96 ≠ 0 ∧ (gNext.part 5).defined = true := by decide
theorem wit_guard_commit : (gJob .applied 0).nightwatch = true ∧ (gJob .applied 0).flash.guardCur = false
    ∧ (gJob .applied 0).grd.job.isSome = true := by decide
/-- Slot B valid, slot A active. -/
def fwS (a : Option ActSt) : State :=
  live0.setFw { Fw.reset with act := a.map fun st => { slot := true, persist := true, st := st, copy := FwSlot.delivered } }
theorem wit_fw_write : (fwS none).fwServed = true ∧ (fwS none).fw.write = none ∧ (fwS (some .deferred)).fw.act.isSome = true
    ∧ (fwSlotOf []).valid = false := by decide
theorem wit_slot_write : let s := live0.setFw { Fw.reset with write := some (true, FwSlot.delivered) }
    s.nightwatch = true ∧ s.pwr.boot = .ready ∧ s.fw.write.isSome = true := by decide
theorem wit_activate : (fwS none).nightwatch = true ∧ ((fwS none).flash.slot true).valid = true ∧ (fwS none).fw.active = false
    ∧ ((fwS none).flash.slot true).stateLo = 1 ∧ ((fwS none).flash.slot false).stateOut = 1 := by decide
theorem wit_act_state_version : let s := (fwS none).setFlash { (fwS none).flash with slotB := { FwSlot.delivered with stateLo := 2, stateHi := 3 } }
    (s.flash.slot true).valid = true ∧ (s.flash.slot s.fw.active).stateOut.toNat < (s.flash.slot true).stateLo.toNat := by decide
theorem wit_act : (fwS (some .deferred)).nightwatch = true ∧ (fwS (some .deferred)).emergency = false ∧ (fwS (some .parking)).actQuiet = true
    ∧ (fwS (some .switching)).served = true ∧ (fwS (some .switching)).nightwatch = false
    ∧ ((live0.setPwr { pwrUp with stage := 2 })).emergency = true := by decide

/-! ### Power -/

theorem wit_power_takes : Takes live0 := by decide
theorem wit_verdicts : let s := live0.modCl 3 fun x => { x with cstate := .off }
    clusterVerdict s .run 3 = .moves ∧ clusterVerdict s .gated 3 = .refuses stStateOrder ∧ clusterVerdict s .off 3 = .stays
    ∧ segmentVerdict s true 13 = .moves ∧ groupVerdict s .selfRefresh 63 = .moves := by decide
theorem wit_cluster_busy : clusterVerdict (mkC [0] [] []) .gated 0 = .refuses stClusterBusy
    ∧ clusterVerdict ((mkC [0] [] []).setTasks [{ tk with st := .parked }]) .off 0 = .refuses stClusterBusy
    ∧ clusterVerdict ((mkC [0] [] []).setTasks [{ tk with st := .parked }]) .retain 0 = .moves := by decide
set_option maxRecDepth 20000 in
/-- FIRST 767, COUNT 2 reaches past the last cluster. -/
theorem test_cmd_range : (done (exec (.clusterGate 767 2) live0)).pwr.result = stCmdRange
    ∧ (done (exec (.clusterGate 767 1) live0)).pwr.trans = [.cluster 767 .gated] := by decide
theorem wit_trans : let s := live0.setPwr { pwrUp with busy := true, trans := [.cluster 3 .run] }
    s.nightwatch = true ∧ s.pwr.trans = [.cluster 3 .run] ∧ s.pwr.quiescing = false ∧ s.groupsMoving = false := by decide
def drainS : State := (live0.setPwr { pwrUp with busy := true }).modGrp 63 fun v => { v with drain := some .off }
theorem wit_group_drain : drainS.nightwatch = true ∧ (drainS.grp 63).drain = some .off
    ∧ (drainS.modGrp 63 fun v => { v with drain := none }).groupsMoving = false ∧ drainS.pwr.trans = [] := by decide
theorem wit_fill : ((live0.modGrp 0 fun v => { v with filling := true }).grp 0).filling = true ∧ live0.nightwatch = true := by decide
theorem wit_quiesce : let s := live0.setPwr { pwrUp with quiescing := true, busy := true }
    s.nightwatch = true ∧ s.pwr.quiescing = true ∧ s.allParked (fun _ => true) = true
    ∧ ((mkC [0] [] []).setPwr s.pwr).allParked (fun _ => true) = false := by decide
theorem wit_device : Takes (live0.setPwr { pwrUp with dev := 1 }) ∧ Takes (live0.setPwr { pwrUp with dev := 2 }) ∧ live0.flashBusy = false := by decide
theorem wit_removal : let s := live0.setPwr { pwrUp with removing := true }
    s.live = true ∧ s.pwr.removing = true := by decide
/-- PWR_CAP reads back as written and acts within its bounds. -/
theorem test_cap_bounds : let t := fun v => done (exec (.pwrCapWrite v) live0)
    ((t 100).pwr.cap, (t 100).capW, (t 2000).pwr.cap, (t 2000).capW) = (100, 300, 2000, 1500) := by decide
/-- R425: at 1,200 W FLOOR is 175; 629 W is where it is 16. -/
theorem test_fixed_floor : fixedFloor 1200 = 175 ∧ fixedFloor 629 = 16 := by decide
theorem wit_cap : ((mkC [0] [] []).tasks.filter fun x => decide (x.st = .running)) = [tk] ∧ (mkC [0] [] []).est 0 none = 1250
    ∧ ((mkC [0] [] []).cl 0).cstate = .run := by decide
theorem wit_droop : live0.live = true ∧ (live0.cl 767).cstate = .run ∧ (live0.cl 767).droop = false := by decide
theorem wit_stage : let s := live0.setPwr { pwrUp with stage := 1 }
    s.nightwatch = true ∧ s.pwr.stage ≠ 0 ∧ (mget 0 s.pwr.sensors 255).toInt < 16 * 92 := by decide
theorem wit_trip : live0.pwr.rails = true ∧ live0.glb.fatalSet = false := by decide
/-- Table 9.5: a fastest group leaves its interval only below 92 degrees. -/
theorem test_refresh_table : (refreshNext .slow (84 * 16), refreshNext .fastest (92 * 16), refreshNext .fast (92 * 16), refreshNext .slow (83 * 16),
    refreshNext .fast (83 * 16)) = (.fast, .fastest, .fast, .slow, .fast) := by decide

/-! ### Stacked memory -/

/-- Chapter 9's example: device address 0x0F_9A4C_3A40. -/
theorem test_place_example : let a := 0x0F9A4C3A40
    (vaultOf a, rowOf a, bankOf a, columnOf a, dieOf a, a % 32) = (251, 841, 1, 10, 2, 0) ∧ groupOf a = 31 := by decide
theorem wit_dram : live0.live = true ∧ live0.devOn 0x0F9A4C3A40 4 = true ∧ (live0.modGrp 31 fun v => { v with st := .off }).devOn 0x0F9A4C3A40 4 = false ∧ (withDram live0).devOn 0 4 = true ∧ (withDram live0).mem.flaw = [] := by decide
def flawS (fs : List (Nat × Flaw)) : State := (withDram live0).setMem { (withDram live0).mem with flaw := fs }
theorem wit_flaw : ReadsSector 0 4 0 0 ∧ (flawS [(0, .single)]).devOn 0 4 = true ∧ (flawS [(0, .single)]).mem.field.failed = []
    ∧ (flawS [(0, .single)]).mem.poison = [] ∧ (done (exec (.narrowRead 0 4) (flawS [(0, .single)]))).mem.corrected = 1
    ∧ ((flawS [(0, .double), (3, .double)]).decodeBurst 0 fun d => d == 0).1.mem.poisoned = 2 := by
  refine ⟨⟨?_, ?_, ?_, ?_, ?_⟩, ?_, ?_, ?_, ?_, ?_⟩ <;> decide
theorem wit_atom : (withDram live0).devOn 8 1 = true ∧ mget 0 (done (exec (.memoryAtomic 8 0 0 [5, 0, 0, 0] false) (withDram live0))).mem.dram 8 = 5 := by decide
theorem wit_bag : (apS.pt 0).defined = true ∧ ((apS.modPt 0 fun P => { P with defined := true }).pt 0).defined = true := by decide
theorem wit_groups : ((withDram live0).grp 0).st = .active ∧ (live0.modGrp 63 fun v => { v with st := .off }).groupOn 63 = false := by decide
theorem wit_spad_scrub : let s := live0.setCl 767 { Cluster.reset with segOn := 15, scrubLine := 24575 }
    (s.cl 767).cstate = .run ∧ (s.cl 767).segOn.getLsbD 3 = true ∧ ((done (exec (.scratchpadScrub 767) s)).cl 767).scrubLine = 0
    ∧ (live0.cl 0).segOn = 0 ∧ (s.cl 767).spadFlaw = [] := by decide

/-! ### Images, log and ports -/

theorem wit_cfg_write : live0.nightwatch = true ∧ live0.cfg.write = none ∧ live0.cfg.queue = [] ∧ imgHead [] = false := by decide
theorem wit_field : let s := live0.setCfg { Cfg.reset with dirty := true }
    s.nightwatch = true ∧ s.cfg.dirty = true ∧ s.glb.cfgDefaulted = false := by decide
theorem wit_image_done : let s := live0.setCfg { Cfg.reset with write := some CfgImage.blank }
    s.cfg.write.isSome = true ∧ (done (exec .imageWriteDone s)).flash.chosen = true ∧ s.flash.chosen = false := by decide
def trcS : State := live0.setLog { Log.reset with en := true, mask := ~~~0 }
theorem wit_trace : trcS.served = true ∧ trcS.log.mask.getLsbD 0xF3 = true ∧ Recording trcS ∧ (done (exec (.traceMark 3 0x1234) trcS)).log.wptr = 1
    ∧ trcS.devOn 0 32 = true := by decide
theorem wit_trace_full : let s := trcS.setLog { trcS.log with stopFull := true, wptr := 524288 }
    s.switching = false ∧ ¬Recording s := by decide
theorem wit_trace_switch : let s := (fwS (some .switching)).setLog { Log.reset with en := true, mask := ~~~0 }
    s.served = true ∧ s.switching = true ∧ s.log.en = true := by decide
theorem wit_trace_off : live0.log.en = false ∧ live0.served = true := by decide
theorem wit_release : let s := live0.modPt 5 fun P => { P with contained := true, heldEnds := [tid] }
    s.nightwatch = true ∧ (s.pt 5).contained = true := by decide
/-- Port 7 in a state, its neighbour found, lanes lit. -/
def portS (st : PortSt) : State := live0.modPo 7 fun p => { p with
  st := st, lanes := 2, lit := 2, expectChip := 9, expectPort := 8, foundChip := 9, foundPort := 9, mismatch := true }
def ident9 : Ident := { chip := 9, port := 8, slot := 0, lpl := 2, lanes := 2 }
theorem wit_ident : let s := (portS .training).modPo 7 fun p => { p with identLast := some ident9, identCount := 2 }
    s.live = true ∧ (s.po 7).st = .training ∧ (s.po 7).lanes ≠ 0 := by decide
theorem wit_port_in : PortIn (portS .active) 7 [.active] ∧ PortIn (portS .down) 7 [.down, .dark] ∧ PortIn (portS .quarantine) 7 [.quarantine, .active] := by decide
theorem wit_light : let s := (portS .dark).modPo 7 fun p => { p with darkNote := true }
    PortIn s 7 [.dark] ∧ (s.po 7).darkNote = true ∧ (s.po 7).lit ≠ 0 := by decide
/-- A flit of a KIND with a SEQ, ACK 4,095, one dedicated credit of channel 0 and two shared ones, and its CRC. -/
def flitOf (kind seq : Nat) (nak : Bool) (slots : BitVec 1920) (fixed : Nat) : RawFlit :=
  let h := BitVec.ofNat 64 (2 ^ 50 + 2 * 2 ^ 40 + (if nak then 2 ^ 28 else 0) + 4095 * 2 ^ 16 + kind * 2 ^ 12 + seq)
  { head := h, slots := slots, crc := crc32c (leBytes 8 h.toNat ++ leBytes 240 slots.toNat), fixed := fixed }
theorem wit_flit_good (kind seq : Nat) (nak : Bool) (slots : BitVec 1920) (fixed : Nat) : GoodCrc (flitOf kind seq nak slots fixed) := rfl
theorem wit_flit_bad (h : BitVec 64) (x : BitVec 1920) :
    ¬GoodCrc { head := h, slots := x, crc := crc32c (leBytes 8 h.toNat ++ leBytes 240 x.toNat) + 1, fixed := 1 } := by
  unfold GoodCrc
  generalize crc32c _ = y
  bv_omega
theorem wit_kinds : ((List.range 5).map fun k => (flitKind (flitOf k 7 true 0 0)).toNat) = [0, 1, 2, 3, 4] ∧ flitSeq (flitOf 1 7 true 0 0) = 7
    ∧ flitAck (flitOf 1 7 true 0 0) = 4095 ∧ flitNak (flitOf 1 7 true 0 0) = true ∧ flitNak (flitOf 1 7 false 0 0) = false := by decide
/-- A flit on an ACTIVE, a training and a quarantined port, and on one without lanes. -/
theorem wit_flit_ports : (portS .active).live = true ∧ ((portS .active).po 7).lanes ≠ 0 ∧ ((portS .active).po 7).lit ≠ 0
    ∧ ((portS .training).po 7).st ≠ .active ∧ ((portS .quarantine).po 7).lanes ≠ 0 ∧ (live0.po 7).lanes = 0 := by decide
/-- The fields of the first slots: an identity (Table 13.13) and a beacon (Table 13.15). -/
theorem test_ident_flit : identOf (flitOf 3 0 false (BitVec.ofNat 1920 (9 * 2 ^ 50 + 8 * 2 ^ 44 + 5 * 2 ^ 41 + 2 * 2 ^ 33 + 2 * 2 ^ 26)) 0) =
    { chip := 9, port := 8, slot := 5, lpl := 2, lanes := 2 } := by decide +kernel
theorem test_beacon_flit : beaconOf (flitOf 2 0 false (BitVec.ofNat 1920 (5000000400 + 5000000010 * 2 ^ 64 + 310 * 2 ^ 128 + 2 ^ 191 + 2 ^ 184)) 0) =
    { tx := 5000000400, echo := 5000000010, hold := 310, root := 0, depth := 0, locked := true, fmt := 1, fracTx := 0, fracHold := 0
      upRoot := 0, upValid := false, upDepth := 0 } := by decide +kernel
theorem wit_nak : let s := (portS .active).modPo 7 fun p => { p with replay := [{ seq := 5, pkts := [], slots := 0 }] }
    PortIn s 7 [.active] ∧ (s.po 7).replay ≠ [] ∧ (∀ f ∈ (s.po 7).replay, f.seq ≠ flitAck (flitOf 0 0 true 0 0)) ∧ (s.po 7).txq = [] := by decide
theorem wit_retrain : (portS .down).nightwatch = true ∧ (portS .down).badPort 7 = false ∧ (portS .down).litTarget 7 = 2 := by decide
theorem wit_assign : live0.lnk.chip = 0x3FFF ∧ live0.grd.enrolled = false ∧ live0.grd.locked = false ∧ live0.nightwatch = true := by decide
theorem wit_adopt : (portS .quarantine).nightwatch = true ∧ mwf 0x3FFFFFC0 (portS .quarantine).lnk.routes = true
    ∧ ((portS .quarantine).po 7).mismatch = true := by decide
theorem wit_lanes : live0.lnk.busy = false ∧ (live0.setLnk { live0.lnk with busy := true }).lnk.busy = true
    ∧ (live0.setLnk { live0.lnk with busy := true, pendMode := [0x50] }).lnk.pendMode = 0x50 :: [] := by decide
/-- Lanes that still train, and lanes whose last flit is not acknowledged. -/
theorem wit_at_lanes : AtLanes (portS .active |>.po 7) ∧ AtLanes (live0.po 8) ∧ ¬AtLanes { (portS .active).po 7 with rising := true }
    ∧ ¬AtLanes { (portS .active).po 7 with fading := some 5 } := by
  refine ⟨?_, ?_, ?_, ?_⟩ <;> unfold AtLanes <;> decide
theorem wit_unheld : Unheld live0 ∧ ¬Unheld (fwS (some .switching)) ∧ (fwS (some .switching)).switching = true := by decide
/-- R312's example: TX 5,000,000,400, ECHO 5,000,000,010, HOLD 310, received at 5,000,000,478: one tick behind. -/
def beaconEx : BeaconMsg :=
  { tx := 5000000400, echo := 5000000010, hold := 310, root := 0, depth := 0, locked := true, fmt := 1, fracTx := 0, fracHold := 0, upRoot := 0
    upValid := false, upDepth := 0 }
theorem test_beacon_example : offset32 beaconEx 5000000478 = 32 := by decide
theorem wit_beacon : let s := ((portS .active).setClk { Clk.reset with merTick := 5000000478 }).setMer { Mer.reset with parent := 7 }
    let s1 := s.modPo 7 fun p => { p with bSeen := true, bRoot := 0 }
    s1.parentPort = some 7 ∧ s.mer.parent.toNat = 7 ∧ (s.po 7).st = .active := by decide

/-! ### Packets, messages, power-up and errors -/

/-- Chip 3 with partition 0 in memory, port 7 ACTIVE, an admission entry for partition 0 of chip 9 and a route to it. -/
def admE : Word := BitVec.ofNat 64 (2 ^ 63 + 2 ^ 62 + 2 ^ 61 + 9 * 2 ^ 46)
def remS : State := let s := (withDram live0).modPo 7 fun p => { p with st := .active, lit := 2, lanes := 2, rxSeq := 4095 }
  (s.setLnk { s.lnk with chip := 3, routes := [(9, 0x80000000 + 7 * 64 + 63 * 2 ^ 12 + 63 * 2 ^ 18 + 63 * 2 ^ 24)], reqs := [{ tag := 5, chip := 9, owner := .job 0 2 0 1, more := 0 }] }).setGrd
    { s.grd with cur := { s.grd.cur with admTab := [(0, admE)] } }
def pkOf (typ : BitVec 8) (off : Nat) : Packet := { mkPacket typ 0 9 3 with len := 1, addr := machineAddr 0 3 off, data := [0x0807060504030201] }
theorem wit_remote : PortIn remS 7 [.active] ∧ remS.lnk.chip ≠ 0x3FFF ∧ Sound remS (pkOf tyRead 64) ∧ Permits admE (pkOf tyRead 64) false 64 32
    ∧ ¬Permits admE (pkOf tyRead 64) true (2 ^ 30) 32 ∧ (remS.landing (pkOf tyRead 64) false 64 32).toOption = some (.part 0) := by decide
theorem wit_remote_route : remS.routeOf 9 0 0 = .ok (7, 2) := by rfl
theorem wit_remote_no_route : (mget 0x3FFFFFC0 remS.lnk.routes 8).getLsbD 31 = false ∧ ¬PortIn remS 8 [.active] := by decide
theorem wit_remote_lands : (remS.landing (pkOf tyWrite 64) true 64 32).toOption = some (.part 0) ∧ remS.runsAt (.part 0) 64 32 = [(3 * 2 ^ 30 + 64, 32)]
    ∧ remS.devOn (3 * 2 ^ 30 + 64) 32 = true ∧ remS.mem.flaw = [] ∧ (remS.landing (pkOf tyAtomic 64) true 64 32).toOption = some (.part 0) := by decide
theorem wit_remote_closed : let s := remS.modGrp 1 fun v => { v with st := .off }
    (s.landing (pkOf tyRead 64) false 64 32).toOption = some (.part 0) ∧ s.devOn (3 * 2 ^ 30 + 64) 32 = false := by decide
theorem wit_remote_contained : ((remS.modPt 0 fun P => { P with contained := true }).pt 0).contained = true
    ∧ (remS.pt 0).mappedRange (2 ^ 30) 32 = false := by decide
theorem wit_gather : (remS.landing (pkOf tyGather 64) false 64 0).toOption = some (.part 0) ∧ (remS.landing (pkOf tyGather 64) false (2 ^ 30) 4).toOption ≠ some (.part 0) := by decide
theorem wit_response : remS.lnk.reqs.find? (fun x => decide (x.tag = 5)) = some { tag := 5, chip := 9, owner := .job 0 2 0 1, more := 0 }
    ∧ (((withJob (mkC [0] [] []) 2).cl 0).unit 2).find? (fun y => decide (y.id = 0)) ≠ none := by decide
/-- A WRITE of one granule in a flit of its own. -/
def wrFlit : RawFlit := flitOf 1 4095 false ((headerBits (pkOf tyWrite 64)).setWidth 1920 + (0x0807060504030201 : BitVec 1920) <<< 256) 0
theorem wit_flit_packet : flitKind wrFlit = 1 ∧ flitSeq wrFlit = (remS.po 7).rxSeq ∧ (remS.po 7).rxPart = [] ∧ (remS.po 7).lanes ≠ 0
    ∧ (pkOf tyWrite 64).typ = 0x02 ∧ ((List.range 15).all fun i => decide (wrFlit.slots.extractLsb' (128 * i) 128 = nth 0 (packetSlots (pkOf tyWrite 64)) i)) = true
    ∧ (slotPackets [] wrFlit) = ([], [pkOf tyWrite 64]) := by decide +kernel
theorem wit_framed : Framed (pkOf tyWrite 64) ∧ (pkOf tyWrite 64).data.length ≤ 6 := by unfold Framed; decide
/-- The link back to the sender of a channel-13 READ is below level 3, and the page is not coded. -/
theorem wit_coded : remS.codedLink { pkOf tyRead 64 with vc := 13 } = false ∧ remS.codedAt 0 64 = none := by decide
theorem wit_flits : (remS.po 7).rxSeq = 4095 ∧ ((0 : BitVec 12) - (remS.po 7).rxSeq).toNat = 1 ∧ ((2047 : BitVec 12) - (remS.po 7).rxSeq).toNat = 2048 := by decide
/-- A collective message of partition 0. -/
def seg0 : Segment := { part := 0, src := 9, handle := 0, num := 1, seg := 0, rank := 0, wire := 0, count := 0, xlen := 0, book := 0, check := 0, index := 0, data := [] }
/-- Partition 0 has a collective table of one VALID entry at address 0, whose list of chips 3 and 9 lies at 64. -/
def collS : State := let s := remS.modPt 0 fun P => { P with collBase := BitVec.ofNat 64 (2 ^ 48) }
  s.partWr 0 0 (leBytes 4 2 ++ leBytes 4 1 ++ leBytes 8 64 ++ List.replicate 48 0 ++ leBytes 2 3 ++ List.replicate 14 0 ++ leBytes 2 9 ++ List.replicate 14 0)
set_option maxRecDepth 8000 in
theorem wit_coll_entry : (collS.collEntry 0 0).isSome = true ∧ (remS.collEntry 0 0) = none ∧ PortIn collS 7 [.active] ∧ (collS.pt 0).contained = false := by decide
set_option maxRecDepth 8000 in
theorem wit_coll_group : (collS.collGroup 0 0).map (fun rs => rs.map (·.chip)) = some [3, 9] := by decide
theorem wit_coll_head : (CollMsg.stop seg0 stChipLost).key = (0, 0, 0, 1) ∧ remS.collTarget 0 0 0 = none := by decide
theorem wit_sys : let s := remS.modPt 0 fun P => { P with kvSeqs := [{ aSeq with layout := 0x02000000, st := .admitted, cursor := 40 }] }
    s.nightwatch = true ∧ (s.po 7).st = .active ∧ s.pwr.removing = false ∧ ((s.pt 0).seqOf 9).isSome = true ∧ (s.pt 0).seqOf 8 = none
    ∧ s.batchServed 0 64 = false ∧ (kvLayout 0x02000000).isSome = true := by decide
/-- A plan whose record names chip 9 as its one source. -/
def plan0 : ReshPlan :=
  { entry := eid, count := 1, layout := 0x02000000, layers := 1, next := 0, addr := 0
    cur := { tseq := 9, prio := 0, hfirst := 0, n := 40, ranges := [(9, 4, 0, 40)] }, groups := [], batch := 64, asked := true, got := []
    ready := false, jobs := [], phase := 0, todo := [], wait := false, rx := [], pois := [], status := 0 }
def planS : State := remS.modPt 0 fun P => { P with reshPlan := some plan0 }
theorem wit_plan : (planS.pt 0).reshPlan = some plan0 ∧ (planS.pt 0).reshNo = 0 ∧ plan0.cur.ranges[0]? = some (9, 4, 0, 40)
    ∧ plan0.cur.ranges[1]? = none ∧ ((done (exec (.failureNotice 9) planS)).pt 0).reshFailed = 1 := by decide
theorem wit_notice : remS.live = true ∧ (∀ q ∈ remS.lnk.reqs, q.chip ≠ 8) ∧ ¬(∀ q ∈ remS.lnk.reqs, q.chip ≠ 9) := by decide
/-- A module in its slot, charged, and a boot that finds segment 2 of cluster 1 and cluster 2 bad. -/
def slotS : State := done (exec .bladeMate State.reset)
def bootE : BootEnv := { badCores := [7], badClusters := [2], badSegs := [(1, 2)], badGroups := [], badPorts := [3], badOptical := [], slotStraps := 5, enrolN := true, identityOk := true, badRows := [], nonce := 1, bootMs := 900 }
theorem wit_power_up : slotS.pwr.pins.present = true ∧ slotS.pwr.charged = true ∧ slotS.pwr.pins.enable = false ∧ slotS.pwr.rails = false
    ∧ slotS.pwr.trip = false ∧ slotS.fw.write = none ∧ slotS.cfg.write = none ∧ (slotS.flash.slot slotS.flash.bootSlot).valid = true := by decide
theorem wit_serves : Serves bootE ∧ ¬Serves { bootE with badCores := [0, 1, 2, 3, 4, 5, 6, 7] } := by
  refine ⟨⟨⟨0, by decide⟩, ⟨0, by decide, ?_⟩, ⟨0, by decide⟩⟩, ?_⟩
  · rintro (⟨x, hx, h⟩ | h)
    · simp [bootE] at hx; subst hx; exact absurd h (by decide)
    · obtain ⟨x, hx, h, -⟩ := h 0 (by decide); simp [bootE] at hx; subst hx; exact absurd h (by decide)
  · rintro ⟨h, -⟩; revert h; decide
theorem wit_recovery : let s := slotS.setFlash { slotS.flash with slotA := { slotS.flash.slotA with valid := false }, slotB := { slotS.flash.slotB with valid := false } }
    (s.flash.slot s.flash.bootSlot).valid = false ∧ (s.flash.slot (!s.flash.bootSlot)).valid = false := by decide
theorem wit_cut : live0.pwr.rails = true ∧ slotS.pwr.rails = false := by decide
theorem wit_boot : let s := live0.setPwr { pwrUp with boot := .booting }
    s.live = true ∧ s.pwr.boot = .booting ∧ s.badPort 3 = false ∧ s.litTarget 3 ≠ 0 ∧ s.litTarget 7 = 0 := by decide
theorem wit_class2 : (mkC [0] [] []).live = true ∧ ((mkC [0] [] []).cl 0).owned = true ∧ ((mkC [0] [] []).pt 0).contained = false
    ∧ (mkC [0] [] []).findTask tid = some tk ∧ tk.fault = none ∧ live0.live = true ∧ (live0.cl 0).owned = false ∧ (part5.pt 5).defined = true := by decide
theorem wit_corrected : let s := live0.setLog { Log.reset with rise := [(65536 * 4 + 9, { count := 2, addr := 64 })] }
    (mget Rise.zero s.log.rise (65536 * 4 + 9)).count = 2 ∧ (mget Rise.zero s.log.rise (65536 * 5 + 9)).count = 0 := by decide
theorem wit_fatal : live0.live = true ∧ 0 ∉ live0.glb.badCores ∧ stErrMesh ∈ class3Codes ∧ (remS.po 7).st = .active := by decide

/-! ### Faults of scalar accesses and of words, holds, passes, locks, flits -/

/-- SP 2, a misaligned address, one outside the extents, one past the window. -/
theorem wit_access_faults : let s := withDram (mkC [0] [] [])
    AccessFaults 0 s (BitVec.ofNat 64 (2 * 2 ^ 34)) 0 8 8 stPrivilege ∧ AccessFaults 0 s 0 4 8 8 stAlign
    ∧ AccessFaults 0 s (BitVec.ofNat 64 (2 ^ 34)) 0x40000000 8 8 stAddrRange ∧ AccessFaults 0 s 0 0x3FFF80 8 8 stWindowBound := by
  refine ⟨Or.inl (by decide), Or.inr (Or.inl (by decide)), Or.inr (Or.inr (Or.inl ⟨by decide, by decide, ⟨0, by decide, by decide⟩, rfl⟩)),
    Or.inr (Or.inr (Or.inr (by decide)))⟩
theorem test_access_faults : let s := withDram (mkC [wd 0x010 (rrr 4 1 0)] [] [(1, 4)])
    (done (exec (.ld a0 (wd 0x010 (rrr 4 1 0))) s)).cl 0 = (s.faultAt a0 (wd 0x010 (rrr 4 1 0)) stAlign).cl 0 := by decide
/-- A reserved bit of NOP's word, SP 3, COND 6, event number 16. -/
theorem wit_word_fields : badBits (wd 0x047 1) [] = true ∧ fld (wd 0x010 (3 * 2 ^ 34)) 35 34 = 3 ∧ 6 ≤ fld (wd 0x008 (6 * 2 ^ 32)) 34 32
    ∧ 15 < wA (wd 0x012 (rrr 4 16 0)) ∧ (plainFields.all fun r => decide (r.1 ∈ instrRows.map (·.1))) = true
    ∧ (mkC [wd 0x047 1] [] []).ready a0 (wd 0x047 1) = true := by decide
/-- DMOV with a channel but E clear, and a matrix instruction with HINT in a descriptor. -/
theorem wit_expert : let w := wd 0x1C0 (rrr 0 1 0 + 3 * 2 ^ 27)
    let s := mkC [w] [(0, dramVec 0x20 0 1), (1, vec 0x20 4 1)] []
    s.ready a0 w = true ∧ wE w = false ∧ (dmovForm a0 w s).chk.ill = false ∧ (dmovForm a0 w s).chk.priv = false
    ∧ ((expertFields 0x1C0).any fun h => decide (fld w h.1 h.2 ≠ 0)) = true ∧ ((dmovForm a0 w s).os.all fun o => decide (o.t.space ≠ 2)) = true
    ∧ (done (exec (.dmov a0 w) s)).cl 0 = (s.faultAt a0 w stExpertField).cl 0 := by decide
theorem wit_expert_desc : expertDesc (vec 0x20 0 1 ||| BitVec.ofNat 256 (2 ^ 49)) ∧ ¬expertDesc (vec 0x20 0 1) := by unfold expertDesc; decide
/-- The hold of a gear change; a droop event and a boundary that it puts off. -/
def holdS : State := (mkC [0] [] []).setClk { Clk.reset with changing := true, holdAt := 0, holdEnd := 5 }
theorem wit_holding : holdS.clk.holding = true ∧ holdS.live = true ∧ (done (exec (.droopDetect 0) holdS)).clk.lateDroops = [0]
    ∧ (done (exec (.phaseBoundary tid) holdS)).clk.latePhases = [tid] := by decide
theorem wit_after_hold : let s := (mkC [0] [] []).setClk { Clk.reset with lateDroops := [0] }
    s.clk.holding = false ∧ (s.afterHold.cl 0).droop = true ∧ ((mkC [0] [] []).setClk { Clk.reset with latePhases := [tid] }).clk.holding = false := by decide
theorem wit_power_busy : let s := live0.setPwr { pwrUp with busy := true }
    s.served = true ∧ s.pwr.busy = true ∧ State.reset.served = false ∧ (powerRows 767 1 15 2).length = 14 := by decide
/-- A pass over one enabled ring of partition 0 whose tail is its fetch point. -/
theorem wit_pass : let s := withRing live0 (ringOf (entry 0 []) .fetched)
    s.nightwatch = true ∧ (s.pt 0).evHeld = [] ∧ s.hif.detachReq = false ∧ (s.pt 0).detachReq = false ∧ s.passParts = [0]
    ∧ ((s.pt 0).ring 1).en = true := by decide
theorem wit_serves_ring : let s := (withRing live0 (ringOf (entry 0 []) .fetched)).setCl 0 { Cluster.reset with owned := true }
    s.fetches 0 = true ∧ ((s.pt 0).ring 1).stopped = false ∧ ((s.pt 0).ring 1).loc = false ∧ (s.pt 0).contained = false ∧ s.grd.locked = false := by decide
theorem wit_retain_all : let s := (mkC [0] [] []).setHif { (mkC [0] [] []).hif with hostLost := true }
    s.nightwatch = true ∧ s.lost none = true ∧ live0.lost none = false := by decide
/-- A contained partition forbids the change; a partition that the change maps anew, to function 6. -/
theorem wit_guard_blocked : ((live0.modPt 5 fun P => { P with contained := true }).guardBlocked gNext [5]) = true ∧ live0.guardBlocked gNext [5] = false
    ∧ (live0.grd.cur.part 5).defined = false ∧ (gNext.part 5).vf = 6 ∧ gNext.vfPart 6 = some 5 ∧ live0.tasks = [] := by decide
/-- A packet of type 0x05 in a flit of its own. -/
def resvFlit : RawFlit := flitOf 1 4095 false ((headerBits (pkOf 0x05 64)).setWidth 1920 + (0x0807060504030201 : BitVec 1920) <<< 256) 0
theorem wit_reserved_type : (slotPackets [] resvFlit) = ([], [pkOf 0x05 64]) ∧ Framed (pkOf 0x05 64) ∧ (0x05 : BitVec 8) ∉ 0x20 :: 0x30 :: packetRows.map (·.1) := by
  unfold Framed; decide +kernel
theorem wit_no_chip : remS.routeOf 0x3FFF 0 0 = .error stChipLost := by rfl
/-- Fields survive the flits that carry them. -/
theorem test_flit_round (h : FlitHdr) : identOf (mkFlit h (identSlots ident9)) = ident9 ∧ beaconOf (mkFlit h (beaconSlots beaconEx)) = beaconEx := by
  simp only [identOf, beaconOf, mkFlit]; decide +kernel
/-- The matrix job above, escalating below A16, goes on in a kept bank whose entry it saturates: its run repeats one format wider. -/
def escS : State :=
  let s := (tileS .tmm 0x01).modCl 0 fun x =>
    { x.setUnit 0 ((x.unit 0).map fun j => { j with esc := true, fmt := 0, word := j.word ||| 0x1000000 }) with spad := [(4096, 5), (8320, 1), (16512, 130)] }
  s.modCl 0 fun x => x.setCore 0 { MCore.reset with
    bank0 := { Bank.reset with st := .active, held := true, ents := [(0, { q := 0x80000000, tag := mkTag false false 0 true 130 })] } }
theorem wit_repeats : NextTile 0 0 escS (unitJob escS 0) 0 ∧ (unitJob escS 0).esc = true
    ∧ 0 < (runTile (escS.cl 0) (unitJob escS 0) 0 0 (((escS.cl 0).mcore 0).bank 0).ents []).sats
    ∧ mget 0 (unitJob (done (exec (.tileEnd 0 0) escS)) 0).runFmt 0 = 2 := by
  unfold NextTile; decide +kernel
theorem wit_coll_touch : collS.mem.flaw = [] ∧ collS.mem.poison = [] := by decide
theorem wit_gear_trans : let s := live0.setPwr { pwrUp with busy := true, trans := [.gear 2] }
    s.nightwatch = true ∧ (done (exec .unitTransitionDone s)).clk.gear = 2 ∧ (done (exec .unitTransitionDone s)).pwr.busy = false := by decide

/-! ### Well-formed commands, and examples of the spec -/

/-- The one check of `Instr.wellFormed`: a word of SUB in the row ADD is refused, one of ADD is not. -/
theorem test_ill_formed : Instr.wellFormed (.add a0 (wd 0x001 0)) = false ∧ Instr.wellFormed (.add a0 (wd 0x000 0)) = true
    ∧ Instr.wellFormed (.mwr k0 (wd 0xFC4 0)) = false ∧ Instr.wellFormed .heartbeat = true := by decide
/-- No row of the table has bits, so no word spells a command. -/
theorem test_no_words : decodeTableWord 64 0 = none ∧ (live0.withFetchWord 64 0).pending = [] := by decide
/-- Participants of the example after R317. -/
def treeRecs : List CRec := [(1, 0, 0), (4, 0, 0), (6, 0, 0), (9, 1, 0), (0xC, 1, 0), (0x82, 2, 1), (0x87, 2, 1), (0x8B, 3, 1), (0x8E, 3, 1)].map
  fun x => { chip := x.1, board := x.2.1, group := x.2.2, tag := 0 }
/-- Table 14.3, j = 0. -/
theorem test_tree_0 : let t := mkTree treeRecs false 0x8B 0
    (t.children 9, t.children 1, t.children 0x82, t.children 0x8B) = ([0xC], [4, 6, 9], [0x87], [1, 0x82, 0x8E]) ∧ t.root = 0x8B := by decide
/-- Table 14.3, j = 1. -/
theorem test_tree_1 : let t := mkTree treeRecs false 0x8B 1
    (t.children 4, t.children 0xC, t.children 0x87, t.children 0x8B) = ([1, 6], [4, 9], [0x82], [0xC, 0x87, 0x8E]) := by decide
/-- Chapter 13's machine address of partition address 0x12_3456_7800 on chip 0x0A3C. -/
theorem test_machine_address : machineAddr 0 0x0A3C 0x1234567800 = 0x0028F01234567800 := by decide
/-- The example after R417, in milliwatts: B is 620 W, grants 345.6 W and 274.4 W. -/
def capDemands : List PartDemand := [{ part := 1, demand := 345600, share := 3, grant := 0 }, { part := 2, demand := 480000, share := 1, grant := 0 }]
theorem test_cap_example : (shareOut 65 620000 capDemands).map (fun p => (p.part, p.grant)) = [(1, 345600), (2, 274400)] := by decide +kernel

end Sys2Proof.Machine
end

section
/-! PROOFS. The invariants at reset (R9, R488), and the scalar stores (R153, R197). -/

namespace Sys2Proof.Machine

/-! ### Reset -/

/-- No byte memory lists a byte at reset. -/
theorem State.reset_canon : State.reset.Canon := by
  refine ⟨⟨?dram, ?host, ?sram⟩, fun c => ?spad⟩
  case dram => exact mwf_nil 0
  case host => exact mwf_nil 0
  case sram => exact mwf_nil 0
  case spad => exact mwf_nil 0

/-- The device is ON, the gears are G0, and the chip is no root and lies at depth 0. -/
theorem State.reset_legal : State.reset.Legal := by
  refine ⟨?pwr, ?clk, ?mer⟩
  case pwr => show (0 : BitVec 2) ≠ 3; decide
  case clk => exact ⟨Nat.zero_le 2, Nat.zero_le 2, Nat.zero_le 2⟩
  case mer => exact ⟨fun h => absurd h (by decide), by decide⟩

/-- Settles O5: every memory is empty, and each bounded register has the value that its reset table gives it. -/
theorem resetInvariants : Obligations.ResetInvariants := ⟨State.reset_canon, State.reset_legal⟩

/-! ### Immediates and bytes -/

theorem sextNat_fld_eq_toInt (w : Word) : sextNat (fld w 31 0) 32 = (w.setWidth 32).toInt := by
  have hv : fld w 31 0 = (w.setWidth 32).toNat := by simp [fld, bitsOf]
  have hlt : (w.setWidth 32).toNat < 2 ^ 32 := (w.setWidth 32).isLt
  have hm : ((w.setWidth 32).toNat : Int) % 2 ^ 32 = (w.setWidth 32).toNat := by omega
  rw [BitVec.toInt_eq_msb_cond, BitVec.msb_eq_getLsbD_last, hv, sextNat, BitVec.testBit_toNat, hm]
  rfl

/-- IMM is the low half of the word, sign-extended (R150). -/
theorem wImm_eq_signExtend (w : Word) : wImm w = (w.setWidth 32).signExtend 64 := by
  rw [wImm, sextNat_fld_eq_toInt]; rfl

theorem leBytes_getElem (n v i : Nat) (h : i < (leBytes n v).length) : (leBytes n v)[i] = BitVec.ofNat 8 (v >>> (8 * i)) := by
  induction n generalizing v i with
  | zero => simp at h
  | succ n ih =>
    cases i with
    | zero => simp [leBytes]
    | succ i =>
      have hs : v >>> (8 * (i + 1)) = (v / 256) >>> (8 * i) := by
        rw [Nat.mul_succ, Nat.add_comm, Nat.shiftRight_add, Nat.shiftRight_eq_div_pow v 8]
      rw [hs]
      exact ih (v / 256) i (by simpa using h)

/-! ### Stacked memory: opening of ciphertext, and writes (R208) -/

/-- One die-sector made plain. -/
def Mem.openOne (m : Mem) (k : Nat) : Mem :=
  if (m.keysAt k).isNone then m else
    { m with dram := wrBytes m.dram (32 * k) ((List.range 32).map fun i => m.cell (32 * k + i)), opened := m.opened ++ [k] }

/-- Opening of die-sectors is `Mem.openOne` on each in turn. -/
theorem Mem.openUp_eq_foldl (m : Mem) (ks : List Nat) :
    m.openUp ks = if m.cipher.isEmpty then m else ks.foldl Mem.openOne m := rfl

/-- A die-sector without keys reads as it lies. -/
theorem Mem.cell_of_plain {m : Mem} {a : Nat} (h : m.keysAt (a / 32) = none) : m.cell a = mget 0 m.dram a := by
  simp [Mem.cell, h]

/-- What a byte reads as depends on the keys and the bytes of its die-sector alone. -/
theorem Mem.cell_congr {m n : Mem} {a : Nat} (hk : n.keysAt (a / 32) = m.keysAt (a / 32))
    (hd : ∀ x, x / 32 = a / 32 → mget 0 n.dram x = mget 0 m.dram x) : n.cell a = m.cell a := by
  have hs : rdBytes n.dram (a / 32 * 32) 32 = rdBytes m.dram (a / 32 * 32) 32 := by
    refine List.map_congr_left fun i hi => hd _ ?_
    have := List.mem_range.mp hi
    omega
  simp only [Mem.cell, hk, hs, hd a rfl]

theorem Mem.openOne_keysAt (m : Mem) (k j : Nat) : (m.openOne k).keysAt j = if j = k then none else m.keysAt j := by
  unfold Mem.openOne
  split
  next h => split <;> simp_all
  next h => by_cases hj : j = k <;> simp [Mem.keysAt, hj]

/-- Opening a die-sector changes no byte as it reads. -/
theorem Mem.openOne_cell (m : Mem) (k a : Nat) : (m.openOne k).cell a = m.cell a := by
  by_cases ha : a / 32 = k
  · by_cases hk : m.keysAt k = none
    · simp [Mem.openOne, hk]
    · have hin : a = 32 * k + a % 32 := by omega
      rw [Mem.cell_of_plain (by simp [Mem.openOne_keysAt, ha])]
      have hb := mget_wrBytes_in m.dram (32 * k) (a % 32) ((List.range 32).map fun i => m.cell (32 * k + i))
        (by simp; omega)
      rw [← hin] at hb
      simpa [Mem.openOne, hk, ← hin] using hb
  · refine Mem.cell_congr (by simp [Mem.openOne_keysAt, ha]) fun x hx => ?_
    unfold Mem.openOne
    split
    · rfl
    · exact mget_wrBytes_out _ _ _ _ (by simp; omega)

theorem Mem.foldl_openOne_cell (ks : List Nat) (m : Mem) (a : Nat) : (ks.foldl Mem.openOne m).cell a = m.cell a := by
  induction ks generalizing m with
  | nil => rfl
  | cons k ks ih => exact (ih _).trans (m.openOne_cell k a)

theorem Mem.foldl_openOne_keysAt (ks : List Nat) (m : Mem) (j : Nat) :
    (ks.foldl Mem.openOne m).keysAt j = if j ∈ ks then none else m.keysAt j := by
  induction ks generalizing m with
  | nil => rfl
  | cons k ks ih => rw [List.foldl_cons, ih, Mem.openOne_keysAt]; by_cases hk : j = k <;> by_cases hj : j ∈ ks <;> simp [hk, hj]

theorem Mem.openUp_cell (m : Mem) (ks : List Nat) (a : Nat) : (m.openUp ks).cell a = m.cell a := by
  rw [Mem.openUp_eq_foldl]
  split
  · rfl
  · exact Mem.foldl_openOne_cell ks m a

theorem Mem.openUp_keysAt (m : Mem) (ks : List Nat) (j : Nat) :
    (m.openUp ks).keysAt j = if j ∈ ks then none else m.keysAt j := by
  rw [Mem.openUp_eq_foldl]
  split
  next h => simp [Mem.keysAt, List.isEmpty_iff.mp h]
  next h => exact Mem.foldl_openOne_keysAt ks m j

theorem Mem.foldl_openOne_others (ks : List Nat) (m : Mem) :
    (ks.foldl Mem.openOne m).hostMem = m.hostMem ∧ (ks.foldl Mem.openOne m).ctrlSram = m.ctrlSram := by
  have one (n : Mem) (k : Nat) : (n.openOne k).hostMem = n.hostMem ∧ (n.openOne k).ctrlSram = n.ctrlSram := by
    unfold Mem.openOne; split <;> exact ⟨rfl, rfl⟩
  induction ks generalizing m with
  | nil => exact ⟨rfl, rfl⟩
  | cons k ks ih => exact ⟨(ih _).1.trans (one m k).1, (ih _).2.trans (one m k).2⟩

/-- Opening leaves host memory and control SRAM alone. -/
theorem Mem.openUp_others (m : Mem) (ks : List Nat) : (m.openUp ks).hostMem = m.hostMem ∧ (m.openUp ks).ctrlSram = m.ctrlSram := by
  rw [Mem.openUp_eq_foldl]
  split
  · exact ⟨rfl, rfl⟩
  · exact Mem.foldl_openOne_others ks m

theorem mem_sectorsOf {a n k : Nat} : k ∈ sectorsOf a n ↔ 0 < n ∧ a / 32 ≤ k ∧ k ≤ (a + n - 1) / 32 := by
  unfold sectorsOf
  split
  next h => simp [h]
  next h =>
    simp only [List.mem_map, List.mem_range]
    constructor
    · rintro ⟨i, hi, rfl⟩; omega
    · intro hk; exact ⟨k - a / 32, by omega, by omega⟩

/-- Bytes written to stacked memory read as written. -/
theorem State.devWr_cell_in (s : State) (a i : Nat) (bs : List Byte) (h : i < bs.length) :
    (s.devWr a bs).mem.cell (a + i) = bs[i] := by
  have hk : (s.devWr a bs).mem.keysAt ((a + i) / 32) = none := by
    refine (Mem.openUp_keysAt s.mem _ _).trans (if_pos (mem_sectorsOf.mpr ?_))
    omega
  rw [Mem.cell_of_plain hk]
  exact mget_wrBytes_in _ a i bs h

/-- Every other byte of stacked memory reads as before. -/
theorem State.devWr_cell_out (s : State) (a x : Nat) (bs : List Byte) (h : x < a ∨ a + bs.length ≤ x) :
    (s.devWr a bs).mem.cell x = s.mem.cell x := by
  rw [← Mem.openUp_cell s.mem (sectorsOf a bs.length) x]
  by_cases hx : x / 32 ∈ sectorsOf a bs.length
  · have hk : (s.mem.openUp (sectorsOf a bs.length)).keysAt (x / 32) = none := by rw [Mem.openUp_keysAt, if_pos hx]
    have hk' : (s.devWr a bs).mem.keysAt (x / 32) = none := hk
    rw [Mem.cell_of_plain hk, Mem.cell_of_plain hk']
    exact mget_wrBytes_out _ a x bs h
  · refine Mem.cell_congr rfl fun y hy => mget_wrBytes_out _ a y bs ?_
    rw [mem_sectorsOf] at hx
    omega

/-! ### Frames -/

theorem Only.mono {cs ds : List Comp} {s t : State} (h : Only cs s t) (hcs : cs ⊆ ds) : Only ds s t where
  queue := h.queue
  pwr x := h.pwr fun m => x (hcs m)
  clk x := h.clk fun m => x (hcs m)
  glb x := h.glb fun m => x (hcs m)
  cfg x := h.cfg fun m => x (hcs m)
  flash x := h.flash fun m => x (hcs m)
  grd x := h.grd fun m => x (hcs m)
  fw x := h.fw fun m => x (hcs m)
  log x := h.log fun m => x (hcs m)
  hif x := h.hif fun m => x (hcs m)
  mem x := h.mem fun m => x (hcs m)
  lnk x := h.lnk fun m => x (hcs m)
  mer x := h.mer fun m => x (hcs m)
  parts x := h.parts fun m => x (hcs m)
  clusters x := h.clusters fun m => x (hcs m)
  ccores x := h.ccores fun m => x (hcs m)
  tasks x := h.tasks fun m => x (hcs m)
  freeTick x := h.freeTick fun m => x (hcs m)

theorem State.setMem_only (s : State) (x : Mem) : Only [.mem] s (s.setMem x) := by constructor <;> simp
theorem State.modCl_only (s : State) (c : Nat) (f : Cluster → Cluster) : Only [.clusters] s (s.modCl c f) := by
  constructor <;> simp [State.modCl]

/-- What a change of one cluster keeps of it, it keeps of every cluster. -/
theorem State.modCl_keeps_part {β : Type} (g : Cluster → β) (s : State) (c : Nat) {f : Cluster → Cluster}
    (h : g (f (s.cl c)) = g (s.cl c)) (d : Nat) : g ((s.modCl c f).cl d) = g (s.cl d) := by
  rw [State.modCl_cl]
  split
  next hd => rw [hd, h]
  next => rfl

/-- Registers stay where every sequencer and every control core is the same. -/
theorem RegsKept.of_seqs (a : Agent) {s t : State} (hs : ∀ c, (t.cl c).seq = (s.cl c).seq) (hc : t.ccores = s.ccores) :
    RegsKept a [] [] [] [] s t := by
  have hcc (k : Nat) : t.cc k = s.cc k := by rw [State.cc, hc, State.cc]
  cases a with
  | seq c => constructor <;> simp [State.regS, State.regE, State.regP, State.regD, State.statusOf, hs]
  | core k => constructor <;> simp [State.regS, State.regE, State.regP, State.regD, State.statusOf, hcc]

theorem pcOf_loopsOf_of_seqs (a : Agent) {s t : State} (hs : ∀ c, (t.cl c).seq = (s.cl c).seq) (hc : t.ccores = s.ccores) :
    t.pcOf a = s.pcOf a ∧ t.loopsOf a = s.loopsOf a := by
  have hcc (k : Nat) : t.cc k = s.cc k := by rw [State.cc, hc, State.cc]
  cases a with
  | seq c => simp [State.pcOf, State.loopsOf, hs]
  | core k => simp [State.pcOf, State.loopsOf, hcc]

theorem State.advance_agentOnly (a : Agent) (s : State) : AgentOnly a s (s.advance a) := State.setPc_agentOnly a s _ _
theorem State.advance_kept (a : Agent) (s : State) : RegsKept a [] [] [] [] s (s.advance a) := State.setPc_kept a s _ _
theorem State.advance_goesOn (a : Agent) (s : State) : GoesOn a s (s.advance a) := State.setPc_at a s _ _

theorem AgentOnly.mem {a : Agent} {s t : State} (h : AgentOnly a s t) : t.mem = s.mem := h.rest.mem (by decide)
theorem AgentOnly.outsideStore {a : Agent} {s t : State} (h : AgentOnly a s t) (c : Nat) :
    outsideStore (t.cl c) = outsideStore (s.cl c) :=
  congrArg (fun x : Cluster => { x with spad := [], spadPoison := [], spadFlaw := [], units := [] }) (h.clusters c)
/-- The sequencers and control cores hold no byte of a memory. -/
theorem AgentOnly.cell {a : Agent} {s t : State} (h : AgentOnly a s t) (c : Cell) : t.cell c = s.cell c := by
  cases c with
  | spad k x =>
    have hs : (t.cl k).spad = (s.cl k).spad := by simpa using congrArg Cluster.spad (h.clusters k)
    simp only [State.cell, hs]
  | dram x => simp only [State.cell, h.mem]
  | sram x => simp only [State.cell, h.mem]

/-! ### Partition addresses of an aligned access (R335) -/

/-- Addresses of one GiB are mapped by one entry. -/
theorem Part.entry_congr (P : Part) {x y : Nat} (h : x / 2 ^ 30 = y / 2 ^ 30) : P.entry x = P.entry y := by
  have hlt : x < 2 ^ 40 ↔ y < 2 ^ 40 := by omega
  simp only [Part.entry, h, hlt]

section
variable {n pa : Nat} (hn : n = 8 ∨ n = 32) (ha : pa % n = 0)
include hn ha

theorem aligned_gib {i : Nat} (hi : i < n) : (pa + i) / 2 ^ 30 = pa / 2 ^ 30 := by
  obtain rfl | rfl := hn <;> omega

theorem aligned_extents : (pa + n - 1) / 2 ^ 30 + 1 - pa / 2 ^ 30 = 1 := by
  have h0 : 0 < n := by omega
  have := aligned_gib hn ha (i := n - 1) (by omega)
  rw [Nat.add_sub_assoc h0]
  omega

theorem Part.mappedRange_aligned (P : Part) : P.mappedRange pa n = (P.dev pa).isSome := by
  have h0 : n ≠ 0 := by omega
  have he : P.entry (pa / 2 ^ 30 * 2 ^ 30) = P.entry pa := P.entry_congr (by omega)
  simp only [Part.mappedRange, Part.dev, aligned_extents hn ha, List.range_one, List.all_cons, List.all_nil, Nat.add_zero, he, h0,
    decide_false, Bool.false_or, Bool.and_true, Option.isSome_map]

theorem Part.dev_add_eq_none_iff (P : Part) {i : Nat} (hi : i < n) : P.dev (pa + i) = none ↔ P.dev pa = none := by
  simp only [Part.dev, Option.map_eq_none_iff, P.entry_congr (aligned_gib hn ha hi)]

theorem Part.runs_aligned (P : Part) {d : Nat} (hd : P.dev pa = some d) : P.runs pa n = [(d, n)] := by
  have h0 : n ≠ 0 := by omega
  have hend : ¬(pa / 2 ^ 30 + 1) * 2 ^ 30 < pa + n := by
    have := aligned_gib hn ha (i := n - 1) (by omega)
    omega
  simp only [Part.runs, aligned_extents hn ha, List.range_one, List.filterMap_cons, List.filterMap_nil, Nat.add_zero, if_true, if_neg h0,
    if_neg hend, hd, Option.map_some, Nat.add_sub_cancel_left]

/-- An aligned store to partition memory merges the burst that it covers in part (R197) and writes its bytes there. -/
theorem State.partWr_aligned (s : State) (p : Nat) {d : Nat} (bs : List Byte) (hbs : bs.length = n)
    (hd : (s.pt p).dev pa = some d) : s.partWr p pa bs = (scalarMerge s n (.dram p pa)).devWr d bs := by
  subst hbs
  simp [State.partWr, Part.runs_aligned hn ha _ hd, scalarMerge, hd, State.vaultWrite]

end

/-! ### Where a scalar access goes -/

/-- What the checks of R491 have established of an access that passes them. -/
def LocOk (s : State) (ad n : Nat) : Agent → ScalarLoc → Prop
  | .seq _, .spad x => ∃ win, x = winPhys win ad
  | .seq _, .dram p pa => pa = ad ∧ (s.pt p).mappedRange ad n = true
  | .core _, .sram x => x = ad
  | _, _ => False

theorem scalarLoc_ok {s : State} {a : Agent} {w base : Word} {align n : Nat} {l : ScalarLoc}
    (h : scalarLoc s a w base align n = .ok l) :
    (base + wImm w).toNat % align = 0 ∧ LocOk s (base + wImm w).toNat n a l := by
  cases a with
  | seq c =>
    simp only [scalarLoc] at h
    split at h
    · cases h
    split at h
    · cases h
    rename_i halign
    refine ⟨Decidable.not_not.mp halign, ?_⟩
    split at h
    · split at h
      · cases h
      rename_i hm
      split at h
      · cases h
      cases h
      exact ⟨rfl, by simpa using hm⟩
    · split at h
      · cases h
        exact ⟨_, rfl⟩
      · cases h
  | core k =>
    simp only [scalarLoc] at h
    split at h
    · cases h
    rename_i halign
    refine ⟨Decidable.not_not.mp halign, ?_⟩
    split at h
    · cases h
    split at h
    · cases h
    split at h
    · cases h
      rfl
    · cases h

/-- The fields of a window as the statements write them (Table 6.2). -/
theorem winOk_iff (w : Word) (a : Nat) {n : Nat} (hn : n ≠ 0) :
    winOk w a n = true ↔ w.getLsbD 63 = true ∧ a + n ≤ 128 * (w.extractLsb' 16 15).toNat := by
  have hb : winBound w = (w.extractLsb' 16 15).toNat := (BitVec.extractLsb'_toNat 16 15 w).symm
  simp only [winOk, hn, hb, decide_false, Bool.false_or, Bool.and_eq_true, decide_eq_true_eq]
  rfl

/-- The faults of R153 are those that the checks find, in their order (R491). -/
theorem scalarLoc_faults {c : Fin 768} {s : State} {w base : Word} {n : Nat} {st : BitVec 16} (hn : n = 8 ∨ n = 32)
    (h : AccessFaults c s w base n n st) : scalarLoc s (.seq c) w base n n = .error st := by
  have h0 : n ≠ 0 := by omega
  unfold AccessFaults at h
  rw [← wImm_eq_signExtend] at h
  obtain ⟨hsp, rfl⟩ | ⟨hsp, hal, rfl⟩ | ⟨hsp, hal, ⟨i, hi, hd⟩, rfl⟩ | ⟨hsp, hal, hw, rfl⟩ := h
  · simp [scalarLoc, hsp]
  · simp [scalarLoc, hal, show fld w 35 34 ≠ 2 by omega, -BitVec.toNat_add]
  · rw [Part.dev_add_eq_none_iff hn hal _ hi] at hd
    simp [scalarLoc, hsp, hal, Part.mappedRange_aligned hn hal, hd, -BitVec.toNat_add]
  · rw [← winOk_iff _ _ h0] at hw
    rw [Bool.not_eq_true] at hw
    simpa [scalarLoc, hsp, hal, -BitVec.toNat_add] using hw

theorem AccessFaults.ne_groupOff {c : Fin 768} {s : State} {w base : Word} {align n : Nat} {st : BitVec 16}
    (h : AccessFaults c s w base align n st) : st ≠ stGroupOff := by
  obtain ⟨-, rfl⟩ | ⟨-, -, rfl⟩ | ⟨-, -, -, rfl⟩ | ⟨-, -, -, rfl⟩ := h <;> decide

/-! ### What a store leaves -/

/-- From s, where the burst is merged as in m, the n low bytes of v stand at l in t, and nothing else has changed but what a
cluster's units know of the scratchpad. -/
def StoredAt (s : State) (a : Agent) (n v : Nat) (l : ScalarLoc) (m t : State) : Prop :=
  (∀ i, i < n → ∃ c, scalarCell s a i l = some c ∧ t.cell c = BitVec.ofNat 8 (v >>> (8 * i))) ∧
  (∀ c, (∀ i, i < n → scalarCell s a i l ≠ some c) → t.cell c = m.cell c) ∧
  t.mem.hostMem = m.mem.hostMem ∧ Only [.mem, .clusters] m t ∧ (∀ c, (t.cl c).seq = (m.cl c).seq) ∧
  ∀ c, outsideStore (t.cl c) = outsideStore (m.cl c)

/-- An address outside n bytes from x is no x + i. -/
theorem outside_of_forall_ne {x y n : Nat} (h : ∀ i, i < n → x + i ≠ y) : y < x ∨ x + n ≤ y := by
  refine Decidable.byContradiction fun hc => ?_
  exact h (y - x) (by omega) (by omega)

/-- An aligned store to scratchpad touches no word in part. -/
theorem State.spadWrite_aligned (s : State) (c u x : Nat) (bs : List Byte) (hx : x % 8 = 0) (hn : bs.length % 8 = 0) :
    s.spadWrite c u x bs = s.modCl c fun y => (y.spadWr x bs).taintHeads u x bs.length := by
  have ht : (x + bs.length) % 8 = 0 := by omega
  simp [State.spadWrite, hx, ht]

theorem scalarStore_spad (s : State) (a : Agent) (n v x : Nat) (hx : x % 8 = 0) (hn : n % 8 = 0) :
    StoredAt s a n v (.spad x) s (scalarStore s a (leBytes n v) (.spad x)) := by
  have ht : scalarStore s a (leBytes n v) (.spad x) =
      s.modCl (clusterOf a) fun y => (y.spadWr x (leBytes n v)).taintHeads 7 x (leBytes n v).length :=
    s.spadWrite_aligned _ _ _ _ hx (by simpa using hn)
  rw [ht]
  refine ⟨fun i hi => ⟨.spad (clusterOf a) (x + i), rfl, ?_⟩, fun c hc => ?_, rfl, (s.modCl_only _ _).mono (by decide),
    s.modCl_keeps_part Cluster.seq _ rfl, s.modCl_keeps_part outsideStore _ rfl⟩
  · rw [State.cell, State.modCl_cl, if_pos rfl]
    exact (mget_wrBytes_in _ x i _ (by simpa using hi)).trans (leBytes_getElem n v i _)
  · cases c with
    | spad k y =>
      rw [State.cell, State.modCl_cl]
      split
      next hk =>
        subst hk
        refine mget_wrBytes_out _ _ _ _ ?_
        rw [leBytes_length]
        exact outside_of_forall_ne fun i hi e => hc i hi (by rw [← e]; rfl)
      next => rfl
    | dram y => rfl
    | sram y => rfl

theorem scalarStore_dram (s : State) (a : Agent) {n pa : Nat} (v p : Nat) (hn : n = 8 ∨ n = 32) (ha : pa % n = 0)
    (hm : (s.pt p).mappedRange pa n = true) :
    StoredAt s a n v (.dram p pa) (scalarMerge s n (.dram p pa)) (scalarStore s a (leBytes n v) (.dram p pa)) := by
  rw [Part.mappedRange_aligned hn ha] at hm
  obtain ⟨d, hd⟩ := Option.isSome_iff_exists.mp hm
  have ht : scalarStore s a (leBytes n v) (.dram p pa) = (scalarMerge s n (.dram p pa)).devWr d (leBytes n v) :=
    s.partWr_aligned hn ha p _ (leBytes_length n v) hd
  have hloc (i : Nat) : scalarCell s a i (.dram p pa) = some (.dram (d + i)) := by simp [scalarCell, hd]
  rw [ht]
  refine ⟨fun i hi => ⟨_, hloc i, ?_⟩, fun c hc => ?_, (Mem.openUp_others _ _).1, (State.setMem_only _ _).mono (by decide),
    fun _ => rfl, fun _ => rfl⟩
  · rw [State.cell, State.devWr_cell_in _ _ _ _ (by simpa using hi), leBytes_getElem]
  · cases c with
    | spad k y => rfl
    | dram y =>
      refine State.devWr_cell_out _ _ _ _ ?_
      rw [leBytes_length]
      exact outside_of_forall_ne fun i hi e => hc i hi (by rw [hloc, e])
    | sram y => exact congrArg (fun m => mget 0 m y) (Mem.openUp_others _ _).2

theorem scalarStore_sram (s : State) (a : Agent) (n v x : Nat) :
    StoredAt s a n v (.sram x) s (scalarStore s a (leBytes n v) (.sram x)) := by
  refine ⟨fun i hi => ⟨.sram (x + i), rfl, ?_⟩, fun c hc => ?_, rfl, (State.setMem_only _ _).mono (by decide), fun _ => rfl, fun _ => rfl⟩
  · exact (mget_wrBytes_in _ x i _ (by simpa using hi)).trans (leBytes_getElem n v i _)
  · cases c with
    | spad k y => rfl
    | dram y => rfl
    | sram y =>
      refine mget_wrBytes_out _ _ _ _ ?_
      rw [leBytes_length]
      exact outside_of_forall_ne fun i hi e => hc i hi (by rw [← e]; rfl)

/-- Wherever an access that passes its checks goes, its bytes are stored there. -/
theorem scalarStore_storedAt {s : State} {a : Agent} {w base : Word} {n : Nat} {l : ScalarLoc} (v : Nat) (hn : n = 8 ∨ n = 32)
    (h : scalarLoc s a w base n n = .ok l) : StoredAt s a n v l (scalarMerge s n l) (scalarStore s a (leBytes n v) l) := by
  obtain ⟨hal, hl⟩ := scalarLoc_ok h
  have h8 : (base + wImm w).toNat % 8 = 0 := by obtain rfl | rfl := hn <;> omega
  cases l with
  | spad x =>
    cases a with
    | seq c =>
      obtain ⟨win, rfl⟩ := hl
      exact scalarStore_spad s _ n v _ (by unfold winPhys; omega) (by omega)
    | core k => exact hl.elim
  | dram p pa =>
    cases a with
    | seq c =>
      obtain ⟨rfl, hm⟩ := hl
      exact scalarStore_dram s _ v p hn hal hm
    | core k => exact hl.elim
  | sram x => exact scalarStore_sram s a n v x

/-- Without a flaw the merge of a burst changes nothing. -/
theorem State.vaultRead_of_flawless {s : State} (h : s.mem.flaw = []) (a n : Nat) : s.vaultRead a n = s := by
  simp [State.vaultRead, h]
theorem scalarMerge_of_flawless {s : State} (h : s.mem.flaw = []) (n : Nat) (l : ScalarLoc) : scalarMerge s n l = s := by
  cases l with
  | spad x => rfl
  | sram x => rfl
  | dram p pa =>
    simp only [scalarMerge]
    split
    · simp [State.vaultRead_of_flawless h]
    · rfl

/-! ### The instructions -/

theorem State.issue_of_ready {s : State} {a : Agent} {code : Nat} {w : Word} (body : State → State) (hr : s.ready a w = true)
    (hc : classOp w = code) : s.issue a code w body = body s := by simp [State.issue, hr, hc]

theorem exec_st {a : Agent} {w : Word} {s : State} (h : Issues 0x011 ([fA, fB] ++ fMem) a w s) :
    exec (.st a w) s = .next (scalarSave a w false (s.regS a (wA w)) 8 (leBytes 8 (s.regS a (wB w)).toNat) s) := by
  obtain ⟨hr, hc, hb⟩ := h
  have arm : exec (.st a w) s = execSt a w s := rfl
  rw [arm, execSt, State.issue_of_ready _ hr hc, stOp, hb]

theorem exec_dstr {a : Agent} {w : Word} {s : State} (h : Issues 0x01A ([fA, fB] ++ fMem) a w s) (hseq : isCore a = false)
    (hB : wB w ≤ 15) :
    exec (.dstr a w) s = .next (scalarSave a w false (s.regS a (wA w)) 32 (leBytes 32 (s.regD a (wB w)).toNat) s) := by
  obtain ⟨hr, hc, hb⟩ := h
  have hill : (badBits w ([fA, fB] ++ fMem) || noDesc a || decide (15 < wB w)) = false := by
    cases a with
    | seq c => rw [hb, decide_eq_false (by omega)]; rfl
    | core k => simp [isCore] at hseq
  have arm : exec (.dstr a w) s = execDstr a w s := rfl
  rw [arm, execDstr, State.issue_of_ready _ hr hc, dstrOp, hill]

theorem scalarSave_ok {s : State} {a : Agent} {w base : Word} {n v : Nat} {l : ScalarLoc} (hsp : spBad w = false)
    (h : scalarLoc s a w base n n = .ok l) :
    scalarSave a w false base n (leBytes n v) s = (scalarStore s a (leBytes n v) l).advance a := by
  simp [scalarSave, hsp, h]

theorem scalarSave_error {s : State} {a : Agent} {w base : Word} {n v : Nat} {st : BitVec 16} (hsp : spBad w = false)
    (h : scalarLoc s a w base n n = .error st) (hst : st ≠ stGroupOff) :
    scalarSave a w false base n (leBytes n v) s = s.faultAt a w st := by
  simp only [scalarSave, hsp, leBytes_length, h, if_neg hst, Bool.or_self, Bool.false_eq_true, if_false]

/-- What the statement of a store says of an instruction that saves the n low bytes of v. -/
theorem scalarStores_of_exec {i : Instr} {a : Agent} {w base : Word} {s : State} {n v : Nat} (hn : n = 8 ∨ n = 32)
    (hsp : spBad w = false) (hexec : exec i s = .next (scalarSave a w false base n (leBytes n v) s)) :
    (∀ l : ScalarLoc, scalarLoc s a w base n n = .ok l →
      let s1 := scalarMerge s n l
      (∃ t, exec i s = .next t ∧
        (∀ i, i < n → ∃ c, scalarCell s a i l = some c ∧ t.cell c = BitVec.ofNat 8 (v >>> (8 * i))) ∧
        (∀ c, (∀ i, i < n → scalarCell s a i l ≠ some c) → t.cell c = s1.cell c) ∧
        t.mem.hostMem = s1.mem.hostMem ∧ Only [.mem, .clusters, .ccores] s1 t ∧ RegsKept a [] [] [] [] s1 t ∧ GoesOn a s1 t ∧
        ∀ c, outsideStore (t.cl c) = outsideStore (s1.cl c)) ∧
      (s.mem.flaw = [] → s1 = s)) ∧
    (∀ (c : Fin 768) (st : BitVec 16), a = .seq c → AccessFaults c s w base n n st → exec i s = .next (s.faultAt a w st)) := by
  refine ⟨fun l hl => ⟨⟨_, hexec, ?_⟩, fun hf => scalarMerge_of_flawless hf n l⟩, fun c st ha hf => ?_⟩
  · rw [scalarSave_ok hsp hl]
    obtain ⟨hstored, hothers, hhost, honly, hseqs, houtside⟩ := scalarStore_storedAt v hn hl
    have hcores := honly.ccores (by decide)
    generalize scalarStore s a (leBytes n v) l = t at hstored hothers hhost honly hseqs houtside hcores
    have ha := t.advance_agentOnly a
    obtain ⟨hpc, hloops⟩ := pcOf_loopsOf_of_seqs a hseqs hcores
    refine ⟨fun i hi => ?_, fun c hc => (ha.cell c).trans (hothers c hc), by rw [ha.mem, hhost],
      (honly.mono (by decide)).trans (ha.rest.mono (by decide)), (RegsKept.of_seqs a hseqs hcores).trans (t.advance_kept a), ?_,
      fun c => (ha.outsideStore c).trans (houtside c)⟩
    · obtain ⟨c, hloc, hv⟩ := hstored i hi
      exact ⟨c, hloc, (ha.cell c).trans hv⟩
    · have hgo := t.advance_goesOn a
      rwa [GoesOn, hpc, hloops] at hgo
  · subst ha
    rw [hexec, scalarSave_error hsp (scalarLoc_faults hn hf) hf.ne_groupOff]

/-- Settles O13: ST and DSTR are one save of 8 or 32 bytes, whose three kinds of place are taken apart in `scalarStore_storedAt`. -/
theorem scalarStores : Obligations.ScalarStores := by
  unfold Obligations.ScalarStores
  intro desc a w s n v hi hsp hd
  cases desc with
  | false => exact scalarStores_of_exec (.inl rfl) hsp (exec_st hi)
  | true =>
    obtain ⟨hseq, hB⟩ := hd rfl
    exact scalarStores_of_exec (.inr rfl) hsp (exec_dstr hi hseq hB)

end Sys2Proof.Machine
end

section
/-! PROOFS. A phase boundary whose batch header is poisoned (R141, R459, R465). -/

namespace Sys2Proof.Machine

/-- A task that has asked to park and has named the batch at partition address 64. -/
def parkingTask : Task := { tk with parkReq := true, batches := [64] }
/-- It stands at PHASE 3 on cluster 0, and one sequence is resident in its batch. -/
def atBoundary : State :=
  (((withDram (mkC [0, 0] [] [])).setTasks [parkingTask]).modPt 0 fun P => { P with
    kvSeqs := [{ aSeq with layout := 0x02200000 }] }).stall a0 (.phase 3)
/-- The same, with poison in the die-sector that holds the header of the batch. -/
def atPoisonedBoundary : State := atBoundary.setMem { atBoundary.mem with poison := [(3 * 2 ^ 25 + 2, true)] }

/-- All that the statement asks of a boundary holds. -/
theorem atPoisonedBoundary_ready : let s := atPoisonedBoundary
    s.findTask tid = some parkingTask ∧ s.nightwatch = true ∧ s.clk.holding = false ∧ parkingTask.clusters.Nodup ∧
    s.allRun parkingTask = true ∧ (∀ c ∈ parkingTask.clusters, c < 768 ∧ (s.cl c).units.all (fun kv => kv.2.isEmpty) = true) ∧
    (∀ c ∈ parkingTask.clusters, (s.cl c).seq.run = .stalled (.phase 3)) ∧
    s.appendsDiffer tid.part.val parkingTask.batches = false := by decide

set_option maxRecDepth 4000 in
/-- After the work for the batch the task has to park, and a park does not release it at once. -/
theorem atPoisonedBoundary_mustPark :
    let s1 := ((atPoisonedBoundary.phaseEnd parkingTask).rangeCloseAll parkingTask).kvBoundary tid.part.val parkingTask.batches
    s1.mustPark parkingTask = true ∧ s1.hif.retainS ≠ 0 := by decide

set_option maxRecDepth 4000 in
/-- Nightwatch's read of the header contains the partition, and the sequencer stops. -/
theorem atPoisonedBoundary_faults :
    ((done (exec (.phaseBoundary tid) atPoisonedBoundary)).pt 0).contained = true ∧
    ((done (exec (.phaseBoundary tid) atPoisonedBoundary)).cl 0).seq.run = .faulted := by decide

/-- Refutes O24: in the work of the boundary Nightwatch reads the header of the task's batch; poison there is a CLASS 2 error that
contains the partition (R459, R465) and stops the sequencers of the task, so that a task which parks does not stand where it stood. -/
theorem not_phases : ¬ Obligations.Phases := by
  unfold Obligations.Phases
  intro ⟨_, _, h⟩
  obtain ⟨hfind, hnw, hhold, hnodup, hrun, hunits, hphase, happ⟩ := atPoisonedBoundary_ready
  obtain ⟨hpark, hretain⟩ := atPoisonedBoundary_mustPark
  obtain ⟨hsame, _⟩ := h tid atPoisonedBoundary parkingTask hfind hnw hhold rfl rfl (by decide) hnodup hrun hunits
  obtain ⟨t, ht, hparked, _⟩ := hsame 3 hphase happ
  obtain ⟨_, hstands⟩ := hparked hpark (.inl hretain)
  have hfaulted : (t.cl 0).seq.run = .faulted := by
    obtain ⟨_, hrun⟩ := atPoisonedBoundary_faults
    rw [ht] at hrun
    exact hrun
  have hstalled : (t.cl 0).seq.run = .stalled (.phase 3) := by rw [hstands 0]; exact hphase 0 (by decide)
  simp [hstalled] at hfaulted

end Sys2Proof.Machine
end

section
/-! PROOFS. The entries STEP and SEQ_END (R18, R369): what changes the list of a partition's sequences, and when an entry has finished. -/

namespace Sys2Proof.Machine

/-! ### Partitions under the shared operations -/

/-- What a change of every listed unit keeps of it, it keeps of each unit. -/
theorem mget_map_part {α β : Type} (g : α → β) (d : α) {f : α → α} (hf : ∀ x, g (f x) = g x) (m : Map α) (k : Nat) :
    g (mget d (m.map fun kv => (kv.1, f kv.2)) k) = g (mget d m k) := by
  induction m with
  | nil => rfl
  | cons kv m ih =>
    obtain ⟨j, v⟩ := kv
    simp only [List.map_cons, mget]
    split
    · exact hf v
    · exact ih

theorem State.pt_of_parts {s t : State} (h : t.parts = s.parts) (p : Nat) : t.pt p = s.pt p := by rw [State.pt, h, State.pt]

theorem Part.setRing_ring (P : Part) (n : Nat) (r : Ring) : (P.setRing n r).ring n = r := mget_mset_self _ _ _ _

theorem State.modPt_self (s : State) (p : Nat) (f : Part → Part) : (s.modPt p f).pt p = f (s.pt p) := by
  rw [State.modPt_pt, if_pos rfl]
/-- What a change of one partition keeps of it, it keeps of every partition. -/
theorem State.modPt_keeps_part {β : Type} (g : Part → β) (s : State) (p : Nat) {f : Part → Part}
    (h : g (f (s.pt p)) = g (s.pt p)) (q : Nat) : g ((s.modPt p f).pt q) = g (s.pt q) := by
  rw [State.modPt_pt]
  split
  next hq => rw [hq, h]
  next => rfl
theorem State.modPt_only (s : State) (p : Nat) (f : Part → Part) : Only [.parts] s (s.modPt p f) := by
  constructor <;> simp [State.modPt]
theorem State.modTask_only (s : State) (id : TaskId) (f : Task → Task) : Only [.tasks] s (s.modTask id f) := by
  constructor <;> simp [State.modTask]

/-! ### Entries of a ring -/

theorem State.setEntry_only (s : State) (e : EntryId) (st : EntrySt) : Only [.parts] s (s.setEntry e st) := s.modPt_only _ _

theorem State.setEntry_entries (s : State) (e : EntryId) (st : EntrySt) :
    (((s.setEntry e st).pt e.part.val).ring e.ring.val).entries =
      ((s.pt e.part.val).ring e.ring.val).entries.map fun x => if x.seq = e.seq then { x with st := st } else x := by
  rw [State.setEntry, State.modPt_self, Part.setRing_ring]

/-- Only the rings of the partition change. -/
theorem State.setEntry_kv (s : State) (e : EntryId) (st : EntrySt) :
    ((s.setEntry e st).pt e.part.val).kvSeqs = (s.pt e.part.val).kvSeqs ∧
    ((s.setEntry e st).pt e.part.val).kvFree = (s.pt e.part.val).kvFree ∧
    ((s.setEntry e st).pt e.part.val).kvNodes = (s.pt e.part.val).kvNodes :=
  ⟨s.modPt_keeps_part Part.kvSeqs _ rfl _, s.modPt_keeps_part Part.kvFree _ rfl _, s.modPt_keeps_part Part.kvNodes _ rfl _⟩

theorem State.putRecord_entries (s : State) (p ring : Nat) (seq : BitVec 32) (irq : Bool) (bs : List Byte) :
    ∀ x ∈ (((s.putRecord p ring seq irq bs).pt p).ring ring).entries, x.seq ≠ seq := by
  unfold State.putRecord
  extract_lets r a s1 s2
  have h2 : ((s2.pt p).ring ring).entries = ((s1.pt p).ring ring).entries.filter fun e => decide (e.seq ≠ seq) := by
    rw [s1.modPt_self, Part.setRing_ring]
  intro x hx
  rw [State.pt_of_parts ((State.trace_keeps _ _ _).parts (by decide))] at hx
  have hx2 : x ∈ ((s2.pt p).ring ring).entries := by
    split at hx
    · rwa [State.pt_of_parts ((State.msix_keeps _ _ _).parts (by decide))] at hx
    · exact hx
  rw [h2] at hx2
  exact of_decide_eq_true (List.mem_filter.mp hx2).2

/-- A completed entry has left its ring, or is done while its record is held (R371, R377). -/
theorem State.complete_finished (s : State) (e : EntryId) (irq : Bool) (status esc : BitVec 16) (energy : Nat) (result : BitVec 32) :
    Finished (s.complete e irq status esc energy result) e := by
  intro x hx hseq
  unfold State.complete at hx
  dsimp only at hx
  split at hx
  next =>
    rw [State.modPt_self] at hx
    change x ∈ ((Part.setRing _ _ _).ring _).entries at hx
    rw [Part.setRing_ring] at hx
    obtain ⟨y, -, rfl⟩ := List.mem_map.mp hx
    split at hseq
    next h => rw [if_pos h]
    next h => exact absurd hseq h
  next => exact absurd hseq (State.putRecord_entries _ _ _ _ _ _ x hx)

theorem State.completeWork_finished (s : State) (e : EntryId) (status : BitVec 16) (result : BitVec 32) :
    Finished (s.completeWork e status result) e := by
  unfold State.completeWork
  exact s.complete_finished e _ _ _ _ _

/-! ### Sequences under the writes of Nightwatch -/

/-- Every partition has the same sequences. -/
def SeqsKept (s t : State) : Prop := ∀ p, (t.pt p).kvSeqs = (s.pt p).kvSeqs

theorem SeqsKept.refl (s : State) : SeqsKept s s := fun _ => rfl
theorem SeqsKept.trans {s t u : State} (h : SeqsKept s t) (k : SeqsKept t u) : SeqsKept s u := fun p => (k p).trans (h p)
/-- An operation that leaves the partitions alone leaves their sequences alone. -/
theorem SeqsKept.of_keeps {w : Nat} {s t : State} (h : Keeps w s t) (hw : w.testBit 13 = false) : SeqsKept s t := fun p => by
  rw [State.pt_of_parts (h.parts hw)]
theorem SeqsKept.setMem (s : State) (x : Mem) : SeqsKept s (s.setMem x) := fun _ => rfl
theorem SeqsKept.modPt (s : State) (p : Nat) {f : Part → Part} (hf : ∀ P, (f P).kvSeqs = P.kvSeqs) : SeqsKept s (s.modPt p f) :=
  s.modPt_keeps_part Part.kvSeqs p (hf _)
theorem SeqsKept.ite {s t u : State} {c : Prop} [Decidable c] (ht : SeqsKept s t) (hu : SeqsKept s u) : SeqsKept s (if c then t else u) := by
  split <;> assumption
theorem SeqsKept.foldl {β : Type} {f : State → β → State} (h : ∀ s x, SeqsKept s (f s x)) (xs : List β) (s : State) :
    SeqsKept s (xs.foldl f s) := by
  induction xs generalizing s with
  | nil => exact .refl s
  | cons x xs ih => exact (h s x).trans (ih _)
theorem SeqsKept.foldlPair {β γ : Type} {f : State × γ → β → State × γ} (h : ∀ a x, SeqsKept a.1 (f a x).1) (xs : List β) (a : State × γ) :
    SeqsKept a.1 (xs.foldl f a).1 := by
  induction xs generalizing a with
  | nil => exact .refl a.1
  | cons x xs ih => exact (h a x).trans (ih _)

/-- What becomes of every partition alike. -/
theorem SeqsKept.of_parts_map {s t : State} {f : Part → Part} (hf : ∀ P, (f P).kvSeqs = P.kvSeqs)
    (h : t.parts = s.parts.map fun kv => (kv.1, f kv.2)) : SeqsKept s t := fun p => by
  rw [State.pt, h]
  exact mget_map_part Part.kvSeqs Part.reset hf s.parts p

/-- A block that is retired leaves the free lists, and no sequence (R223). -/
theorem State.retire_seqs (s : State) (v bank row cause : Nat) : SeqsKept s (s.retire v bank row cause) := by
  unfold State.retire
  extract_lets blk drop _ _ s1
  have h1 : SeqsKept s s1 :=
    .ite (.setMem s _) (.of_parts_map (f := drop) (fun _ => rfl) rfl)
  exact .ite (.refl s) (h1.trans (.of_keeps (State.note_keeps _ _ _ _ _) (by decide)))

theorem State.repairRow_seqs (s : State) (r : RowId) : SeqsKept s (s.repairRow r).1 := by
  unfold State.repairRow
  split
  · exact .refl s
  extract_lets si marked again _ _ s1 o fails kept
  have h1 : SeqsKept s s1 := .ite ((SeqsKept.setMem s _).trans (.of_keeps (State.fieldTouch_keeps _) (by decide))) (.refl s)
  have hk : SeqsKept s kept := by
    unfold kept
    clear_value fails si
    split
    · exact .ite h1 (h1.trans (.of_keeps (State.setRemap_keeps _ _) (by decide)))
    · exact h1
  split
  · exact h1
  split
  · exact hk.trans (State.retire_seqs _ _ _ _ _)
  split
  · exact hk.trans (State.retire_seqs _ _ _ _ _)
  · exact (h1.trans (.of_keeps (State.remapRow_keeps _ _ _ _ _ _ _) (by decide))).trans (.of_keeps (State.note_keeps _ _ _ _ _) (by decide))

theorem repairFuel_seqs (n : Nat) (rs : List RowId) (s : State) : SeqsKept s (repairFuel n rs s) := by
  induction n generalizing rs s with
  | zero => exact .refl s
  | succ n ih =>
    cases rs with
    | nil => exact .refl s
    | cons r rs => exact (s.repairRow_seqs r).trans (ih _ _)

theorem State.readBurst_seqs (s : State) (b : Nat) (cov : Nat → Bool) : SeqsKept s (s.readBurst b cov) :=
  (SeqsKept.of_keeps (s.decodeCheck_keeps b cov) (by decide)).trans (repairFuel_seqs _ _ _)

theorem State.vaultRead_seqs (s : State) (a n : Nat) : SeqsKept s (s.vaultRead a n) :=
  .ite (.refl s) (.foldl (fun s b => s.readBurst_seqs b _) _ s)

theorem State.vaultWrite_seqs (s : State) (a : Nat) (bs : List Byte) : SeqsKept s (s.vaultWrite a bs) := by
  unfold State.vaultWrite
  extract_lets n head tail s1 s2
  have h1 : SeqsKept s s1 := .ite (s.vaultRead_seqs _ _) (.refl s)
  have h2 : SeqsKept s1 s2 := .ite (s1.vaultRead_seqs _ _) (.refl s1)
  exact (h1.trans h2).trans (.of_keeps (State.devWr_keeps _ _ _) (by decide))

theorem State.structWr_seqs (s : State) (p : Fin 64) (pa : Nat) (bs : List Byte) : SeqsKept s (s.structWr p pa bs) :=
  .ite (.refl s) (.ite (.of_keeps (State.groupOffLog_keeps _ _ _ _) (by decide))
    (SeqsKept.foldlPair (fun a r => a.1.vaultWrite_seqs r.1 _) _ (s, bs)))

theorem State.writeList_seqs (s : State) (p g : Nat) : SeqsKept s (s.writeList p g) := s.structWr_seqs _ _ _

theorem State.syncBatch_seqs (s : State) (p : Nat) (h : Word) : SeqsKept s (s.syncBatch p h) := by
  unfold State.syncBatch
  dsimp only
  split
  · exact .refl s
  split
  · exact s.structWr_seqs _ _ _
  · refine (s.structWr_seqs _ _ _).trans (.foldl (fun s i => ?_) _ _)
    split
    · exact .refl s
    · exact (SeqsKept.foldl (fun s g => s.writeList_seqs p g) _ s).trans (State.structWr_seqs _ _ _ _)

theorem State.freePages_seqs (s : State) (p : Nat) (ps : List Nat) : SeqsKept s (s.freePages p ps) := .modPt s p fun _ => rfl

theorem State.putRecord_seqs (s : State) (p ring : Nat) (seq : BitVec 32) (irq : Bool) (bs : List Byte) :
    SeqsKept s (s.putRecord p ring seq irq bs) := by
  unfold State.putRecord
  extract_lets r a s1 s2
  have h1 : SeqsKept s s1 := (SeqsKept.of_keeps (State.hostWr_keeps _ _ _ _) (by decide)).trans (.of_keeps (State.hostWr_keeps _ _ _ _) (by decide))
  have h2 : SeqsKept s s2 := h1.trans (.modPt s1 p fun _ => rfl)
  exact (SeqsKept.ite (h2.trans (.of_keeps (State.msix_keeps _ _ _) (by decide))) h2).trans (.of_keeps (State.trace_keeps _ _ _) (by decide))

theorem State.completeWork_seqs (s : State) (e : EntryId) (status : BitVec 16) (result : BitVec 32) :
    SeqsKept s (s.completeWork e status result) :=
  SeqsKept.ite (.modPt s _ fun _ => rfl) (s.putRecord_seqs _ _ _ _ _)

/-! ### One sequence -/

theorem Part.seqOf_of_kvSeqs {P Q : Part} (h : Q.kvSeqs = P.kvSeqs) (sid : BitVec 32) : Q.seqOf sid = P.seqOf sid :=
  congrArg (List.find? fun q : KvSeq => decide (q.sid = sid)) h

theorem State.modSeq_only (s : State) (p : Nat) (sid : BitVec 32) (f : KvSeq → KvSeq) : Only [.parts] s (s.modSeq p sid f) := s.modPt_only _ _

/-- A change of a sequence that keeps its number is read back under it. -/
theorem State.modSeq_seqOf (s : State) (p : Nat) (sid : BitVec 32) {f : KvSeq → KvSeq} (hf : ∀ q, (f q).sid = q.sid) :
    ((s.modSeq p sid f).pt p).seqOf sid = ((s.pt p).seqOf sid).map f := by
  have hp : (fun q : KvSeq => decide (q.sid = sid)) ∘ (fun q => if q.sid = sid then f q else q) = fun q => decide (q.sid = sid) := by
    funext q
    by_cases h : q.sid = sid <;> simp [h, hf]
  simp only [State.modSeq, State.modPt_pt, if_true, Part.seqOf, List.find?_map, hp]
  cases h : (s.pt p).kvSeqs.find? fun q => decide (q.sid = sid) with
  | none => rfl
  | some q =>
    have hq : q.sid = sid := by simpa using List.find?_some h
    simp [hq]

theorem State.modSeq_kv (s : State) (p : Nat) (sid : BitVec 32) (f : KvSeq → KvSeq) :
    ((s.modSeq p sid f).pt p).kvFree = (s.pt p).kvFree ∧ ((s.modSeq p sid f).pt p).kvNodes = (s.pt p).kvNodes :=
  ⟨s.modPt_keeps_part Part.kvFree _ rfl _, s.modPt_keeps_part Part.kvNodes _ rfl _⟩

/-- A sequence that has ended exists no longer. -/
theorem State.endSeq_seqOf (s : State) (p : Nat) (sid : BitVec 32) : ((s.endSeq p sid).pt p).seqOf sid = none := by
  unfold State.endSeq
  split
  next h => exact h
  next q _ =>
    extract_lets s1 s2
    have h2 : (s2.pt p).seqOf sid = none := by
      rw [Part.seqOf_of_kvSeqs (State.freePages_seqs _ _ _ p), State.modPt_self]
      exact List.find?_eq_none.mpr fun x hx => by simpa using (List.mem_filter.mp hx).2
    split
    · rw [Part.seqOf_of_kvSeqs (State.syncBatch_seqs _ _ _ p), h2]
    · exact h2

/-! ### The two entries (R18, R369) -/

theorem nth_eq_or_mem {α : Type} (d : α) (xs : List α) (n : Nat) : nth d xs n = d ∨ nth d xs n ∈ xs := by
  induction xs generalizing n with
  | nil => exact .inl rfl
  | cons x xs ih =>
    cases n with
    | zero => exact .inr (.head _)
    | succ n => exact (ih n).imp_right (.tail _)

/-- The open status of a refusal is one of Table 23.9 (R490). -/
theorem State.openStatus_mem (s : State) : s.openStatus ∈ statusCodes := by
  obtain h | h := nth_eq_or_mem stEntryInvalid statusCodes ((s.freeAt 0).toNat % 109)
  · exact (congrArg (· ∈ statusCodes) h).mpr (by decide)
  · exact h

/-- A STEP that its task takes: the entry is active, and the task has it behind those that wait (R369). -/
def State.stepQueued (s : State) (e : EntryId) (bs : List Byte) (T : Task) : State :=
  (s.setEntry e .active).modTask T.id fun t => { t with steps := t.steps ++ [(e, bitOf (fieldAt bs 5 1) 0, (bs.drop 16).take 32)] }

theorem State.stepQueued_spec (s : State) (e : EntryId) (bs : List Byte) (T : Task) :
    Only [.parts, .tasks] s (s.stepQueued e bs T) ∧
    (s.stepQueued e bs T).tasks = s.tasks.map (fun x => if x.id = T.id then
      { x with steps := x.steps ++ [(e, bitOf (fieldAt bs 5 1) 0, (bs.drop 16).take 32)] } else x) ∧
    (((s.stepQueued e bs T).pt e.part.val).ring e.ring.val).entries =
      ((s.pt e.part.val).ring e.ring.val).entries.map fun x => if x.seq = e.seq then { x with st := .active } else x :=
  ⟨((s.setEntry_only e .active).mono (by decide)).trans ((State.modTask_only _ _ _).mono (by decide)), rfl, s.setEntry_entries e .active⟩

/-- A SEQ_END that waits for the boundary of a served sequence: the entry is active, and the sequence names it. -/
def State.endAsked (s : State) (e : EntryId) (sid : BitVec 32) : State :=
  (s.setEntry e .active).modSeq e.part.val sid fun q => { q with endReq := some e }

theorem State.endAsked_spec (s : State) (e : EntryId) {sid : BitVec 32} {q : KvSeq} (hq : (s.pt e.part.val).seqOf sid = some q) :
    Only [.parts] s (s.endAsked e sid) ∧ ((s.endAsked e sid).pt e.part.val).seqOf sid = some { q with endReq := some e } ∧
    ((s.endAsked e sid).pt e.part.val).kvFree = (s.pt e.part.val).kvFree ∧
    ((s.endAsked e sid).pt e.part.val).kvNodes = (s.pt e.part.val).kvNodes := by
  obtain ⟨hseqs, hfree, hnodes⟩ := s.setEntry_kv e .active
  let f : KvSeq → KvSeq := fun q => { q with endReq := some e }
  obtain ⟨hfree', hnodes'⟩ := (s.setEntry e .active).modSeq_kv e.part.val sid f
  refine ⟨(s.setEntry_only e .active).trans (State.modSeq_only _ _ _ f), ?_, hfree'.trans hfree, hnodes'.trans hnodes⟩
  calc ((s.endAsked e sid).pt e.part.val).seqOf sid
      = (((s.setEntry e .active).pt e.part.val).seqOf sid).map f := State.modSeq_seqOf _ _ _ fun _ => rfl
    _ = some (f q) := by rw [Part.seqOf_of_kvSeqs hseqs, hq, Option.map_some]

/-- What a STEP does, by its task (R369). -/
theorem exec_step_cases (e : EntryId) (s : State) :
    (s.entryNow e 2 .fetched = none → exec (.step e) s = .next s) ∧
    ∀ bs, s.entryNow e 2 .fetched = some bs →
      let found := s.tasks.find? fun t => decide (t.id.part = e.part) && decide (t.tag = BitVec.ofNat 64 (fieldAt bs 8 8)) && t.fault.isNone
      (found = none → exec (.step e) s = .next (s.completeSt e stTaskUnknown)) ∧
      ∀ T, found = some T → exec (.step e) s = .next (s.stepQueued e bs T).unpark := by
  have arm : exec (.step e) s = .next (stepEntry e s) := rfl
  rw [arm, stepEntry]
  refine ⟨fun h => by rw [h], fun bs h => ?_⟩
  rw [h]
  dsimp only
  exact ⟨fun hT => by rw [hT], fun T hT => by rw [hT]; rfl⟩

/-- What a SEQ_END does, by its sequence (R369). -/
theorem exec_seqEnd_cases (e : EntryId) (s : State) :
    (s.entryNow e 5 .fetched = none → exec (.seqEnd e) s = .next s) ∧
    ∀ bs, s.entryNow e 5 .fetched = some bs →
      let sid := BitVec.ofNat 32 (fieldAt bs 8 4)
      ((s.pt e.part.val).seqOf sid = none → exec (.seqEnd e) s = .next ((s.completeSt e s.openStatus).bump 1)) ∧
      ∀ q, (s.pt e.part.val).seqOf sid = some q →
        (q.endReq.isSome = true → exec (.seqEnd e) s = .next ((s.completeSt e s.openStatus).bump 1)) ∧
        (q.endReq = none → (q.st = .resident ∧ s.batchServed e.part.val q.batch = true) →
          exec (.seqEnd e) s = .next (s.endAsked e sid)) ∧
        (q.endReq = none → ¬(q.st = .resident ∧ s.batchServed e.part.val q.batch = true) →
          exec (.seqEnd e) s = .next (((s.endSeq e.part.val sid).syncTree e.part.val).completeWork e 0 0)) := by
  have arm : exec (.seqEnd e) s = .next (seqEnd e s) := rfl
  rw [arm, seqEnd]
  refine ⟨fun h => by rw [h], fun bs h => ?_⟩
  rw [h]
  dsimp only
  refine ⟨fun hq => by rw [hq], fun q hq => ?_⟩
  rw [hq]
  dsimp only
  refine ⟨fun hend => by rw [if_pos hend], fun hend hserved => ?_, fun hend hserved => ?_⟩
  · rw [if_neg (by simp [hend]), if_pos (by simpa using hserved)]
    rfl
  · rw [if_neg (by simp [hend]), if_neg (by simpa using hserved)]

/-- A sequence that ends at once is gone, and its entry has finished. -/
theorem State.ended_spec (s : State) (e : EntryId) (sid : BitVec 32) :
    let t := ((s.endSeq e.part.val sid).syncTree e.part.val).completeWork e 0 0
    (t.pt e.part.val).seqOf sid = none ∧ Finished t e := by
  refine ⟨?_, State.completeWork_finished _ e 0 0⟩
  rw [Part.seqOf_of_kvSeqs (State.completeWork_seqs _ _ _ _ _),
    Part.seqOf_of_kvSeqs (SeqsKept.of_keeps (State.syncTree_keeps _ _) (by decide) _), State.endSeq_seqOf]

/-- Settles O44, one case of the two entries at a time; that a sequence which has ended is gone holds because no write of Nightwatch
brings one back (`SeqsKept`). -/
theorem stepEntries : Obligations.StepEntries := by
  unfold Obligations.StepEntries
  intro e s
  obtain ⟨hstep0, hstep⟩ := exec_step_cases e s
  obtain ⟨hend0, hseqEnd⟩ := exec_seqEnd_cases e s
  refine ⟨hstep0, hend0, fun bs h => ?step, fun bs h => ?seqEnd⟩
  case step =>
    obtain ⟨hunknown, htask⟩ := hstep bs h
    split
    next hT => exact hunknown hT
    next T hT => exact ⟨_, htask T hT, s.stepQueued_spec e bs T⟩
  case seqEnd =>
    obtain ⟨hunknown, hknown⟩ := hseqEnd bs h
    refine ⟨fun q hq hnone => ?_, ?_⟩
    · obtain ⟨-, hserved, hunserved⟩ := hknown q hq
      split
      next h => exact ⟨_, hserved hnone h, s.endAsked_spec e hq⟩
      next h => exact ⟨_, hunserved hnone h, s.ended_spec e _⟩
    · rintro (hq | ⟨q, hq, hsome⟩)
      · exact ⟨_, s.openStatus_mem, hunknown hq⟩
      · obtain ⟨hending, -⟩ := hknown q hq
        exact ⟨_, s.openStatus_mem, hending hsome⟩

end Sys2Proof.Machine
end

section
/-! PROOFS. A matrix tile whose hinted shape breaks the limit of R32 (R20, R32, R44). -/

namespace Sys2Proof.Machine

/-- A PS16 output of 65 rows and one batch row, whose HINT asks for 8 rows per lane and 64 batch rows. -/
def overhintedOut : BitVec 256 := vec 0x21 0 65 ||| (0x3FF#256 <<< 40)
def overhintedDescs : List (BitVec 256) := [overhintedOut, mat 0x01 0 1 65, vec 0x12 4096 1]
/-- A TMM onto it, of one T5 weight for each row and one A8 activation. -/
def overhintedJob : Job := mkJob .tmm 0 overhintedDescs []
/-- It is alone in its cluster; the T5 byte of row 64 and the activation are 1, every other byte is 0. -/
def overhinted : State := unitT .tmm overhintedDescs [(64, 1), (4224, 1)]

set_option maxRecDepth 4000 in
theorem overhinted_nextTile : NextTile 0 0 overhinted overhintedJob 0 := by unfold NextTile; decide

/-- Eight rows per lane times 64 batch rows are more than the 256 that R32 allows. -/
theorem overhinted_geo : overhintedJob.geo.r = 8 ∧ overhintedJob.geo.b = 64 := by decide
theorem overhinted_mdim : overhintedJob.mdim = { k := 1, n := 65, m := 1, d2 := 1, d3 := 1 } := by decide
set_option maxRecDepth 4000 in
theorem overhinted_tilePos : tilePos overhintedJob.geo overhintedJob.mdim 0 = (0, 0, 0, 0) := by decide

/-- No T5 code is a reserved one. -/
theorem overhinted_winByte_lt (win a : Nat) : (winByte overhinted 0 win a).toNat < 0xF3 := by
  have hspad : (overhinted.cl 0).spad = [(64, 1), (4224, 1)] := rfl
  rw [winByte, State.cell, hspad, mget, mget, mget]
  split
  · decide
  · split <;> decide
/-- The weight of row 1 is zero. -/
theorem overhinted_row_one_zero :
    tritOf (winByte overhinted 0 (overhintedJob.ten 1).win ((overhintedJob.ten 1).at 0 1 0 0).toNat) 0 = 0 := by
  decide

/-- What the bank holds for row n and batch row 0 after the tile. -/
def overhintedEntry (n : Nat) : AccEntry :=
  mget AccEntry.empty ((((done (exec (.tileEnd 0 0) overhinted)).cl 0).mcore 0).bank 0).ents (entryKey 64 n 0)

/-- Beyond 256 entries the key of row slot 64 in lane 0 is that of slot 1 in lane 1. -/
theorem entryKey_slot_collides : entryKey 64 64 0 = entryKey 64 1 0 := by decide
set_option maxRecDepth 4000 in
/-- The contribution of row 64 reaches its entry. -/
theorem overhintedEntry_row_64_valid : tagValid (overhintedEntry 64).tag = true := by decide

/-- An entry without contributions is not valid. -/
theorem entryOf_nil_not_valid : tagValid (entryOf 0 []).tag = false := by decide

/-- Refutes O11: the statement does not ask that the hinted shape keep R32's limit of 256 entries for each lane (issue refuses the
others with TILE_SHAPE), and beyond it two rows share an entry of the bank. Here row 64, which is not zero, leaves a value in the
entry of row 1, all of whose windows are zero and add nothing. -/
theorem not_matrixResults : ¬ Obligations.MatrixResults := by
  unfold Obligations.MatrixResults
  intro ⟨_, h⟩
  obtain ⟨htile, _⟩ := h 0 overhinted rfl rfl rfl
  obtain ⟨t, ht, _, _, _, hents⟩ := htile 0 overhintedJob 0 overhinted_nextTile (by decide) (.inl rfl) rfl rfl rfl rfl rfl
    (.inr (.inr (.inl (by decide)))) (by decide) (by decide) (by decide) (by decide) (by decide)
    (fun _ _ _ _ _ => overhinted_winByte_lt _ _)
  obtain ⟨hr, hb⟩ := overhinted_geo
  have hstart : ((0 : Fin 16) : Nat) + 16 * mget 0 overhintedJob.coreDone ((0 : Fin 16) : Nat) = 0 := rfl
  dsimp only at hents
  rw [hstart, overhinted_tilePos, overhinted_mdim, hr, hb] at hents
  obtain ⟨css, hlen, hent, hcss⟩ := hents 1 0 (by decide) (by decide) (by decide) (by decide)
  obtain ⟨cs, rfl⟩ : ∃ cs, css = [cs] := List.length_eq_one_iff.1 hlen
  have hadds := hcss 0 Nat.one_pos
  rw [if_neg (by decide)] at hadds
  have hnone : cs = [] := hadds.1 (.inr fun x hx => by
    have hx0 : x = 0 := Nat.lt_one_iff.1 hx
    rw [hx0]
    exact overhinted_row_one_zero)
  have hrow1 : overhintedEntry 1 = entryOf 0 [] := by
    rw [overhintedEntry, ht]
    rw [hnone] at hent
    exact hent
  have hvalid := overhintedEntry_row_64_valid
  rw [overhintedEntry, entryKey_slot_collides, ← overhintedEntry, hrow1, entryOf_nil_not_valid] at hvalid
  exact Bool.false_ne_true hvalid

end Sys2Proof.Machine
end

section
/-! PROOFS. An ATTN whose query tensor has fewer elements than its destination (R180, R265). -/

namespace Sys2Proof.Machine

/-- A scratchpad tensor whose elements follow each other has every byte once. -/
theorem oneEach_of_consecutive {s : State} {c o : Nat} {t : Ten} (hsp : t.space = 0) (he : ∀ i, i < t.count → t.elemAt i = (o + i : Nat)) :
    OneEach s c t := by
  have hcell : ∀ i b, i < t.count →
      eltCell s c t i b = some (.spad c (128 * winBase (mget 0 (s.cl c).win t.win) + ((o + i) * eltBytes t.fmt + b))) := by
    intro i b hi
    simp only [eltCell, hsp, he i hi, if_true, Int.toNat_natCast]
  intro i b hi hb
  refine ⟨by rw [hcell i b hi]; rfl, fun k d hk hd heq => ?_⟩
  rw [hcell i b hi, hcell k d hk] at heq
  have hbyte : eltBytes t.fmt * (o + i) + b = eltBytes t.fmt * (o + k) + d := by
    simp only [Option.some.injEq, Cell.spad.injEq, true_and, Nat.mul_comm _ (eltBytes _)] at heq
    omega
  have hdiv := congrArg (· / eltBytes t.fmt) hbyte
  have hpos : 0 < eltBytes t.fmt := by omega
  simp only [Nat.mul_add_div hpos, Nat.div_eq_of_lt hb, Nat.div_eq_of_lt hd] at hdiv
  obtain rfl : i = k := by omega
  exact ⟨rfl, by omega⟩

/-- Descriptors of an ATTN of one query row of 32 elements whose SRCA names one element only. -/
def shortQueryDescs : List (BitVec 256) := [vec 0x31 0 32, vec 0x12 4096 1, mat 0x30 4096 64 1, vec 0x31 64 2]
/-- It is alone in its cluster, over one cached position whose key holds 1 in element 1. The query element is 1 in A8, STATE holds a
maximum of minus infinity, every other key, value and sum is 0. -/
def shortQuery : State := kvUnit .attn 0 shortQueryDescs (bytesAt 4224 1 64 ++ bytesAt 8320 1 121 ++ bytesAt 256 4 0xFF800000) 1
  (bytesAt 65538 2 0x3F80)
def shortQueryJob : Job := unitJob shortQuery 4
def shortQueryLay : KvLay := ⟨16, 1, 32, true, false⟩
def shortQueryBatch : Batch := { addr := 64, count := 1, lay := some shortQueryLay, layers := 1, qrows := 1, look := 0 }

theorem shortQuery_oldest : Oldest 0 4 shortQuery shortQueryJob [] := by unfold Oldest; decide
theorem shortQuery_memSound : MemSound shortQuery := ⟨rfl, rfl, rfl, fun _ => rfl⟩
theorem shortQuery_kvGood :
    kvGood shortQuery (shortQuery.cl 0).part.toNat (nth 0 shortQueryJob.scal 0) = some (shortQueryBatch, shortQueryLay) := by
  decide
theorem shortQuery_pages_valid : ∀ i, i < shortQueryBatch.count → ∀ x ∈ shortQuery.pageDescs (shortQuery.cl 0).part.toNat shortQueryLay
    (shortQuery.seqRec (shortQuery.cl 0).part.toNat shortQueryBatch i) (kLayer shortQueryJob.word), x.valid = true := by
  decide
theorem shortQuery_dst_plain : PlainTen 0x31 (shortQueryJob.ten 0) := by unfold PlainTen; decide
theorem shortQuery_state_plain : PlainTen 0x31 (shortQueryJob.ten 3) := by unfold PlainTen; decide
theorem shortQuery_dst_oneEach : OneEach shortQuery 0 (shortQueryJob.ten 0) := oneEach_of_consecutive rfl (o := 0) (by decide)
theorem shortQuery_state_oneEach : OneEach shortQuery 0 (shortQueryJob.ten 3) := oneEach_of_consecutive rfl (o := 64) (by decide)
theorem shortQuery_apart : Apart shortQuery 0 (shortQueryJob.ten 0) (shortQueryJob.ten 3) := apart_ok (by decide)
theorem shortQuery_keys_values_stated :
    ∀ pg ∈ (attnPages shortQuery 0 shortQueryJob shortQueryBatch shortQueryLay 0 0).1, ∀ x ∈ pg.keys ++ pg.vals, kvErr x = [] := by
  decide

/-- The query row as the statement reads it: also past SRCA's last element, where its one element comes again. -/
def shortQueryRow : List Raw :=
  (List.range 32).map fun e => (shortQueryJob.ten 1).raw (jobRd (shortQuery.cl 0) shortQueryJob (shortQueryJob.ten 1).win) e

/-- The row's softmax state by the statement: it begins with what STATE and DST hold. -/
def shortQuerySoft : Soft :=
  let m := fvRead 23 (eltVal shortQuery 0 (shortQueryJob.ten 3) 0)
  attnRow shortQueryLay false 2 1 1 0 0 ((chunksOf 5 (rawBlks shortQueryRow)).map alignWin)
    (attnPages shortQuery 0 shortQueryJob shortQueryBatch shortQueryLay 0 0).1
    { m := m, s := fvRead 23 (eltVal shortQuery 0 (shortQueryJob.ten 3) 1)
      acc := (List.range 32).map fun e =>
        if m = .inf true then .zero false false else fvRead 23 (eltVal shortQuery 0 (shortQueryJob.ten 0) e)
      st := {} }
/-- By the statement element 1 of the query meets the key's 1, so that the maximum is the score 1. -/
theorem shortQuerySoft_max : fv32 shortQuerySoft.m = 0x3F800000 := by decide
set_option maxRecDepth 4000 in
/-- The instruction takes zeros past SRCA's last element: the maximum that it leaves is the score 0. -/
theorem shortQuery_max_left : eltVal (unitEnd shortQuery 4) 0 (shortQueryJob.ten 3) 0 = 0 := by decide

/-- Refutes O20: its clause on ATTN does not ask that SRCA have the shape of DST (issue refuses others with SHAPE_MISMATCH). Here SRCA
has one element and DST a row of 32: the instruction takes the 31 missing ones as zero and leaves the maximum 0, while the statement
goes on reading SRCA past its end, where its only element comes again, and claims the maximum 1. -/
theorem not_unitWrites : ¬ Obligations.UnitWrites := by
  unfold Obligations.UnitWrites
  intro h
  obtain ⟨-, -, -, hattn, -⟩ := h 0 shortQuery shortQueryJob []
  obtain ⟨t, ht, -, hrows⟩ := hattn shortQueryBatch shortQueryLay shortQuery_oldest shortQuery_memSound shortQuery_kvGood rfl rfl
    shortQuery_pages_valid rfl shortQuery_dst_plain rfl shortQuery_dst_oneEach shortQuery_state_plain rfl shortQuery_state_oneEach
    shortQuery_apart rfl rfl
  obtain ⟨hmax, -⟩ := hrows 0 (by decide) shortQuery_keys_values_stated
  obtain rfl : unitEnd shortQuery 4 = t := congrArg done ht
  have hsame : (0 : Nat) = 0x3F800000 := shortQuery_max_left.symm.trans (hmax.trans shortQuerySoft_max)
  exact absurd hsame (by decide)

end Sys2Proof.Machine
end
